-- ==== Sys2Proof/Word.lean ====
section
/-! DEFINITION. The word types: a 32-bit register word and a byte. -/
namespace Sys2Proof

/-- A register word (R32): every register page is made of 32-bit words. -/
abbrev Word := BitVec 32

/-- One byte of DRAM, of a descriptor or of an envelope. -/
abbrev Byte := BitVec 8

end Sys2Proof
end

