-- ==== Sys2Proof/Syntax.lean ====
section
/-! DEFINITION. The commands of the table of operations and events (opcode_table.json): one constructor per row. -/
namespace Sys2Proof

/-- Who sends a register access: partition software of Pn through its virtual function, the host on the physical
function (also the supervisor), or the manager on SPI (Roles, 00_scope.md; R33 ERR.SRC). -/
inductive Src where
  | part (n : Fin 8)
  | host
  | manager
  deriving DecidableEq, Repr, Inhabited

/-- The requester code of ERR.SRC (R33). -/
def Src.code : Src → Nat
  | .part n => n
  | .host => 8
  | .manager => 9

/-- The owner code that a requester's own pages carry: the supervisor owns for host and manager alike. -/
def Src.owner : Src → Nat
  | .part n => n
  | _ => 8

/-- What an estimation block of a channel measured (R120, R124, R128; log entry 29). `err`: for each core in sampling order,
what each loop (offset, gain, bandwidth, skew) still lacks, in its resolution of R119. `rms`: mean-removed RMS below full
scale, `guard`: energy near guard points 1 to 8 below the AC energy, `hf`: energy above Fs/4 below it, all in 1/100 dB.
`period`: the repetition period in samples, 0 for none. `spur`: residual spur bound in 1/4 dB, dBFS. -/
structure BlockStats where
  err : List (List Int)
  rms : Nat
  period : Nat
  guard : List Nat
  hf : Nat
  spur : Int
  deriving DecidableEq, Repr, Inhabited

/-- What issues a DRAM request (R225): segment data and headers or DRAM-ring blocks of an acquisition; tiles, snapshots and mask
bitmaps of an accumulation unit; BAR2 of a function (8: the host's own); or a DMA ring. -/
inductive Traffic where
  | segment (u : Fin 8)
  | stream (u : Fin 8)
  | tile (h : Fin 8)
  | snapshot (h : Fin 8)
  | masks (h : Fin 8)
  | bar2 (fn : Fin 9)
  | dma (r : Fin 16)
  deriving DecidableEq, Repr, Inhabited

/-- A DRAM request (R225): what issues it, write, and the bytes of one unit that it covers, by DRAM address and length. -/
structure DramReq where
  src : Traffic
  wr : Bool
  addr : Nat
  len : Nat
  deriving DecidableEq, Repr, Inhabited

/-- A bank (rank in bit 4, bank group in bits 3:2, bank in bits 1:0) as it stands at a CK cycle. -/
structure BankAt where
  bank : Fin 32
  ck : Nat
  deriving DecidableEq, Repr, Inhabited

/-- One write access of a CKC cycle: its requester, page, word offset and data word. -/
structure Access where
  who : Src
  page : Fin 256
  off : Fin 4096
  data : Word
  deriving DecidableEq, Repr, Inhabited

/-- What software writes into a DMA descriptor (R313): buffer length in bytes, operation, IRQ flag, DRAM offset. The host
address HADDR lies outside the block. -/
structure Desc where
  len : Nat
  op : Nat
  irq : Bool
  daddr : Nat
  deriving DecidableEq, Repr, Inhabited

/-- A descriptor that the DMA engine has fetched at the head of its ring, and those at the heads of other rings (R317). -/
structure Fetched where
  desc : Desc
  heads : List (Fin 16 × Desc)
  deriving DecidableEq, Repr, Inhabited

/-- The commands the block takes, in the order of the table. An operand `who` names the sender of a register access; `n`, `ch`,
`f`, `t`, `u`, `h`, `dmc`, `r` number the unit; `data` is the word written. A frame on the Miolan receive port is given by its
SRC, EVT and BODY fields; `ck` is the CK cycle of a DRAM command; `ring` is the time since the root's PROBE left, in 1/64 CKD, and `late` the arrival's distance from the last CKC
edge in 1/64 CKD. -/
inductive Instr where
  -- Register pages (R30-R49)
  | registerWrite (who : Src) (page : Fin 256) (off : Fin 4096) (data : Word) (rival : Option Access)
  | multiwordLatchWrite (who : Src) (page : Fin 256) (off : Fin 4096) (data : Word)
  | multiwordSnapshotRead (who : Src) (page : Fin 256) (off : Fin 4096)
  | ctlEnSet (who : Src) (page : Fin 256)
  | ctlEnClear (who : Src) (page : Fin 256)
  | ctlCommit (who : Src) (page : Fin 256)
  | commitApply (page : Fin 256) (fn : Fin 9)
  | ctlAbort (who : Src) (page : Fin 256)
  | ctlXu (who : Src) (page : Fin 256) (on : Bool)
  | grpGo (who : Src)
  | grpMemberReady (view : Fin 10) (page : Fin 256)
  | grpApply (view : Fin 10)
  | grpTimeout (view : Fin 10)
  | grpCancel (who : Src)
  -- The clock (R14-R29, R87-R88)
  | clkCommit (who : Src)
  | retuneRelock
  | retuneDone (eyes : List Nat)
  | refMeasure (hz : Nat)
  | holdTmoExpiry
  | lockLost
  | ckhLimitsWrite (who : Src) (data : Word)
  | ckhLoopEval (slack : List Int)
  | ckhDivStep
  | slackBelowTarget
  | boostReclaimPowerup
  -- Partitions (R50-R78)
  | grantWrite (who : Src) (off : Fin 4096) (data : Word)
  | tapWrite (who : Src) (data : Word)
  | regionWrite (who : Src) (n : Fin 8) (data : Word)
  | qosWrite (who : Src) (off : Fin 4096) (data : Word)
  | tixcapWrite (who : Src) (n : Fin 8) (data : Word)
  | prtReset (who : Src) (n : Fin 8)
  | partResetDone (n : Fin 8)
  | prtSuspend (who : Src) (n : Fin 8)
  | prtResume (who : Src) (n : Fin 8)
  | heartbeat (who : Src)
  | leaseLapse (n : Fin 8)
  | drainDone (n : Fin 9)
  | drainTimeout (n : Fin 9)
  | drainBudgetExhausted (n : Fin 9)
  | grantInconsistent
  -- The current budget (R79-R97)
  | limitWrite (who : Src) (data : Word)
  | budgetWrite (who : Src) (data : Word) (rival : Option Word)
  | avsUpdate (ckd ckh : Int)
  | avsTransactionDone (retries : Fin 5) (current : Option Nat)
  | dtsSample (temps : List (Option Int))
  | thermShedStep
  | dtsFail (k : Fin 8)
  | xchkPeriod
  -- Converters and calibration (R98-R139)
  | datapathWord (ch ph : Fin 4) (samples : List Int) (clips : Nat)
  | settleEnd (ch : Fin 4)
  | cnvPowerUpDone (ch : Fin 4)
  | cnvPwrTimeout (ch : Fin 4)
  | arrCommit (who : Src)
  | arrMap
  | calBlockEnd (ch : Fin 4) (stats : BlockStats)
  | calUpdateApply (ch : Fin 4)
  | starveLimit (ch loop : Fin 4)
  | calTmo (ch : Fin 4)
  | calReset (who : Src) (ch : Fin 4)
  | calDeclReset (who : Src) (ch : Fin 4)
  | calRewarm (who : Src) (ch : Fin 4)
  | warmupEnd (ch : Fin 4) (ok : Bool) (cores : List (List Int))
  | declWindowEnd (ch : Fin 4)
  -- Filter chains (R140-R157)
  | schussValue (f : Fin 8)
  | carveOutput (f : Fin 8)
  | fchGridStart (f : Fin 8)
  | coefDataWrite (who : Src) (f : Fin 8) (data : Word)
  | coefDataRead (who : Src) (f : Fin 8)
  | pkHoldClr (who : Src) (f : Fin 8)
  | pkHoldEnd (f : Fin 8)
  | fchCoef (f : Fin 8)
  | fromCheck (ok : Bool)
  -- Sequencers (R158-R177)
  | tent (t : Fin 8)
  | tentResolve (t : Fin 8)
  | gateTmaxExpiry (t : Fin 8) (lead : Bool)
  | holdoffEnd (t : Fin 8)
  | trgForce (who : Src) (t : Fin 8)
  | trgRearm (who : Src) (t : Fin 8)
  | syncLost (t : Fin 8)
  | trgParity (t : Fin 8)
  -- Capture and stream (R178-R195)
  | acqArm (who : Src) (u : Fin 8)
  | segmentClose (u : Fin 8)
  | segmentWritten (u : Fin 8) (hdrUe : Bool)
  | acqRearmDone (u : Fin 8)
  | acqStop (who : Src) (u : Fin 8)
  | acqOverflowEnd (u : Fin 8)
  | streamBlockClose (u : Fin 8)
  | strRdWrite (who : Src) (u : Fin 8) (data : Word)
  -- Accumulation (R196-R218)
  | hisRecordClose (h : Fin 8)
  | hisFoldDone (h : Fin 8)
  | maskPostExpiry (u : Fin 8)
  | hisSnap (who : Src) (h : Fin 8)
  | snapshotDone (h : Fin 8)
  | hisClear (who : Src) (h : Fin 8)
  | hisMload (who : Src) (h : Fin 8)
  | mloadDone (h : Fin 8)
  | hisTile (h : Fin 8)
  | hisMask (h : Fin 8)
  -- DRAM (R219-R248)
  | dramRequest (ck : Nat) (req : DramReq)
  | dramCommandIssue (dmc : Fin 8) (ck : Nat) (blocked : List Nat) (ecc : Fin 5)
  | pageIdleClose (dmc : Fin 8) (bank : BankAt)
  | refreshDue (dmc : Fin 8) (bank : Fin 32)
  | mr4Read (dmc : Fin 8) (rank : Bool) (code : Fin 16)
  | snowplough (dmc : Fin 8) (bank : Fin 32) (row : Nat)
  | throttleDouble (dmc : Fin 8) (bank : Fin 32) (row : Nat)
  | refreshWindowBoundary (dmc : Fin 8)
  | dramInitDone (eyes : List Nat)
  | wck2dqOscRead (dmc : Fin 8) (drift : Nat)
  | retrainPeriod (dmc : Fin 8)
  | leccRetrainTrigger (dmc : Fin 8)
  | dmcRetrain (who : Src) (dmc : Fin 8)
  | retrainStart (dmc : Fin 8)
  | retrainPass (dmc : Fin 8)
  | shortCheckDone (dmc : Fin 8) (ok : Bool)
  | marginalRetrain (dmc : Fin 8)
  | dmxRemap (who : Src)
  | dmxMap
  -- Monitor, comparators, events (R249-R273)
  | mcvConversionDone (v : Int)
  | mcvUrg (who : Src) (data : Word)
  | mcvRefCheck
  | accSnap (who : Src) (input : Fin 64) (clear : Bool)
  | accClear (who : Src) (input : Fin 64)
  | wcpLiveChange (n : Fin 8) (vd : Int)
  | wcpFilterSample (n : Fin 8)
  | wcpCheckPeriod (n : Fin 8)
  | wcpCheckAfterCommit (n : Fin 8)
  | wcpCheck (who : Src) (n : Fin 8)
  | evrForce (who : Src) (half : Bool) (data : Word)
  | evioInputChange (k : Fin 16) (level : Bool)
  | evrParity
  -- Transport and sensors (R274-R303)
  | tachEdge (a b : Bool)
  | idxEdge
  | ctlEdge (rising : Bool)
  | xportReadyEdge (rising : Bool)
  | xptLoad (who : Src)
  | velUpdate
  | xptStopReq (who : Src)
  | evrStopEdge
  | outrunEnd
  | xptRelease (who : Src)
  | sfePeriodEnd (n : Fin 4) (i q : Int) (z : Nat)
  | sfeImpCheck (n : Fin 4)
  | sfeGuard (n : Fin 4)
  -- Host and management ports (R304-R333)
  | bar0BadAccess (who : Src)
  | bar2Read (who : Src) (addr len : Nat) (ue : Bool)
  | bar2Write (who : Src) (addr : Nat) (bytes : List Byte)
  | bar2MarkClear (who : Src)
  | msixUnmask (fn : Fin 9) (vec : Nat)
  | vfFlr (n : Fin 8)
  | pfFlr
  | dmqTailWrite (who : Src) (r : Fin 16) (data : Word)
  | descStream (r : Fin 16) (d : Fetched)
  | descRead (r : Fin 16) (d : Fetched) (ue : Bool)
  | descWrite (r : Fin 16) (d : Fetched) (bytes : List Byte)
  | descComplete (r : Fin 16) (d : Desc)
  | dmqCoalTimeout (r : Fin 16)
  | dmaHost (r : Fin 16) (tmo : Bool)
  | pciLink
  | pciAerUe
  | linkRetrain (who : Src)
  | numvfsWrite (num : Fin 16) (en : Bool) (ari : Bool)
  | spiReadFrame (addr : Fin 1048576)
  | spiWriteFrame (addr : Fin 1048576) (data : Word)
  | spiFrameAbandon
  | spiUnknownOpcode (crc : Bool)
  | clogClr (who : Src)
  -- Keyed commands, time and usage (R334-R366)
  | partCreate (who : Src)
  | partDestroy (who : Src)
  | partDestroyDone
  | xptGrant (who : Src)
  | xptOverride (who : Src)
  | keyRotate (who : Src)
  | keyRotateDone
  | useRead (who : Src)
  | useRestore (who : Src)
  | debug (who : Src)
  | keyUnknownCmd (who : Src)
  | keyLockoutEnd (manager : Bool)
  | timStep (who : Src) (data : Word)
  | ppsEdge (rising : Bool)
  | ppsLost
  | useBoundary
  | boundWrite (who : Src) (data : Word)
  -- The Miolan link (R367-R381)
  | mlnRxIdle (src : Fin 8) (evt : BitVec 16)
  | mlnRxProbe (src : Fin 8) (evt : BitVec 16) (body : BitVec 56) (ring : Fin 1048576)
  | mlnRxTimeHi (src : Fin 8) (evt : BitVec 16) (body : BitVec 56)
  | mlnRxTimeLo (src : Fin 8) (evt : BitVec 16) (body : BitVec 56) (late : Nat)
  | mlnRxTimeRate (src : Fin 8) (evt : BitVec 16) (body : BitVec 56)
  | mlnRxArm (src : Fin 8) (evt : BitVec 16) (body : BitVec 56)
  | mlnRxArmAck (src : Fin 8) (evt : BitVec 16) (body : BitVec 56)
  | mlnRxTrig (src : Fin 8) (evt : BitVec 16) (body : BitVec 56)
  | mlnRxReserved (src : Fin 8) (evt : BitVec 16) (ty : Fin 8) (body : BitVec 56)
  | mlnCrcError
  | mlnClockLoss
  | mlnProbeSend
  | mlnProbeTimeout
  | mlnTimeSend
  | mlnArmSubmit (who : Src) (data : Word)
  | mlnArmExecute
  | rxTrigPop (who : Src)
  -- Faults, resets, start-up (R382-R408)
  | fltAck (who : Src) (data : Word)
  | fltClear (who : Src) (data : Word)
  | fltPurge (who : Src)
  | fltParity
  | por
  | resetN
  | perst (cause : Fin 3)
  | rstSoft (who : Src) (data : Word)
  | softResetDone (eyes : List Nat)
  | rstPart (who : Src) (data : Word)
  | rstBlk (who : Src) (data : Word)
  | blockResetDone (page : Fin 256)
  | fuseLoadDone (nonce : Fin 18446744073709551616) (badSlots : List Nat) (romOk : Bool)
  | rsLock
  | rsLockTimeout
  | mlnFramed
  | pciLinkUp (speed : Fin 8) (width : Fin 16)
  | railBelowPorThreshold
  | tb96SecondsRollover
  deriving DecidableEq, Repr, Inhabited

end Sys2Proof
end

