-- ==== Sys2Proof/Config.lean ====
section
/-! DEFINITION. What the spec leaves to the implementation: constants and functions with no body. Nothing in Lean can
evaluate one or prove a value of it, so a statement about it holds whatever it is. -/
namespace Sys2Proof.Config

/-- A value of one byte that the spec leaves open: contents of DRAM that nothing has written since it was initialised
(R235, R241). Applied to a counter of the state that each use advances. -/
opaque freeByte : Nat → BitVec 8

/-- A word that the spec leaves open, applied to the same counter. -/
opaque freeWord : Nat → BitVec 32

/-- PID.VER of a block (R33 gives no value), by block type code. -/
opaque pidVer : Nat → BitVec 8

/-- Half the span of the bandwidth limit's filter, in samples, and its coefficients from the middle outwards, Q1.17, by SEL
(R103 gives its cut-off and that its phase is linear, no coefficients). -/
opaque bwlHalf : Nat → Nat
opaque bwlTap : Nat → Nat → Int

/-- Coefficient j of a ROM response at a ratio, on any scale: their sum stands for the DC gain of 1 (R144 gives the responses'
properties, not their taps). Of a linear-phase response only the first half is read. -/
opaque romTap : Nat → Nat → Nat → Int

/-- Coefficient of the envelope's 63-tap Hilbert transform at distance 1 to 31 from its middle, Q1.17 (R154 lists none). -/
opaque hilbertTap : Nat → Int

/-- The gains of the eye tracker's second-order loop, in 1/256: R200 gives its order and its bandwidth, not its damping. The
first is that of the phase at a bandwidth of f_UI, the second that of the period. -/
opaque eyePhase : Nat
opaque eyePeriod : Nat

/-- Which of a word's updates a full queue takes (R203 names a 16-bit LFSR, no polynomial): the LFSR's count from its
seed and how many are still to be chosen, to a position. -/
opaque skipPick : Nat → Nat → Nat

/-- Whether a unit's queue waits for a tile from DRAM in a CKD cycle (R203 gives no layout of the cache): the `n`th draw. -/
opaque tileMiss : Nat → Bool

/-- Convergence threshold of a calibration loop (R123 gives none), by loop 0 offset, 1 gain, 2 bandwidth, 3 skew. -/
opaque convThreshold : Nat → Int

/-- Group delay of a minimum-phase ROM response at GD_REF points 1 to 7, 1/256 output samples (R144 states point 0). -/
opaque romGd : Nat → Nat → Nat

/-- Passband ripple that a FROM entry shows where R144 gives none, by response. -/
opaque freeRipple : Nat → BitVec 16

/-- Factory trim of a core's correction (R129, R131), by loop 0 offset, 1 gain, 2 bandwidth, 3 skew, and core. -/
opaque coreTrim : Nat → Nat → Int

/-- RFM thresholds of the device (R231): RAAIMT, RAAMMT, and what a refresh takes off the count. -/
opaque raaImt : Nat
opaque raaMmt : Nat
opaque raaRefresh : Nat

/-- How many per-bank refreshes JEDEC lets a bank postpone, and how many it may be ahead by (R230). -/
opaque refPostpone : Nat
opaque refPullIn : Nat

/-- Whether a request misses the check-byte cache (R224 gives its size, no layout): the `n`th draw. -/
opaque checkMiss : Nat → Bool

/-- The test access port's instruction codes and cells, which R423 does not list: the width of the instruction register less 2,
the instruction of a code (read from the bit nearest TDO), what Capture-IR loads above its two lowest bits, the number of boundary
cells, and the level a cell captures, by the `n`th draw. -/
opaque tapIrMore : Nat
opaque tapCode : List Bool → Nat
opaque tapIrCapture : Nat → Bool
opaque tapCells : Nat
opaque tapLevel : Nat → Nat → Bool

/-- The lowest JEDEC speed bin at or above a data rate, hundreds of MT/s (R221). -/
opaque speedBin : Nat → Nat

end Sys2Proof.Config
end

