-- ==== Sys2Proof/Machine/Regs.lean ====
section
/-! DEFINITION. The register fields of every page, as the spec's field tables give them: offset, low bit and width of
each field, its access type (R32 and the table "Access types" of 00_scope.md), reset value and stated range, and the
page map of R30. A field wider than its word spans the words that follow (R38). -/
namespace Sys2Proof.Machine

/-- A register field: byte offset of its (first) word in the page, lowest bit, width in bits. -/
structure Fld where
  off : Nat
  lo : Nat
  w : Nat
  deriving DecidableEq, Repr

/-- Access types of 00_scope.md; `rwls` is a staged field that is also expert-locked. -/
inductive Acc where
  | ro | rw | rws | rwl | rwls | w1c | wo
  deriving DecidableEq, Repr

/-- One field with its access, reset value and stated range (`sg`: the value is read as two's complement). -/
structure Row where
  f : Fld
  acc : Acc
  reset : Nat
  lo : Int
  hi : Int
  sg : Bool
  deriving DecidableEq, Repr

/-- A row whose range is the whole field. -/
def Row.full (f : Fld) (a : Acc) (r : Nat) : Row := ⟨f, a, r, 0, 2 ^ f.w - 1, false⟩
def Row.ro (f : Fld) (r : Nat) : Row := Row.full f .ro r
def Row.rw (f : Fld) (r : Nat) : Row := Row.full f .rw r
def Row.rws (f : Fld) (r : Nat) : Row := Row.full f .rws r
def Row.rwl (f : Fld) (r : Nat) : Row := Row.full f .rwl r
def Row.rwls (f : Fld) (r : Nat) : Row := Row.full f .rwls r
def Row.w1c (f : Fld) : Row := Row.full f .w1c 0
def Row.wo (f : Fld) : Row := Row.full f .wo 0

/-- The row with a stated range of values. -/
def Row.rng (r : Row) (lo hi : Int) (sg : Bool := false) : Row := { r with lo := lo, hi := hi, sg := sg }

/-- A raw field value read as two's complement of width `w`. -/
def signed (w v : Nat) : Int := if v < 2 ^ (w - 1) then v else (v : Int) - 2 ^ w

/-- The raw value of a signed quantity in a field of width `w`. -/
def unsigned (w : Nat) (i : Int) : Nat := (i % 2 ^ w).toNat

/-- The value lies in the row's stated range. -/
def Row.inRange (r : Row) (v : Nat) : Bool :=
  let x : Int := if r.sg then signed r.f.w v else v
  r.lo ≤ x && x ≤ r.hi

/-! ### Common header of every page (02_register_pages.md; R33) -/
namespace HDR
def GEN.COUNT : Fld := ⟨0xC, 0, 32⟩
def CTL.EN : Fld := ⟨0x10, 0, 1⟩
def CTL.COMMIT : Fld := ⟨0x10, 1, 1⟩
def CTL.ABORT : Fld := ⟨0x10, 2, 1⟩
def CTL.XU : Fld := ⟨0x10, 3, 1⟩
def CTL.RDLIVE : Fld := ⟨0x10, 4, 1⟩
def STS.GROUPED : Fld := ⟨0x14, 29, 1⟩
def STS.DIRTY : Fld := ⟨0x14, 30, 1⟩
def STS.PENDING : Fld := ⟨0x14, 31, 1⟩
def IST.ERR_SET : Fld := ⟨0x18, 29, 1⟩
def IST.CMT_REFUSED : Fld := ⟨0x18, 30, 1⟩
def IST.CMT_DONE : Fld := ⟨0x18, 31, 1⟩
def IEN.MASK : Fld := ⟨0x1C, 0, 32⟩
def ERR.CODE : Fld := ⟨0x20, 0, 4⟩
def ERR.WORD : Fld := ⟨0x20, 4, 10⟩
def ERR.SRC : Fld := ⟨0x20, 16, 4⟩
/-- The rows of the page: each field with its access, reset value and range (R33). -/
def rows : List Row :=
  [Row.ro GEN.COUNT 0,
   Row.rw CTL.EN 0,
   Row.wo CTL.COMMIT,
   Row.wo CTL.ABORT,
   Row.rw CTL.XU 0,
   Row.rw CTL.RDLIVE 0,
   Row.ro STS.GROUPED 0,
   Row.ro STS.DIRTY 0,
   Row.ro STS.PENDING 0,
   Row.w1c IST.ERR_SET,
   Row.w1c IST.CMT_REFUSED,
   Row.w1c IST.CMT_DONE,
   Row.rw IEN.MASK 0,
   Row.rw ERR.CODE 0,
   Row.rw ERR.WORD 0,
   Row.rw ERR.SRC 0]
end HDR

/-! ### ENG page (02_register_pages.md; R49) -/
namespace ENG
def STS.READY : Fld := ⟨0x14, 0, 1⟩
def STS.QUIESCENT : Fld := ⟨0x14, 1, 1⟩
def STS.RETUNE : Fld := ⟨0x14, 2, 1⟩
def VARIANT.PRODUCT : Fld := ⟨0x40, 0, 1⟩
def VARIANT.CORES : Fld := ⟨0x40, 8, 5⟩
def VARIANT.DMC_MASK : Fld := ⟨0x40, 16, 8⟩
def VARIANT.PARTS : Fld := ⟨0x40, 24, 4⟩
def RS_FREQ.KHZ : Fld := ⟨0x44, 0, 25⟩
def CKH_DIV.DIV : Fld := ⟨0x48, 0, 6⟩
def PGEN.COUNT : Fld := ⟨0x4C, 0, 32⟩
def OWNER_CNT.COUNT : Fld := ⟨0x50, 0, 16⟩
def COMMIT_TMO.US : Fld := ⟨0x54, 0, 16⟩
def GRP_CTL.GO : Fld := ⟨0xA0, 0, 1⟩
def GRP_CTL.CANCEL : Fld := ⟨0xA0, 1, 1⟩
def GRP_STS.PENDING : Fld := ⟨0xA4, 0, 1⟩
def GRP_STS.DONE : Fld := ⟨0xA4, 1, 1⟩
def GRP_STS.TIMEOUT : Fld := ⟨0xA4, 2, 1⟩
def GRP_STS.LAGGARD : Fld := ⟨0xA4, 8, 8⟩
def GRP_APPLIED_CNT.COUNT : Fld := ⟨0xE00, 0, 32⟩
def GRP_TIMEOUT_CNT.COUNT : Fld := ⟨0xE04, 0, 16⟩
def GRP_PAGE.PAGES (n : Nat) : Fld := ⟨0x80 + 4 * n, 0, 32⟩
/-- The rows of the page: each field with its access, reset value and range (R49). -/
def rows : List Row :=
  [Row.ro STS.READY 0,
   Row.ro STS.QUIESCENT 1,
   Row.ro STS.RETUNE 0,
   Row.ro VARIANT.PRODUCT 0,
   Row.ro VARIANT.CORES 0,
   Row.ro VARIANT.DMC_MASK 0,
   Row.ro VARIANT.PARTS 0,
   Row.ro RS_FREQ.KHZ 20000000,
   Row.ro CKH_DIV.DIV 48,
   Row.ro PGEN.COUNT 0,
   Row.ro OWNER_CNT.COUNT 0,
   (Row.rws COMMIT_TMO.US 1000).rng 1 65535,
   Row.wo GRP_CTL.GO,
   Row.wo GRP_CTL.CANCEL,
   Row.ro GRP_STS.PENDING 0,
   Row.ro GRP_STS.DONE 0,
   Row.ro GRP_STS.TIMEOUT 0,
   Row.ro GRP_STS.LAGGARD 0,
   Row.ro GRP_APPLIED_CNT.COUNT 0,
   Row.ro GRP_TIMEOUT_CNT.COUNT 0] ++
  (List.range 8).map (fun n => Row.rw (GRP_PAGE.PAGES n) 0)
end ENG

/-! ### BUD page (04_current_budget.md; R97) -/
namespace BUD
def STS.OVERCOMMIT : Fld := ⟨0x14, 0, 2⟩
def STS.WARN : Fld := ⟨0x14, 2, 1⟩
def STS.EMERG : Fld := ⟨0x14, 3, 1⟩
def STS.AVS_ON : Fld := ⟨0x14, 4, 1⟩
def STS.AVS_FAIL : Fld := ⟨0x14, 5, 1⟩
def IST.REFUSED : Fld := ⟨0x18, 0, 1⟩
def IST.OVERCOMMIT : Fld := ⟨0x18, 1, 1⟩
def IST.WARN : Fld := ⟨0x18, 2, 1⟩
def IST.EMERG : Fld := ⟨0x18, 3, 1⟩
def IST.SHED : Fld := ⟨0x18, 4, 1⟩
def IST.AVS_FAIL : Fld := ⟨0x18, 5, 1⟩
def IST.XCHK : Fld := ⟨0x18, 6, 1⟩
def LIMIT.CORE : Fld := ⟨0x40, 0, 10⟩
def LIMIT.ADC : Fld := ⟨0x40, 16, 10⟩
def BUDGET.CORE : Fld := ⟨0x44, 0, 10⟩
def BUDGET.ADC : Fld := ⟨0x44, 16, 10⟩
def HELD.CORE : Fld := ⟨0x48, 0, 10⟩
def HELD.ADC : Fld := ⟨0x48, 16, 10⟩
def FREE.CORE : Fld := ⟨0x4C, 0, 11⟩
def FREE.ADC : Fld := ⟨0x4C, 16, 11⟩
def BOOST.CORE : Fld := ⟨0x50, 0, 10⟩
def VIEW_HELD.CORE : Fld := ⟨0x54, 0, 10⟩
def VIEW_HELD.ADC : Fld := ⟨0x54, 16, 10⟩
def REFUSE.CAUSE : Fld := ⟨0x58, 0, 2⟩
def REFUSE.RAIL : Fld := ⟨0x58, 2, 2⟩
def REFUSE.PAGE : Fld := ⟨0x58, 8, 8⟩
def REFUSE.SHORT : Fld := ⟨0x58, 16, 10⟩
def REFUSE.SRC : Fld := ⟨0x58, 28, 4⟩
def TEMP.MAX : Fld := ⟨0x5C, 0, 8⟩
def TEMP.SENSOR : Fld := ⟨0x5C, 8, 3⟩
def THERM.WARN : Fld := ⟨0x60, 0, 8⟩
def THERM.EMERG : Fld := ⟨0x60, 8, 8⟩
def THERM.SHED_INT : Fld := ⟨0x60, 16, 16⟩
def VCORE.MV : Fld := ⟨0x64, 0, 10⟩
def SHED_LOG.STEP : Fld := ⟨0x68, 0, 3⟩
def SHED_LOG.PAGE : Fld := ⟨0x68, 8, 8⟩
def AVS_CFG.EN : Fld := ⟨0x400, 0, 1⟩
def AVS_CFG.RAIL : Fld := ⟨0x400, 4, 4⟩
def AVS_CFG.CLK : Fld := ⟨0x400, 8, 3⟩
def AVS_CFG.IREAD : Fld := ⟨0x400, 12, 1⟩
def AVS_CFG.PERIOD : Fld := ⟨0x400, 16, 8⟩
def AVS_LIM.MIN : Fld := ⟨0x404, 0, 10⟩
def AVS_LIM.MAX : Fld := ⟨0x404, 16, 10⟩
def SLACK.TGT : Fld := ⟨0x408, 0, 8⟩
def SLACK.STEP : Fld := ⟨0x408, 8, 8⟩
def SLACK.HYST : Fld := ⟨0x408, 16, 8⟩
def CKH_LOOP.EN : Fld := ⟨0x40C, 0, 1⟩
def CKH_LOOP.EVAL : Fld := ⟨0x40C, 8, 4⟩
def CKH_LOOP.RESERVE : Fld := ⟨0x40C, 16, 10⟩
def XCHK.PERIOD : Fld := ⟨0x410, 0, 8⟩
def XCHK.MARGIN : Fld := ⟨0x410, 8, 8⟩
def XCHK.EN : Fld := ⟨0x410, 16, 1⟩
def REFUSE_CNT.COUNT : Fld := ⟨0xE00, 0, 32⟩
def SHED_CNT.COUNT : Fld := ⟨0xE04, 0, 16⟩
def AVS_ERR_CNT.COUNT : Fld := ⟨0xE08, 0, 16⟩
def DTS.TEMP (k : Nat) : Fld := ⟨0xE10 + 4 * (k / 4), 8 * (k % 4), 8⟩
/-- The rows of the page: each field with its access, reset value and range (R97). -/
def rows : List Row :=
  [Row.ro STS.OVERCOMMIT 0,
   Row.ro STS.WARN 0,
   Row.ro STS.EMERG 0,
   Row.ro STS.AVS_ON 0,
   Row.ro STS.AVS_FAIL 0,
   Row.w1c IST.REFUSED,
   Row.w1c IST.OVERCOMMIT,
   Row.w1c IST.WARN,
   Row.w1c IST.EMERG,
   Row.w1c IST.SHED,
   Row.w1c IST.AVS_FAIL,
   Row.w1c IST.XCHK,
   (Row.rw LIMIT.CORE 400).rng 256 720,
   (Row.rw LIMIT.ADC 160).rng 140 400,
   (Row.rw BUDGET.CORE 400).rng 0 720,
   (Row.rw BUDGET.ADC 160).rng 0 400,
   Row.ro HELD.CORE 0,
   Row.ro HELD.ADC 0,
   Row.ro FREE.CORE 400,
   Row.ro FREE.ADC 160,
   Row.ro BOOST.CORE 0,
   Row.ro VIEW_HELD.CORE 0,
   Row.ro VIEW_HELD.ADC 0,
   Row.ro REFUSE.CAUSE 0,
   Row.ro REFUSE.RAIL 0,
   Row.ro REFUSE.PAGE 0,
   Row.ro REFUSE.SHORT 0,
   Row.ro REFUSE.SRC 0,
   Row.ro TEMP.MAX 0,
   Row.ro TEMP.SENSOR 0,
   (Row.rw THERM.WARN 100).rng 70 255,
   (Row.rw THERM.EMERG 108).rng 90 110,
   (Row.rw THERM.SHED_INT 10).rng 1 100,
   Row.ro VCORE.MV 850,
   Row.ro SHED_LOG.STEP 0,
   Row.ro SHED_LOG.PAGE 0,
   Row.rwl AVS_CFG.EN 1,
   Row.rwl AVS_CFG.RAIL 0,
   (Row.rwl AVS_CFG.CLK 1).rng 0 4,
   Row.rwl AVS_CFG.IREAD 0] ++
  [(Row.rwl AVS_CFG.PERIOD 10).rng 1 100,
   (Row.rwl AVS_LIM.MIN 650).rng 650 850,
   (Row.rwl AVS_LIM.MAX 850).rng 650 850,
   (Row.rwl SLACK.TGT 40).rng 10 200,
   (Row.rwl SLACK.STEP 10).rng 0 100,
   (Row.rwl SLACK.HYST 10).rng 0 100,
   Row.rwl CKH_LOOP.EN 1,
   (Row.rwl CKH_LOOP.EVAL 8).rng 6 12,
   (Row.rwl CKH_LOOP.RESERVE 16).rng 0 720,
   (Row.rwl XCHK.PERIOD 10).rng 1 255,
   (Row.rwl XCHK.MARGIN 10).rng 0 100,
   Row.rwl XCHK.EN 1,
   Row.ro REFUSE_CNT.COUNT 0,
   Row.ro SHED_CNT.COUNT 0,
   Row.ro AVS_ERR_CNT.COUNT 0] ++
  (List.range 8).map (fun k => Row.ro (DTS.TEMP k) 0)
end BUD

/-! ### CLK page (01_engine_map.md; R29) -/
namespace CLK
def STS.LOCK : Fld := ⟨0x14, 0, 1⟩
def STS.RETUNE : Fld := ⟨0x14, 1, 1⟩
def STS.HOLDOVER : Fld := ⟨0x14, 2, 1⟩
def STS.REF_OK : Fld := ⟨0x14, 3, 1⟩
def IST.LOCK_LOST : Fld := ⟨0x18, 0, 1⟩
def IST.REF_LOST : Fld := ⟨0x18, 1, 1⟩
def IST.REF_BACK : Fld := ⟨0x18, 2, 1⟩
def IST.RETUNE_DONE : Fld := ⟨0x18, 3, 1⟩
def REFSEL.STRAP : Fld := ⟨0x40, 0, 3⟩
def REF_FREQ.FREQ : Fld := ⟨0x44, 0, 28⟩
def SYN_DIV.RDIV : Fld := ⟨0x48, 0, 2⟩
def SYN_DIV.NINT : Fld := ⟨0x48, 16, 11⟩
def SYN_FRAC.NFRAC : Fld := ⟨0x4C, 0, 32⟩
def SYN_MOD.NMOD : Fld := ⟨0x50, 0, 32⟩
def RS_FREQ.KHZ : Fld := ⟨0x54, 0, 25⟩
def CKH.DIV : Fld := ⟨0x58, 0, 6⟩
def CKH.MIN_DIV : Fld := ⟨0x58, 8, 6⟩
def CKH.MAX_DIV : Fld := ⟨0x58, 16, 6⟩
def REF_MEAS.FREQ : Fld := ⟨0x5C, 0, 28⟩
def REF_TOL.PPM : Fld := ⟨0x400, 0, 12⟩
def HOLD_TMO.US100 : Fld := ⟨0x404, 0, 16⟩
def LOOP_BW.SEL : Fld := ⟨0x408, 0, 3⟩
def UNLOCK_CNT.COUNT : Fld := ⟨0xE00, 0, 16⟩
def REFLOSS_CNT.COUNT : Fld := ⟨0xE04, 0, 16⟩
def RETUNE_CNT.COUNT : Fld := ⟨0xE08, 0, 16⟩
def BAR2_RETUNE_CNT.COUNT : Fld := ⟨0xE0C, 0, 32⟩
/-- The rows of the page: each field with its access, reset value and range (R29). -/
def rows : List Row :=
  [Row.ro STS.LOCK 0,
   Row.ro STS.RETUNE 0,
   Row.ro STS.HOLDOVER 0,
   Row.ro STS.REF_OK 0,
   Row.w1c IST.LOCK_LOST,
   Row.w1c IST.REF_LOST,
   Row.w1c IST.REF_BACK,
   Row.w1c IST.RETUNE_DONE,
   Row.ro REFSEL.STRAP 0,
   (Row.rws REF_FREQ.FREQ 0).rng 10000000 250000000,
   Row.rws SYN_DIV.RDIV 0,
   (Row.rws SYN_DIV.NINT 0).rng 128 2000,
   Row.rws SYN_FRAC.NFRAC 0,
   (Row.rws SYN_MOD.NMOD 0).rng 1 4294967295,
   Row.ro RS_FREQ.KHZ 20000000,
   Row.ro CKH.DIV 48,
   (Row.rw CKH.MIN_DIV 24).rng 24 48,
   (Row.rw CKH.MAX_DIV 48).rng 24 48,
   Row.ro REF_MEAS.FREQ 0,
   (Row.rwl REF_TOL.PPM 1000).rng 100 2000,
   (Row.rwl HOLD_TMO.US100 100).rng 1 1000,
   (Row.rwl LOOP_BW.SEL 3).rng 0 4,
   Row.ro UNLOCK_CNT.COUNT 0,
   Row.ro REFLOSS_CNT.COUNT 0,
   Row.ro RETUNE_CNT.COUNT 0,
   Row.ro BAR2_RETUNE_CNT.COUNT 0]
end CLK

/-! ### FLT page (17_faults_resets_startup.md; R403) -/
namespace FLT
def STS.USED : Fld := ⟨0x14, 0, 6⟩
def STS.OVF : Fld := ⟨0x14, 6, 1⟩
def STS.CORRUPT : Fld := ⟨0x14, 7, 1⟩
def STS.HIGHEST : Fld := ⟨0x14, 8, 2⟩
def STS.FAULT_N : Fld := ⟨0x14, 10, 1⟩
def IST.NEW : Fld := ⟨0x18, 0, 1⟩
def IST.OVF : Fld := ⟨0x18, 1, 1⟩
def IST.CORRUPT : Fld := ⟨0x18, 2, 1⟩
def CFG.MIN_SEV : Fld := ⟨0x40, 0, 2⟩
def CFG.PIN_SEV : Fld := ⟨0x40, 4, 2⟩
def CMD.SLOT : Fld := ⟨0x44, 0, 5⟩
def CMD.ACK : Fld := ⟨0x44, 8, 1⟩
def CMD.CLEAR : Fld := ⟨0x44, 9, 1⟩
def CMD.PURGE : Fld := ⟨0x44, 10, 1⟩
def CMD.SEQ : Fld := ⟨0x44, 16, 16⟩
def NEXT.SEQ : Fld := ⟨0x48, 0, 16⟩
def NEXT.SLOT : Fld := ⟨0x48, 16, 5⟩
def LOST.COUNT : Fld := ⟨0x4C, 0, 16⟩
def EVICT_CNT.COUNT : Fld := ⟨0x50, 0, 16⟩
def REC.T_RAISE (s : Nat) : Fld := ⟨0x100 + 0x20 * s, 0, 96⟩
def REC.T_LAST (s : Nat) : Fld := ⟨0x118 + 0x20 * s, 0, 64⟩
/-- The rows of the page: each field with its access, reset value and range (R403). Of the records the rows give the fields of
several words, which a read captures (R38); their content is the queue's. -/
def rows : List Row :=
  (List.range 32).map (fun s => Row.ro (REC.T_RAISE s) 0) ++
  (List.range 32).map (fun s => Row.ro (REC.T_LAST s) 0) ++
  [Row.ro STS.USED 0,
   Row.ro STS.OVF 0,
   Row.ro STS.CORRUPT 0,
   Row.ro STS.HIGHEST 0,
   Row.ro STS.FAULT_N 1,
   Row.w1c IST.NEW,
   Row.w1c IST.OVF,
   Row.w1c IST.CORRUPT,
   Row.rw CFG.MIN_SEV 1,
   Row.rw CFG.PIN_SEV 3,
   Row.wo CMD.SLOT,
   Row.wo CMD.ACK,
   Row.wo CMD.CLEAR,
   Row.wo CMD.PURGE,
   Row.wo CMD.SEQ,
   Row.ro NEXT.SEQ 0,
   Row.ro NEXT.SLOT 0,
   Row.ro LOST.COUNT 0,
   Row.ro EVICT_CNT.COUNT 0]
end FLT

/-! ### RST page (17_faults_resets_startup.md; R404) -/
namespace RST
def STS.SOFT_BUSY : Fld := ⟨0x14, 0, 1⟩
def STS.BLK_BUSY : Fld := ⟨0x14, 1, 1⟩
def STS.PERST_BUSY : Fld := ⟨0x14, 2, 1⟩
def STS.HELD_TRIP : Fld := ⟨0x14, 3, 1⟩
def IST.SOFT_DONE : Fld := ⟨0x18, 0, 1⟩
def IST.BLK_DONE : Fld := ⟨0x18, 1, 1⟩
def IST.PERST_DONE : Fld := ⟨0x18, 2, 1⟩
def SOFT.GO : Fld := ⟨0x40, 0, 1⟩
def SOFT.KEY : Fld := ⟨0x40, 16, 16⟩
def PART.RESET : Fld := ⟨0x44, 0, 8⟩
def BLK.PAGE : Fld := ⟨0x48, 0, 8⟩
def BLK.GO : Fld := ⟨0x48, 8, 1⟩
def CAUSE.LAST : Fld := ⟨0x4C, 0, 3⟩
def SOFT_CNT.COUNT : Fld := ⟨0xE00, 0, 16⟩
def BLK_CNT.COUNT : Fld := ⟨0xE04, 0, 16⟩
def PERST_CNT.COUNT : Fld := ⟨0xE08, 0, 16⟩
/-- The rows of the page: each field with its access, reset value and range (R404). -/
def rows : List Row :=
  [Row.ro STS.SOFT_BUSY 0,
   Row.ro STS.BLK_BUSY 0,
   Row.ro STS.PERST_BUSY 0,
   Row.ro STS.HELD_TRIP 0,
   Row.w1c IST.SOFT_DONE,
   Row.w1c IST.BLK_DONE,
   Row.w1c IST.PERST_DONE,
   Row.wo SOFT.GO,
   Row.wo SOFT.KEY,
   Row.wo PART.RESET,
   Row.wo BLK.PAGE,
   Row.wo BLK.GO,
   Row.ro CAUSE.LAST 0,
   Row.ro SOFT_CNT.COUNT 0,
   Row.ro BLK_CNT.COUNT 0,
   Row.ro PERST_CNT.COUNT 0]
end RST

/-! ### TIM page (15_keys_time_usage.md; R365) -/
namespace TIM
def STS.CAL_VALID : Fld := ⟨0x14, 0, 1⟩
def STS.COARSE : Fld := ⟨0x14, 1, 1⟩
def STS.PPS_OK : Fld := ⟨0x14, 2, 1⟩
def STS.ALIGNED : Fld := ⟨0x14, 3, 1⟩
def IST.PPS : Fld := ⟨0x18, 0, 1⟩
def IST.SET_DONE : Fld := ⟨0x18, 1, 1⟩
def IST.STEPPED : Fld := ⟨0x18, 2, 1⟩
def IST.PPS_LOST : Fld := ⟨0x18, 3, 1⟩
def NOW.TB96 : Fld := ⟨0x40, 0, 96⟩
def TAI_UTC.SEC : Fld := ⟨0x4C, 0, 16⟩
def FREQ_ADJ.ADJ : Fld := ⟨0x50, 0, 32⟩
def STEP.NS : Fld := ⟨0x54, 0, 32⟩
def PPS_CFG.MODE : Fld := ⟨0x58, 0, 2⟩
def PPS_CFG.EDGE : Fld := ⟨0x58, 2, 1⟩
def PPS_CFG.WIN : Fld := ⟨0x58, 8, 16⟩
def PPS_CFG.SLEW : Fld := ⟨0x58, 24, 8⟩
def PPS_T.TB96 : Fld := ⟨0x5C, 0, 96⟩
def PPS_ERR.NS : Fld := ⟨0x68, 0, 32⟩
def CAL_NOW0.SEC : Fld := ⟨0x70, 0, 6⟩
def CAL_NOW0.MIN : Fld := ⟨0x70, 8, 6⟩
def CAL_NOW0.HOUR : Fld := ⟨0x70, 16, 5⟩
def CAL_SET0.SEC : Fld := ⟨0x78, 0, 6⟩
def CAL_SET0.MIN : Fld := ⟨0x78, 8, 6⟩
def CAL_SET0.HOUR : Fld := ⟨0x78, 16, 5⟩
def CAL_NOW0.WDAY : Fld := ⟨0x70, 24, 3⟩
def CAL_NOW1.DAY : Fld := ⟨0x74, 0, 5⟩
def CAL_NOW1.MONTH : Fld := ⟨0x74, 8, 4⟩
def CAL_NOW1.YEAR : Fld := ⟨0x74, 16, 12⟩
def CAL_SET1.DAY : Fld := ⟨0x7C, 0, 5⟩
def CAL_SET1.MONTH : Fld := ⟨0x7C, 8, 4⟩
def CAL_SET1.YEAR : Fld := ⟨0x7C, 16, 12⟩
def RAW_SET.TB96 : Fld := ⟨0x80, 0, 96⟩
def SETCTL.SEL : Fld := ⟨0x8C, 0, 2⟩
def SETCTL.AT_PPS : Fld := ⟨0x8C, 4, 1⟩
def CAL_STS.ERR : Fld := ⟨0x90, 0, 2⟩
def SET_CNT.COUNT : Fld := ⟨0xE00, 0, 32⟩
def PPS_CNT.COUNT : Fld := ⟨0xE04, 0, 32⟩
def STEP_CNT.COUNT : Fld := ⟨0xE08, 0, 32⟩
/-- The rows of the page: each field with its access, reset value and range (R365). -/
def rows : List Row :=
  [Row.ro STS.CAL_VALID 0,
   Row.ro STS.COARSE 0,
   Row.ro STS.PPS_OK 0,
   Row.ro STS.ALIGNED 0,
   Row.w1c IST.PPS,
   Row.w1c IST.SET_DONE,
   Row.w1c IST.STEPPED,
   Row.w1c IST.PPS_LOST,
   Row.ro NOW.TB96 0,
   Row.rws TAI_UTC.SEC 0,
   (Row.rw FREQ_ADJ.ADJ 0).rng (-32768000) 32768000 true,
   Row.wo STEP.NS,
   (Row.rws PPS_CFG.MODE 0).rng 0 2,
   Row.rws PPS_CFG.EDGE 0,
   (Row.rws PPS_CFG.WIN 1000).rng 1 65535,
   (Row.rws PPS_CFG.SLEW 100).rng 1 100,
   Row.ro PPS_T.TB96 0,
   Row.ro PPS_ERR.NS 0,
   Row.ro CAL_NOW0.SEC 0,
   Row.ro CAL_NOW0.MIN 0,
   Row.ro CAL_NOW0.HOUR 0,
   Row.rws CAL_SET0.SEC 0,
   Row.rws CAL_SET0.MIN 0,
   Row.rws CAL_SET0.HOUR 0,
   Row.ro CAL_NOW0.WDAY 0,
   Row.ro CAL_NOW1.DAY 0,
   Row.ro CAL_NOW1.MONTH 0,
   Row.ro CAL_NOW1.YEAR 0,
   Row.rws CAL_SET1.DAY 0,
   Row.rws CAL_SET1.MONTH 0,
   Row.rws CAL_SET1.YEAR 0,
   Row.rws RAW_SET.TB96 0,
   (Row.rws SETCTL.SEL 0).rng 0 2,
   Row.rws SETCTL.AT_PPS 0,
   Row.ro CAL_STS.ERR 0,
   Row.ro SET_CNT.COUNT 0,
   Row.ro PPS_CNT.COUNT 0,
   Row.ro STEP_CNT.COUNT 0]
end TIM

/-! ### USE page (15_keys_time_usage.md; R366) -/
namespace USE
def STS.TIMED : Fld := ⟨0x14, 0, 1⟩
def STS.REGRESS : Fld := ⟨0x14, 1, 1⟩
def STS.SEALED_ANY : Fld := ⟨0x14, 2, 1⟩
def STS.RESTORED : Fld := ⟨0x14, 3, 1⟩
def IST.SEALED : Fld := ⟨0x18, 0, 1⟩
def IST.LOST : Fld := ⟨0x18, 1, 1⟩
def IST.REGRESS : Fld := ⟨0x18, 2, 1⟩
def IST.JUMP : Fld := ⟨0x18, 3, 1⟩
def BOUND.MODE : Fld := ⟨0x40, 0, 1⟩
def BOUND.DAY : Fld := ⟨0x40, 8, 5⟩
def BOUND.WDAY : Fld := ⟨0x40, 16, 3⟩
def BOUND.HOUR : Fld := ⟨0x40, 24, 5⟩
def OPEN_PNUM.PNUM : Fld := ⟨0x44, 0, 16⟩
def OPEN_START.SEC : Fld := ⟨0x48, 0, 48⟩
def LAST_B.SEC : Fld := ⟨0x50, 0, 48⟩
def NEXT_B.SEC : Fld := ⟨0x58, 0, 48⟩
def RANGE.OLDEST : Fld := ⟨0x60, 0, 16⟩
def RANGE.NEWEST : Fld := ⟨0x60, 16, 16⟩
def REC_CNT.COUNT : Fld := ⟨0xE00, 0, 32⟩
def LOST_CNT.COUNT : Fld := ⟨0xE04, 0, 32⟩
def P_M0.VAL (n : Nat) : Fld := ⟨0x100 + 0x20 * n, 0, 32⟩
def P_M1.VAL (n : Nat) : Fld := ⟨0x104 + 0x20 * n, 0, 32⟩
def P_M2.VAL (n : Nat) : Fld := ⟨0x108 + 0x20 * n, 0, 48⟩
def P_M3.VAL (n : Nat) : Fld := ⟨0x110 + 0x20 * n, 0, 32⟩
def P_M4.VAL (n : Nat) : Fld := ⟨0x114 + 0x20 * n, 0, 32⟩
/-- The rows of the page: each field with its access, reset value and range (R366). -/
def rows : List Row :=
  [Row.ro STS.TIMED 0,
   Row.ro STS.REGRESS 0,
   Row.ro STS.SEALED_ANY 0,
   Row.ro STS.RESTORED 0,
   Row.w1c IST.SEALED,
   Row.w1c IST.LOST,
   Row.w1c IST.REGRESS,
   Row.w1c IST.JUMP,
   Row.rw BOUND.MODE 0,
   (Row.rw BOUND.DAY 1).rng 1 28,
   (Row.rw BOUND.WDAY 0).rng 0 6,
   (Row.rw BOUND.HOUR 0).rng 0 23,
   Row.ro OPEN_PNUM.PNUM 0,
   Row.ro OPEN_START.SEC 0,
   Row.ro LAST_B.SEC 0,
   Row.ro NEXT_B.SEC 0,
   Row.ro RANGE.OLDEST 0,
   Row.ro RANGE.NEWEST 0,
   Row.ro REC_CNT.COUNT 0,
   Row.ro LOST_CNT.COUNT 0] ++
  (List.range 8).map (fun n => Row.ro (P_M0.VAL n) 0) ++
  (List.range 8).map (fun n => Row.ro (P_M1.VAL n) 0) ++
  (List.range 8).map (fun n => Row.ro (P_M2.VAL n) 0) ++
  (List.range 8).map (fun n => Row.ro (P_M3.VAL n) 0) ++
  (List.range 8).map (fun n => Row.ro (P_M4.VAL n) 0)
end USE

/-! ### KEY page (15_keys_time_usage.md; R364) -/
namespace KEY
def STS.BUSY : Fld := ⟨0x14, 0, 1⟩
def STS.LOCKOUT : Fld := ⟨0x14, 1, 2⟩
def STS.DBG_OPEN : Fld := ⟨0x14, 3, 1⟩
def IST.DONE : Fld := ⟨0x18, 0, 1⟩
def DOORBELL.ANY : Fld := ⟨0x90, 0, 32⟩
def RESULT.CODE : Fld := ⟨0x94, 0, 4⟩
def RESULT.CMD : Fld := ⟨0x94, 8, 8⟩
def RESULT.CTR : Fld := ⟨0x94, 16, 16⟩
def NONCE.VAL : Fld := ⟨0xE4, 0, 64⟩
def DEVID.VAL : Fld := ⟨0xEC, 0, 64⟩
def CTR.LAST : Fld := ⟨0xF4, 0, 64⟩
def ENV.BYTES (w : Nat) : Fld := ⟨0x40 + 4 * w, 0, 32⟩
def RSP.BYTES (w : Nat) : Fld := ⟨0xA0 + 4 * w, 0, 32⟩
def AUTH_CNT.COUNT : Fld := ⟨0xE00, 0, 32⟩
def STALE_CNT.COUNT : Fld := ⟨0xE04, 0, 32⟩
def CMD_CNT.COUNT : Fld := ⟨0xE08, 0, 32⟩
/-- The rows of the page: each field with its access, reset value and range (R364). -/
def rows : List Row :=
  [Row.ro STS.BUSY 0,
   Row.ro STS.LOCKOUT 0,
   Row.ro STS.DBG_OPEN 0,
   Row.w1c IST.DONE,
   Row.wo DOORBELL.ANY,
   Row.ro RESULT.CODE 0,
   Row.ro RESULT.CMD 0,
   Row.ro RESULT.CTR 0,
   Row.ro NONCE.VAL 0,
   Row.ro DEVID.VAL 0,
   Row.ro CTR.LAST 0] ++
  (List.range 18).map (fun w => Row.rw (ENV.BYTES w) 0) ++
  (List.range 16).map (fun w => Row.ro (RSP.BYTES w) 0) ++
  [Row.ro AUTH_CNT.COUNT 0,
   Row.ro STALE_CNT.COUNT 0,
   Row.ro CMD_CNT.COUNT 0]
end KEY

/-! ### PRT page (03_partitions.md; R35, R52, R54, R57, R58, R61, R62, R63, R64, R69, R70, R73, R78) -/
namespace PRT
def STS.DRAINING : Fld := ⟨0x14, 0, 8⟩
def STS.SUSPENDED : Fld := ⟨0x14, 8, 8⟩
def IST.LAPSE : Fld := ⟨0x18, 0, 8⟩
def IST.DRAIN_DONE : Fld := ⟨0x18, 8, 8⟩
def IST.RESET_DONE : Fld := ⟨0x18, 16, 8⟩
def IST.DRAIN_DROP : Fld := ⟨0x18, 24, 1⟩
def SELF.PART : Fld := ⟨0x40, 0, 3⟩
def SELF.STATE : Fld := ⟨0x40, 8, 3⟩
def HB.ANY : Fld := ⟨0x44, 0, 32⟩
def LEASES.STATE : Fld := ⟨0x48, 0, 14⟩
def CREATED.PART : Fld := ⟨0x60, 0, 8⟩
def GRANT_XPT.OWNER : Fld := ⟨0x320, 0, 4⟩
def GRANT_DMQ.OWNERS : Fld := ⟨0x328, 0, 64⟩
def VECMAP.CLASS (k : Nat) : Fld := ⟨0x50 + 4 * (k / 8), 4 * (k % 8), 4⟩
def P_STATE.STATE (n : Nat) : Fld := ⟨0x100 + 0x40 * n, 0, 3⟩
def P_CFG.XA (n : Nat) : Fld := ⟨0x104 + 0x40 * n, 0, 1⟩
def P_CMD.RESET (n : Nat) : Fld := ⟨0x108 + 0x40 * n, 0, 1⟩
def P_CMD.SUSPEND (n : Nat) : Fld := ⟨0x108 + 0x40 * n, 1, 1⟩
def P_CMD.RESUME (n : Nat) : Fld := ⟨0x108 + 0x40 * n, 2, 1⟩
def P_REGION.BASE (n : Nat) : Fld := ⟨0x10C + 0x40 * n, 0, 8⟩
def P_REGION.COUNT (n : Nat) : Fld := ⟨0x10C + 0x40 * n, 16, 9⟩
def P_QOS.W (n : Nat) (c : Nat) : Fld := ⟨0x110 + 0x40 * n, 4 * c, 4⟩
def P_QOS.MAX_SHARE (n : Nat) : Fld := ⟨0x110 + 0x40 * n, 16, 7⟩
def P_DMAW.WEIGHT (n : Nat) : Fld := ⟨0x114 + 0x40 * n, 0, 4⟩
def P_TIXCAP.CORE (n : Nat) : Fld := ⟨0x118 + 0x40 * n, 0, 10⟩
def P_TIXCAP.ADC (n : Nat) : Fld := ⟨0x118 + 0x40 * n, 16, 10⟩
def P_LEASE.HB_TMO (n : Nat) : Fld := ⟨0x11C + 0x40 * n, 0, 14⟩
def P_DRAIN.TMO (n : Nat) : Fld := ⟨0x120 + 0x40 * n, 0, 9⟩
def P_DRAIN.BUDGET (n : Nat) : Fld := ⟨0x120 + 0x40 * n, 16, 8⟩
def GRANT_CNV.OWNER (i : Nat) : Fld := ⟨0x300, 4 * i, 4⟩
def GRANT_FCH.OWNER (i : Nat) : Fld := ⟨0x308, 4 * i, 4⟩
def GRANT_TRG.OWNER (i : Nat) : Fld := ⟨0x30C, 4 * i, 4⟩
def GRANT_ACQ.OWNER (i : Nat) : Fld := ⟨0x310, 4 * i, 4⟩
def GRANT_HIS.OWNER (i : Nat) : Fld := ⟨0x314, 4 * i, 4⟩
def GRANT_WCP.OWNER (i : Nat) : Fld := ⟨0x318, 4 * i, 4⟩
def GRANT_SFE.OWNER (i : Nat) : Fld := ⟨0x31C, 4 * i, 4⟩
def GRANT_MLN.OWNER (i : Nat) : Fld := ⟨0x324, 4 * i, 4⟩
def TAP_CNV.TAP (c : Nat) : Fld := ⟨0x304, 8 * c, 8⟩
def GRANT_EVR.OWNER (d : Nat) : Fld := ⟨0x340 + 4 * (d / 8), 4 * (d % 8), 4⟩
def LEASE_STATE.STATE (r : Nat) : Fld := ⟨0x380, 2 * r, 2⟩
def DRAIN_DROP.KIB (n : Nat) : Fld := ⟨0xE00 + 4 * n, 0, 32⟩
def LAPSE_CNT.COUNT (n : Nat) : Fld := ⟨0xE20 + 4 * n, 0, 16⟩
/-- The rows of the page: each field with its access, reset value and range (R35, R52, R54, R57, R58, R61, R62, R63, R64, R69, R70, R73, R78). -/
def rows : List Row :=
  [Row.ro STS.DRAINING 0,
   Row.ro STS.SUSPENDED 0,
   Row.w1c IST.LAPSE,
   Row.w1c IST.DRAIN_DONE,
   Row.w1c IST.RESET_DONE,
   Row.w1c IST.DRAIN_DROP,
   Row.ro SELF.PART 0,
   Row.ro SELF.STATE 0,
   Row.wo HB.ANY,
   Row.ro LEASES.STATE 0,
   Row.ro CREATED.PART 0,
   Row.ro GRANT_XPT.OWNER 8,
   Row.ro GRANT_DMQ.OWNERS 0x8888888888888888] ++
  (List.range 12).map (fun k => Row.rw (VECMAP.CLASS k) k) ++
  (List.range 8).map (fun n => Row.ro (P_STATE.STATE n) 0) ++
  (List.range 8).map (fun n => Row.rw (P_CFG.XA n) 0) ++
  (List.range 8).map (fun n => Row.wo (P_CMD.RESET n)) ++
  (List.range 8).map (fun n => Row.wo (P_CMD.SUSPEND n)) ++
  (List.range 8).map (fun n => Row.wo (P_CMD.RESUME n)) ++
  (List.range 8).map (fun n => Row.rw (P_REGION.BASE n) 0) ++
  (List.range 8).map (fun n => (Row.rw (P_REGION.COUNT n) 0).rng 0 256) ++
  (List.range 8).flatMap (fun n => (List.range 4).map fun c => (Row.rw (P_QOS.W n c) 8).rng 1 15) ++
  (List.range 8).map (fun n => (Row.rw (P_QOS.MAX_SHARE n) 64).rng 1 64) ++
  (List.range 8).map (fun n => (Row.rw (P_DMAW.WEIGHT n) 8).rng 1 15) ++
  (List.range 8).map (fun n => Row.rw (P_TIXCAP.CORE n) 1023) ++
  (List.range 8).map (fun n => Row.rw (P_TIXCAP.ADC n) 1023) ++
  (List.range 8).map (fun n => (Row.rw (P_LEASE.HB_TMO n) 100).rng 1 10000) ++
  (List.range 8).map (fun n => (Row.rw (P_DRAIN.TMO n) 50).rng 1 500) ++
  (List.range 8).map (fun n => (Row.rw (P_DRAIN.BUDGET n) 48).rng 1 255) ++
  (List.range 4).map (fun i => Row.rw (GRANT_CNV.OWNER i) 8) ++
  (List.range 8).map (fun i => Row.rw (GRANT_FCH.OWNER i) 8) ++
  (List.range 8).map (fun i => Row.rw (GRANT_TRG.OWNER i) 8) ++
  (List.range 8).map (fun i => Row.rw (GRANT_ACQ.OWNER i) 8) ++
  (List.range 8).map (fun i => Row.rw (GRANT_HIS.OWNER i) 8) ++
  (List.range 8).map (fun i => Row.rw (GRANT_WCP.OWNER i) 8) ++
  (List.range 4).map (fun i => Row.rw (GRANT_SFE.OWNER i) 8) ++
  (List.range 2).map (fun i => Row.rw (GRANT_MLN.OWNER i) 8) ++
  (List.range 4).map (fun c => Row.rw (TAP_CNV.TAP c) 0) ++
  (List.range 64).map (fun d => Row.rw (GRANT_EVR.OWNER d) 8) ++
  (List.range 7).map (fun r => Row.ro (LEASE_STATE.STATE r) 0) ++
  (List.range 8).map (fun n => Row.ro (DRAIN_DROP.KIB n) 0) ++
  (List.range 8).map (fun n => Row.ro (LAPSE_CNT.COUNT n) 0)
end PRT

/-! ### CNV page (05_converter_array.md; R117) -/
namespace CNV
def STS.UP : Fld := ⟨0x14, 0, 1⟩
def STS.SETTLING : Fld := ⟨0x14, 1, 1⟩
def STS.CLIP : Fld := ⟨0x14, 2, 1⟩
def STS.PRESENT : Fld := ⟨0x14, 3, 1⟩
def IST.UP_DONE : Fld := ⟨0x18, 0, 1⟩
def IST.SETTLE_END : Fld := ⟨0x18, 1, 1⟩
def IST.CLIP : Fld := ⟨0x18, 2, 1⟩
def IST.PWR_FAIL : Fld := ⟨0x18, 3, 1⟩
def INPUT.GAIN : Fld := ⟨0x40, 0, 2⟩
def INPUT.TERM : Fld := ⟨0x40, 4, 1⟩
def INPUT.COUP : Fld := ⟨0x40, 5, 1⟩
def BWL.SEL : Fld := ⟨0x44, 0, 3⟩
def CORES.MASK : Fld := ⟨0x48, 0, 16⟩
def RATE.SPW : Fld := ⟨0x4C, 0, 8⟩
def SETTLE.CYCLES : Fld := ⟨0x50, 0, 7⟩
def FS_MV.MV : Fld := ⟨0x54, 0, 11⟩
def CM_TRIM.MV : Fld := ⟨0x400, 0, 8⟩
def CLIP_CFG.LIMIT : Fld := ⟨0x404, 0, 16⟩
def CLIP_CFG.WIN : Fld := ⟨0x404, 16, 10⟩
def CLIP_CNT.COUNT : Fld := ⟨0xE00, 0, 32⟩
def SETTLE_CNT.COUNT : Fld := ⟨0xE04, 0, 16⟩
def PWR_FAIL_CNT.COUNT : Fld := ⟨0xE08, 0, 8⟩
/-- The rows of the page: each field with its access, reset value and range (R117). -/
def rows : List Row :=
  [Row.ro STS.UP 0,
   Row.ro STS.SETTLING 0,
   Row.ro STS.CLIP 0,
   Row.ro STS.PRESENT 0,
   Row.w1c IST.UP_DONE,
   Row.w1c IST.SETTLE_END,
   Row.w1c IST.CLIP,
   Row.w1c IST.PWR_FAIL,
   Row.rws INPUT.GAIN 1,
   Row.rws INPUT.TERM 1,
   Row.rws INPUT.COUP 0,
   (Row.rw BWL.SEL 0).rng 0 4,
   Row.ro CORES.MASK 0,
   Row.ro RATE.SPW 0,
   Row.ro SETTLE.CYCLES 0,
   Row.ro FS_MV.MV 500,
   (Row.rwls CM_TRIM.MV 0).rng (-50) 50 true,
   (Row.rwl CLIP_CFG.LIMIT 1000).rng 1 65535,
   (Row.rwl CLIP_CFG.WIN 1000).rng 1 1000,
   Row.ro CLIP_CNT.COUNT 0,
   Row.ro SETTLE_CNT.COUNT 0,
   Row.ro PWR_FAIL_CNT.COUNT 0]
end CNV

/-! ### ARR page (05_converter_array.md; R118) -/
namespace ARR
def STS.MAP_OK : Fld := ⟨0x14, 0, 1⟩
def IST.CHANGED : Fld := ⟨0x18, 0, 1⟩
def IST.MAP_FAULT : Fld := ⟨0x18, 1, 1⟩
def ARR.MODE : Fld := ⟨0x40, 0, 2⟩
def LIVE.MODE : Fld := ⟨0x44, 0, 2⟩
def LIVE.CHANS : Fld := ⟨0x44, 8, 4⟩
def CORES_EN.MASK : Fld := ⟨0x4C, 0, 16⟩
def CHANGE_CNT.COUNT : Fld := ⟨0xE00, 0, 16⟩
/-- The rows of the page: each field with its access, reset value and range (R118). -/
def rows : List Row :=
  [Row.ro STS.MAP_OK 1,
   Row.w1c IST.CHANGED,
   Row.w1c IST.MAP_FAULT,
   (Row.rws ARR.MODE 2).rng 0 2,
   Row.ro LIVE.MODE 2,
   Row.ro LIVE.CHANS 1,
   Row.ro CORES_EN.MASK 0,
   Row.ro CHANGE_CNT.COUNT 0]
end ARR

/-! ### CAL page (06_background_calibration.md; R139) -/
namespace CAL
def STS.RUN : Fld := ⟨0x14, 0, 1⟩
def STS.CONVERGED : Fld := ⟨0x14, 1, 1⟩
def STS.STARVED : Fld := ⟨0x14, 2, 1⟩
def STS.BAD : Fld := ⟨0x14, 3, 1⟩
def STS.SCALE : Fld := ⟨0x14, 4, 1⟩
def STS.WARM_OK : Fld := ⟨0x14, 5, 1⟩
def STS.HELD : Fld := ⟨0x14, 6, 1⟩
def STS.CALSTARVED : Fld := ⟨0x14, 7, 1⟩
def STS.RANGE : Fld := ⟨0x14, 8, 1⟩
def STS.REWARM : Fld := ⟨0x14, 9, 1⟩
def IST.CONV : Fld := ⟨0x18, 0, 1⟩
def IST.STARVED : Fld := ⟨0x18, 1, 1⟩
def IST.STARVE_LIM : Fld := ⟨0x18, 2, 1⟩
def IST.BAD : Fld := ⟨0x18, 3, 1⟩
def IST.DECL_LOCK : Fld := ⟨0x18, 4, 1⟩
def IST.DECL_LOST : Fld := ⟨0x18, 5, 1⟩
def IST.RANGE : Fld := ⟨0x18, 6, 1⟩
def CMD.RESET : Fld := ⟨0x40, 0, 1⟩
def CMD.DECL_RESET : Fld := ⟨0x40, 1, 1⟩
def CMD.REWARM : Fld := ⟨0x40, 2, 1⟩
def QUAL.CAL_Q : Fld := ⟨0x44, 0, 8⟩
def QUAL.SPUR : Fld := ⟨0x44, 16, 12⟩
def LOOPSTS.OFS : Fld := ⟨0x48, 0, 2⟩
def LOOPSTS.GAIN : Fld := ⟨0x48, 2, 2⟩
def LOOPSTS.BW : Fld := ⟨0x48, 4, 2⟩
def LOOPSTS.SKEW : Fld := ⟨0x48, 6, 2⟩
def STARVE_WHY.DET : Fld := ⟨0x4C, 0, 4⟩
def STARVE_WHY.K : Fld := ⟨0x4C, 8, 4⟩
def LIMITS.TMO_MS : Fld := ⟨0x50, 0, 12⟩
def LIMITS.STARVE_MS : Fld := ⟨0x50, 16, 12⟩
def TMO_ELAPSED.MS : Fld := ⟨0x54, 0, 16⟩
def DECL_CFG.MODE : Fld := ⟨0x58, 0, 2⟩
def DECL_CFG.WIN_MS : Fld := ⟨0x58, 8, 8⟩
def DECL_CFG.SEARCH : Fld := ⟨0x58, 16, 5⟩
def DECL_CFG.PEAK_MIN : Fld := ⟨0x58, 24, 5⟩
def DECL_LO.UV : Fld := ⟨0x5C, 0, 24⟩
def DECL_HI.UV : Fld := ⟨0x60, 0, 24⟩
def DECL_TOP.UV : Fld := ⟨0x64, 0, 24⟩
def DECL_STS.STATE : Fld := ⟨0x68, 0, 3⟩
def DECL_STS.FOUND : Fld := ⟨0x68, 8, 8⟩
def DECL_SCALE.PPM : Fld := ⟨0x6C, 0, 24⟩
def DECL_OFFS.CODE16 : Fld := ⟨0x70, 0, 16⟩
def FREEZE.LOOP : Fld := ⟨0x404, 0, 4⟩
def STEP_MAX.OFS : Fld := ⟨0x408, 0, 8⟩
def STEP_MAX.GAIN : Fld := ⟨0x408, 8, 8⟩
def STEP_MAX.BW : Fld := ⟨0x408, 16, 8⟩
def STEP_MAX.SKEW : Fld := ⟨0x408, 24, 8⟩
def GUARD.KMASK : Fld := ⟨0x40C, 0, 8⟩
def GUARD.TH : Fld := ⟨0x40C, 8, 8⟩
def ACTIVITY.ACT_MIN : Fld := ⟨0x410, 0, 8⟩
def ACTIVITY.HF_MIN : Fld := ⟨0x410, 8, 8⟩
def ACTIVITY.PHASE_MIN : Fld := ⟨0x410, 16, 8⟩
def STARVE_CNT.COUNT : Fld := ⟨0xE00, 0, 32⟩
def BLOCK_CNT.COUNT : Fld := ⟨0xE04, 0, 32⟩
def DISCARD_CNT.COUNT : Fld := ⟨0xE08, 0, 32⟩
def LOOP_GAIN.K (m : Nat) : Fld := ⟨0x400, 4 * m, 4⟩
def CORE.OFS (k : Nat) : Fld := ⟨0xE40 + 0x10 * k, 0, 32⟩
def CORE.GAIN (k : Nat) : Fld := ⟨0xE44 + 0x10 * k, 0, 32⟩
def CORE.BW (k : Nat) : Fld := ⟨0xE48 + 0x10 * k, 0, 32⟩
def CORE.SKEW (k : Nat) : Fld := ⟨0xE4C + 0x10 * k, 0, 32⟩
/-- The rows of the page: each field with its access, reset value and range (R139). -/
def rows : List Row :=
  [Row.ro STS.RUN 0,
   Row.ro STS.CONVERGED 0,
   Row.ro STS.STARVED 0,
   Row.ro STS.BAD 0,
   Row.ro STS.SCALE 0,
   Row.ro STS.WARM_OK 0,
   Row.ro STS.HELD 1,
   Row.ro STS.CALSTARVED 1,
   Row.ro STS.RANGE 0,
   Row.ro STS.REWARM 0,
   Row.w1c IST.CONV,
   Row.w1c IST.STARVED,
   Row.w1c IST.STARVE_LIM,
   Row.w1c IST.BAD,
   Row.w1c IST.DECL_LOCK,
   Row.w1c IST.DECL_LOST,
   Row.w1c IST.RANGE,
   Row.wo CMD.RESET,
   Row.wo CMD.DECL_RESET,
   Row.wo CMD.REWARM,
   Row.ro QUAL.CAL_Q 0,
   Row.ro QUAL.SPUR 0,
   Row.ro LOOPSTS.OFS 3,
   Row.ro LOOPSTS.GAIN 3,
   Row.ro LOOPSTS.BW 3,
   Row.ro LOOPSTS.SKEW 3,
   Row.ro STARVE_WHY.DET 0,
   Row.ro STARVE_WHY.K 0,
   (Row.rw LIMITS.TMO_MS 250).rng 10 2000,
   (Row.rw LIMITS.STARVE_MS 100).rng 1 4000,
   Row.ro TMO_ELAPSED.MS 0,
   (Row.rws DECL_CFG.MODE 0).rng 0 2,
   (Row.rws DECL_CFG.WIN_MS 40).rng 1 200,
   (Row.rws DECL_CFG.SEARCH 5).rng 1 25,
   (Row.rws DECL_CFG.PEAK_MIN 3).rng 1 20,
   Row.rws DECL_LO.UV 0,
   Row.rws DECL_HI.UV 0,
   Row.rws DECL_TOP.UV 0,
   Row.ro DECL_STS.STATE 0,
   Row.ro DECL_STS.FOUND 0] ++
  [Row.ro DECL_SCALE.PPM 0,
   Row.ro DECL_OFFS.CODE16 0,
   Row.rwl FREEZE.LOOP 0,
   (Row.rwl STEP_MAX.OFS 4).rng 1 255,
   (Row.rwl STEP_MAX.GAIN 50).rng 1 255,
   (Row.rwl STEP_MAX.BW 5).rng 1 255,
   (Row.rwl STEP_MAX.SKEW 2).rng 1 255,
   Row.rwl GUARD.KMASK 255,
   (Row.rwl GUARD.TH 20).rng 6 60,
   (Row.rwl ACTIVITY.ACT_MIN 40).rng 10 80,
   (Row.rwl ACTIVITY.HF_MIN 30).rng 10 60,
   (Row.rwl ACTIVITY.PHASE_MIN 32).rng 4 255,
   Row.ro STARVE_CNT.COUNT 0,
   Row.ro BLOCK_CNT.COUNT 0,
   Row.ro DISCARD_CNT.COUNT 0] ++
  (List.range 4).map (fun m => (Row.rwl (LOOP_GAIN.K m) 6).rng 0 11) ++
  (List.range 16).map (fun k => Row.ro (CORE.OFS k) 0) ++
  (List.range 16).map (fun k => Row.ro (CORE.GAIN k) 0) ++
  (List.range 16).map (fun k => Row.ro (CORE.BW k) 0) ++
  (List.range 16).map (fun k => Row.ro (CORE.SKEW k) 0)
end CAL

/-! ### FCH page (07_filter_chains.md; R156) -/
namespace FCH
def STS.RUN : Fld := ⟨0x14, 0, 1⟩
def STS.SETTLING : Fld := ⟨0x14, 1, 1⟩
def STS.TRG_OK : Fld := ⟨0x14, 2, 1⟩
def STS.GDREF : Fld := ⟨0x14, 3, 1⟩
def STS.COEF_BAD : Fld := ⟨0x14, 4, 1⟩
def STS.PK_VALID : Fld := ⟨0x14, 5, 1⟩
def STS.RMS_VALID : Fld := ⟨0x14, 6, 1⟩
def STS.ENV_VALID : Fld := ⟨0x14, 7, 1⟩
def IST.SETTLE_END : Fld := ⟨0x18, 0, 1⟩
def IST.SAT : Fld := ⟨0x18, 1, 1⟩
def IST.COEF_FAULT : Fld := ⟨0x18, 2, 1⟩
def IST.PK_HOLD_END : Fld := ⟨0x18, 3, 1⟩
def INPUT.CH : Fld := ⟨0x40, 0, 2⟩
def DEC.MODE : Fld := ⟨0x44, 0, 2⟩
def DEC.RATIO : Fld := ⟨0x44, 8, 21⟩
def RESP.SRC : Fld := ⟨0x48, 0, 1⟩
def RESP.ROM : Fld := ⟨0x48, 8, 5⟩
def RESP.GD_REF : Fld := ⟨0x48, 16, 3⟩
def COEF_CFG.LEN : Fld := ⟨0x4C, 0, 11⟩
def COEF_CFG.SYM : Fld := ⟨0x4C, 16, 1⟩
def COEF_CFG.PHASE : Fld := ⟨0x4C, 17, 1⟩
def COEF_GD.G256 : Fld := ⟨0x50, 0, 20⟩
def COEF_ADDR.ADDR : Fld := ⟨0x54, 0, 10⟩
def COEF_DATA.C : Fld := ⟨0x58, 0, 18⟩
def LAT.SCHUSS : Fld := ⟨0x5C, 0, 8⟩
def LAT.CARVE : Fld := ⟨0x5C, 8, 24⟩
def GD.G256 : Fld := ⟨0x60, 0, 32⟩
def INVALID.COUNT : Fld := ⟨0x64, 0, 16⟩
def LAST.CARVE : Fld := ⟨0x68, 0, 16⟩
def LAST.SCHUSS : Fld := ⟨0x68, 16, 16⟩
def DET.PK : Fld := ⟨0x80, 0, 1⟩
def DET.RMS : Fld := ⟨0x80, 1, 1⟩
def DET.ENV : Fld := ⟨0x80, 2, 1⟩
def PK_HOLD.N : Fld := ⟨0x84, 0, 24⟩
def PK_HOLD.CLR : Fld := ⟨0x84, 31, 1⟩
def PK_VAL.MIN : Fld := ⟨0x88, 0, 16⟩
def PK_VAL.MAX : Fld := ⟨0x88, 16, 16⟩
def PK_TH.LO : Fld := ⟨0x8C, 0, 16⟩
def PK_TH.HI : Fld := ⟨0x8C, 16, 16⟩
def RMS_CFG.K : Fld := ⟨0x90, 0, 5⟩
def RMS_CFG.TH : Fld := ⟨0x90, 16, 16⟩
def RMS_VAL.RMS : Fld := ⟨0x94, 0, 16⟩
def ENV_CFG.TH : Fld := ⟨0x98, 16, 16⟩
def ENV_VAL.ENV : Fld := ⟨0x9C, 0, 16⟩
def GD_OVR.OFF : Fld := ⟨0x400, 0, 1⟩
def SAT_CNT.COUNT : Fld := ⟨0xE00, 0, 32⟩
def OUT_CNT.COUNT : Fld := ⟨0xE04, 0, 32⟩
def INVALID_CNT.COUNT : Fld := ⟨0xE08, 0, 32⟩
def COEF_FAULT_CNT.COUNT : Fld := ⟨0xE0C, 0, 8⟩
/-- The rows of the page: each field with its access, reset value and range (R156). -/
def rows : List Row :=
  [Row.ro STS.RUN 0,
   Row.ro STS.SETTLING 0,
   Row.ro STS.TRG_OK 1,
   Row.ro STS.GDREF 0,
   Row.ro STS.COEF_BAD 0,
   Row.ro STS.PK_VALID 0,
   Row.ro STS.RMS_VALID 0,
   Row.ro STS.ENV_VALID 0,
   Row.w1c IST.SETTLE_END,
   Row.w1c IST.SAT,
   Row.w1c IST.COEF_FAULT,
   Row.w1c IST.PK_HOLD_END,
   Row.rws INPUT.CH 0,
   (Row.rws DEC.MODE 0).rng 0 2,
   (Row.rws DEC.RATIO 1).rng 1 1048576,
   Row.rws RESP.SRC 0,
   (Row.rws RESP.ROM 0).rng 0 23,
   Row.rws RESP.GD_REF 0,
   (Row.rw COEF_CFG.LEN 0).rng 0 1024,
   Row.rw COEF_CFG.SYM 0,
   Row.rw COEF_CFG.PHASE 0,
   (Row.rw COEF_GD.G256 0).rng 0 261888,
   Row.rw COEF_ADDR.ADDR 0,
   Row.rw COEF_DATA.C 0,
   Row.ro LAT.SCHUSS 1,
   Row.ro LAT.CARVE 4,
   Row.ro GD.G256 0,
   Row.ro INVALID.COUNT 0,
   Row.ro LAST.CARVE 0,
   Row.ro LAST.SCHUSS 0,
   Row.rws DET.PK 0,
   Row.rws DET.RMS 0,
   Row.rws DET.ENV 0,
   Row.rw PK_HOLD.N 0,
   Row.wo PK_HOLD.CLR,
   Row.ro PK_VAL.MIN 0,
   Row.ro PK_VAL.MAX 0,
   Row.rw PK_TH.LO 0,
   Row.rw PK_TH.HI 0,
   (Row.rw RMS_CFG.K 10).rng 1 20] ++
  [(Row.rw RMS_CFG.TH 0).rng 0 32767,
   Row.ro RMS_VAL.RMS 0,
   (Row.rw ENV_CFG.TH 0).rng 0 32767,
   Row.ro ENV_VAL.ENV 0,
   Row.rwls GD_OVR.OFF 0,
   Row.ro SAT_CNT.COUNT 0,
   Row.ro OUT_CNT.COUNT 0,
   Row.ro INVALID_CNT.COUNT 0,
   Row.ro COEF_FAULT_CNT.COUNT 0]
end FCH

/-! ### FROM page (07_filter_chains.md; R157) -/
namespace FROM
def STS.ROM_OK : Fld := ⟨0x14, 0, 1⟩
def CHECK_CNT.COUNT : Fld := ⟨0xE00, 0, 32⟩
/-- The rows of the page: each field with its access, reset value and range (R157). -/
def rows : List Row :=
  [Row.ro STS.ROM_OK 0,
   Row.ro CHECK_CNT.COUNT 0]
end FROM

/-! ### TRG page (08_slalom_trigger.md; R176, R177) -/
namespace TRG
def STS.RUN : Fld := ⟨0x14, 0, 1⟩
def STS.HOLDOFF : Fld := ⟨0x14, 1, 1⟩
def STS.LATBAD : Fld := ⟨0x14, 2, 1⟩
def STS.SYNC_LOCK : Fld := ⟨0x14, 3, 1⟩
def IST.TRIG : Fld := ⟨0x18, 0, 1⟩
def IST.LEADMISS : Fld := ⟨0x18, 1, 1⟩
def IST.SYNC_LOCK : Fld := ⟨0x18, 2, 1⟩
def IST.SYNC_LOST : Fld := ⟨0x18, 3, 1⟩
def IST.LATBAD : Fld := ⟨0x18, 4, 1⟩
def SRC.FCH : Fld := ⟨0x40, 0, 3⟩
def CONF_WIN.WIN : Fld := ⟨0x44, 0, 16⟩
def HOLD_MODE.MODE : Fld := ⟨0x48, 0, 2⟩
def HOLD_PS.PS : Fld := ⟨0x4C, 0, 48⟩
def HOLD_CNT.N : Fld := ⟨0x54, 0, 32⟩
def SYNC_LVL.SLICE : Fld := ⟨0x58, 0, 16⟩
def SYNC_LVL.HYST : Fld := ⟨0x58, 16, 12⟩
def SYNC_LINE.PER : Fld := ⟨0x5C, 0, 24⟩
def SYNC_FRAME.LPF : Fld := ⟨0x60, 0, 12⟩
def SYNC_FRAME.INTERLACE : Fld := ⟨0x60, 12, 1⟩
def SYNC_FRAME.FMT : Fld := ⟨0x60, 13, 1⟩
def SYNC_FRAME.FIRST : Fld := ⟨0x60, 16, 12⟩
def SYNC_BROAD.MIN : Fld := ⟨0x64, 0, 24⟩
def CMD.FORCE : Fld := ⟨0x68, 0, 1⟩
def CMD.REARM : Fld := ⟨0x68, 1, 1⟩
def STATE.GATE : Fld := ⟨0x70, 0, 4⟩
def STATE.PHASE : Fld := ⟨0x70, 8, 3⟩
def CNT.COUNT : Fld := ⟨0x74, 0, 32⟩
def TMR.SAMPLES : Fld := ⟨0x78, 0, 48⟩
def LAST_TAG.TAG : Fld := ⟨0x80, 0, 8⟩
def LAST_T.TB96 : Fld := ⟨0x84, 0, 96⟩
def LAST_INFO.FRAC : Fld := ⟨0x90, 0, 8⟩
def LAST_INFO.GATE : Fld := ⟨0x90, 8, 4⟩
def LAST_INFO.FORCED : Fld := ⟨0x90, 12, 1⟩
def LAST_INFO.NOINTERP : Fld := ⟨0x90, 13, 1⟩
def LAST_INFO.GDREF : Fld := ⟨0x90, 14, 1⟩
def VID_POS.LINE : Fld := ⟨0x94, 0, 12⟩
def VID_POS.FIELD : Fld := ⟨0x94, 12, 2⟩
def REACH.CARVE_LAT : Fld := ⟨0x98, 0, 8⟩
def REACH.RCH : Fld := ⟨0x98, 8, 16⟩
def INTERP.OFF : Fld := ⟨0x400, 0, 1⟩
def TRIG_CNT.COUNT : Fld := ⟨0xE00, 0, 32⟩
def VOID_CNT.COUNT : Fld := ⟨0xE04, 0, 32⟩
def VOID_WHY.NOFIRE : Fld := ⟨0xE08, 0, 8⟩
def VOID_WHY.TIME : Fld := ⟨0xE08, 8, 8⟩
def VOID_WHY.INVALID : Fld := ⟨0xE08, 16, 8⟩
def VOID_WHY.ABORT : Fld := ⟨0xE08, 24, 8⟩
def LEADMISS_CNT.COUNT : Fld := ⟨0xE0C, 0, 32⟩
def RESYNC_SKIP_CNT.SAMPLES : Fld := ⟨0xE10, 0, 32⟩
def HOLD_SUPP_CNT.COUNT : Fld := ⟨0xE14, 0, 32⟩
def GATE_COND.TYPE (g : Nat) : Fld := ⟨0x100 + 0x30 * g, 0, 4⟩
def GATE_COND.POL (g : Nat) : Fld := ⟨0x100 + 0x30 * g, 4, 2⟩
def GATE_COND.REL (g : Nat) : Fld := ⟨0x100 + 0x30 * g, 6, 2⟩
def GATE_COND.VMATCH (g : Nat) : Fld := ⟨0x100 + 0x30 * g, 8, 2⟩
def GATE_COND.DEST (g : Nat) : Fld := ⟨0x100 + 0x30 * g, 16, 6⟩
def GATE_LVL.A (g : Nat) : Fld := ⟨0x104 + 0x30 * g, 0, 16⟩
def GATE_LVL.B (g : Nat) : Fld := ⟨0x104 + 0x30 * g, 16, 16⟩
def GATE_PARAM.HYST (g : Nat) : Fld := ⟨0x108 + 0x30 * g, 0, 12⟩
def GATE_PARAM.LINE (g : Nat) : Fld := ⟨0x108 + 0x30 * g, 16, 12⟩
def GATE_PARAM.FIELD (g : Nat) : Fld := ⟨0x108 + 0x30 * g, 28, 2⟩
def GATE_W1.SAMPLES (g : Nat) : Fld := ⟨0x10C + 0x30 * g, 0, 32⟩
def GATE_W2.SAMPLES (g : Nat) : Fld := ⟨0x110 + 0x30 * g, 0, 32⟩
def GATE_COUNT.N (g : Nat) : Fld := ⟨0x114 + 0x30 * g, 0, 32⟩
def GATE_TMIN.SAMPLES (g : Nat) : Fld := ⟨0x118 + 0x30 * g, 0, 48⟩
def GATE_TMAX.SAMPLES (g : Nat) : Fld := ⟨0x120 + 0x30 * g, 0, 48⟩
def GATE_BR.NEXT (g : Nat) : Fld := ⟨0x128 + 0x30 * g, 0, 5⟩
def GATE_BR.ELSE (g : Nat) : Fld := ⟨0x128 + 0x30 * g, 8, 5⟩
def GATE_BR.RESET (g : Nat) : Fld := ⟨0x128 + 0x30 * g, 16, 5⟩
def GATE_BR.EARLY (g : Nat) : Fld := ⟨0x128 + 0x30 * g, 21, 1⟩
def GATE_BR.RDEST (g : Nat) : Fld := ⟨0x128 + 0x30 * g, 24, 6⟩
def GATE_BR.RDEST_EN (g : Nat) : Fld := ⟨0x128 + 0x30 * g, 30, 1⟩
/-- The rows of the page: each field with its access, reset value and range (R176, R177). -/
def rows : List Row :=
  [Row.ro STS.RUN 0,
   Row.ro STS.HOLDOFF 0,
   Row.ro STS.LATBAD 0,
   Row.ro STS.SYNC_LOCK 0,
   Row.w1c IST.TRIG,
   Row.w1c IST.LEADMISS,
   Row.w1c IST.SYNC_LOCK,
   Row.w1c IST.SYNC_LOST,
   Row.w1c IST.LATBAD,
   Row.rws SRC.FCH 0,
   (Row.rws CONF_WIN.WIN 16).rng 1 65535,
   (Row.rws HOLD_MODE.MODE 0).rng 0 2,
   Row.rws HOLD_PS.PS 0,
   Row.rws HOLD_CNT.N 0,
   Row.rws SYNC_LVL.SLICE 0,
   Row.rws SYNC_LVL.HYST 256,
   Row.rws SYNC_LINE.PER 0,
   (Row.rws SYNC_FRAME.LPF 625).rng 2 4095,
   Row.rws SYNC_FRAME.INTERLACE 1,
   Row.rws SYNC_FRAME.FMT 0,
   (Row.rws SYNC_FRAME.FIRST 1).rng 1 4095,
   Row.rws SYNC_BROAD.MIN 0,
   Row.wo CMD.FORCE,
   Row.wo CMD.REARM,
   Row.ro STATE.GATE 0,
   Row.ro STATE.PHASE 0,
   Row.ro CNT.COUNT 0,
   Row.ro TMR.SAMPLES 0,
   Row.ro LAST_TAG.TAG 0,
   Row.ro LAST_T.TB96 0,
   Row.ro LAST_INFO.FRAC 0,
   Row.ro LAST_INFO.GATE 0,
   Row.ro LAST_INFO.FORCED 0,
   Row.ro LAST_INFO.NOINTERP 0,
   Row.ro LAST_INFO.GDREF 0,
   Row.ro VID_POS.LINE 0,
   Row.ro VID_POS.FIELD 0,
   Row.ro REACH.CARVE_LAT 4,
   Row.ro REACH.RCH 1,
   Row.rwl INTERP.OFF 0] ++
  [Row.ro TRIG_CNT.COUNT 0,
   Row.ro VOID_CNT.COUNT 0,
   Row.ro VOID_WHY.NOFIRE 0,
   Row.ro VOID_WHY.TIME 0,
   Row.ro VOID_WHY.INVALID 0,
   Row.ro VOID_WHY.ABORT 0,
   Row.ro LEADMISS_CNT.COUNT 0,
   Row.ro RESYNC_SKIP_CNT.SAMPLES 0,
   Row.ro HOLD_SUPP_CNT.COUNT 0] ++
  (List.range 16).map (fun g => (Row.rws (GATE_COND.TYPE g) 0).rng 0 7) ++
  (List.range 16).map (fun g => Row.rws (GATE_COND.POL g) 0) ++
  (List.range 16).map (fun g => Row.rws (GATE_COND.REL g) 0) ++
  (List.range 16).map (fun g => Row.rws (GATE_COND.VMATCH g) 0) ++
  (List.range 16).map (fun g => Row.rws (GATE_COND.DEST g) 0) ++
  (List.range 16).map (fun g => Row.rws (GATE_LVL.A g) 0) ++
  (List.range 16).map (fun g => Row.rws (GATE_LVL.B g) 0) ++
  (List.range 16).map (fun g => Row.rws (GATE_PARAM.HYST g) 0) ++
  (List.range 16).map (fun g => Row.rws (GATE_PARAM.LINE g) 1) ++
  (List.range 16).map (fun g => Row.rws (GATE_PARAM.FIELD g) 0) ++
  (List.range 16).map (fun g => Row.rws (GATE_W1.SAMPLES g) 0) ++
  (List.range 16).map (fun g => Row.rws (GATE_W2.SAMPLES g) 0) ++
  (List.range 16).map (fun g => Row.rws (GATE_COUNT.N g) 0) ++
  (List.range 16).map (fun g => Row.rws (GATE_TMIN.SAMPLES g) 0) ++
  (List.range 16).map (fun g => Row.rws (GATE_TMAX.SAMPLES g) 0) ++
  (List.range 16).map (fun g => Row.rws (GATE_BR.NEXT g) 31) ++
  (List.range 16).map (fun g => Row.rws (GATE_BR.ELSE g) 30) ++
  (List.range 16).map (fun g => Row.rws (GATE_BR.RESET g) 30) ++
  (List.range 16).map (fun g => Row.rws (GATE_BR.EARLY g) 0) ++
  (List.range 16).map (fun g => Row.rws (GATE_BR.RDEST g) 0) ++
  (List.range 16).map (fun g => Row.rws (GATE_BR.RDEST_EN g) 0)
end TRG

/-! ### ACQ page (09_capture_and_stream.md; R195) -/
namespace ACQ
def STS.ARMED : Fld := ⟨0x14, 0, 1⟩
def STS.OVERFLOW : Fld := ⟨0x14, 1, 1⟩
def IST.SEG : Fld := ⟨0x18, 0, 1⟩
def IST.DONE : Fld := ⟨0x18, 1, 1⟩
def IST.OVF : Fld := ⟨0x18, 2, 1⟩
def IST.BLOCK : Fld := ⟨0x18, 3, 1⟩
def MODE.CAP : Fld := ⟨0x40, 0, 1⟩
def MODE.ACC : Fld := ⟨0x40, 1, 1⟩
def MODE.STR : Fld := ⟨0x40, 2, 1⟩
def SRC.KIND : Fld := ⟨0x44, 0, 1⟩
def SRC.CH : Fld := ⟨0x44, 4, 2⟩
def SRC.FCH : Fld := ⟨0x44, 8, 3⟩
def SRC.FMT : Fld := ⟨0x44, 12, 2⟩
def TRIG.TRG : Fld := ⟨0x48, 0, 3⟩
def TRIG.TRG_EN : Fld := ⟨0x48, 3, 1⟩
def SEG.LEN64 : Fld := ⟨0x4C, 0, 30⟩
def SEG_COUNT.COUNT : Fld := ⟨0x7C, 0, 21⟩
def SEG_COUNT.WRAP : Fld := ⟨0x7C, 31, 1⟩
def PRE.SAMPLES : Fld := ⟨0x50, 0, 32⟩
def MEM_BASE.U256 : Fld := ⟨0x54, 0, 28⟩
def MEM_SIZE.U256 : Fld := ⟨0x58, 0, 29⟩
def MEM_SIZE.EARLY : Fld := ⟨0x58, 31, 1⟩
def BUF.MIB : Fld := ⟨0x5C, 0, 6⟩
def CMD.ARM : Fld := ⟨0x60, 0, 1⟩
def CMD.STOP : Fld := ⟨0x60, 1, 1⟩
def STATE.STATE : Fld := ⟨0x64, 0, 4⟩
def STATE.END : Fld := ⟨0x64, 8, 4⟩
def SEG_DONE.COUNT : Fld := ⟨0x68, 0, 32⟩
def SEG_OLDEST.SEQ : Fld := ⟨0x6C, 0, 32⟩
def STR_CFG.DEST : Fld := ⟨0x70, 0, 1⟩
def STR_CFG.RING : Fld := ⟨0x70, 1, 1⟩
def STR_CFG.BLK : Fld := ⟨0x70, 8, 5⟩
def STR_BASE.U256 : Fld := ⟨0x74, 0, 28⟩
def STR_SIZE.U256 : Fld := ⟨0x78, 0, 29⟩
def STR_WR.BLOCK : Fld := ⟨0x80, 0, 32⟩
def STR_RD.BLOCK : Fld := ⟨0x84, 0, 32⟩
def STR_RATE.MBS : Fld := ⟨0x88, 0, 16⟩
def BUF_FILL.BYTES : Fld := ⟨0x8C, 0, 26⟩
def DATA_BASE.U256 : Fld := ⟨0x90, 0, 28⟩
def STRIDE.U256 : Fld := ⟨0x94, 0, 28⟩
def MISSED.COUNT : Fld := ⟨0xE00, 0, 32⟩
def EARLY_CNT.COUNT : Fld := ⟨0xE04, 0, 32⟩
def OVF_CNT.COUNT : Fld := ⟨0xE08, 0, 16⟩
def SEG_TOTAL.COUNT : Fld := ⟨0xE0C, 0, 32⟩
def BUF_PEAK.BYTES : Fld := ⟨0xE10, 0, 26⟩
/-- The rows of the page: each field with its access, reset value and range (R195). -/
def rows : List Row :=
  [Row.ro STS.ARMED 0,
   Row.ro STS.OVERFLOW 0,
   Row.w1c IST.SEG,
   Row.w1c IST.DONE,
   Row.w1c IST.OVF,
   Row.w1c IST.BLOCK,
   Row.rws MODE.CAP 0,
   Row.rws MODE.ACC 0,
   Row.rws MODE.STR 0,
   Row.rws SRC.KIND 0,
   Row.rws SRC.CH 0,
   Row.rws SRC.FCH 0,
   (Row.rws SRC.FMT 0).rng 0 2,
   Row.rws TRIG.TRG 0,
   Row.rws TRIG.TRG_EN 0,
   (Row.rws SEG.LEN64 4).rng 4 1073741823,
   (Row.rws SEG_COUNT.COUNT 1).rng 1 1048576,
   Row.rws SEG_COUNT.WRAP 0,
   Row.rws PRE.SAMPLES 0,
   Row.rws MEM_BASE.U256 0,
   Row.rws MEM_SIZE.U256 0,
   Row.rws MEM_SIZE.EARLY 0,
   (Row.rws BUF.MIB 4).rng 1 32,
   Row.wo CMD.ARM,
   Row.wo CMD.STOP,
   Row.ro STATE.STATE 0,
   Row.ro STATE.END 0,
   Row.ro SEG_DONE.COUNT 0,
   Row.ro SEG_OLDEST.SEQ 0,
   Row.rws STR_CFG.DEST 0,
   Row.rws STR_CFG.RING 0,
   (Row.rws STR_CFG.BLK 16).rng 12 20,
   Row.rws STR_BASE.U256 0,
   Row.rws STR_SIZE.U256 0,
   Row.ro STR_WR.BLOCK 0,
   Row.rw STR_RD.BLOCK 0,
   Row.ro STR_RATE.MBS 0,
   Row.ro BUF_FILL.BYTES 0,
   Row.ro DATA_BASE.U256 0,
   Row.ro STRIDE.U256 1] ++
  [Row.ro MISSED.COUNT 0,
   Row.ro EARLY_CNT.COUNT 0,
   Row.ro OVF_CNT.COUNT 0,
   Row.ro SEG_TOTAL.COUNT 0,
   Row.ro BUF_PEAK.BYTES 0]
end ACQ

/-! ### HIS page (10_accumulation_masks_matrix.md; R218) -/
namespace HIS
def STS.RUN : Fld := ⟨0x14, 0, 1⟩
def STS.DONE : Fld := ⟨0x14, 1, 1⟩
def STS.SAT : Fld := ⟨0x14, 2, 1⟩
def STS.EYE_LOCK : Fld := ⟨0x14, 3, 1⟩
def STS.MLOAD_BUSY : Fld := ⟨0x14, 4, 1⟩
def IST.REC : Fld := ⟨0x18, 0, 1⟩
def IST.DONE : Fld := ⟨0x18, 1, 1⟩
def IST.SAT : Fld := ⟨0x18, 2, 1⟩
def IST.OFFP : Fld := ⟨0x18, 3, 1⟩
def IST.EYE_LOCK : Fld := ⟨0x18, 4, 1⟩
def IST.EYE_LOST : Fld := ⟨0x18, 5, 1⟩
def IST.MLOAD_DONE : Fld := ⟨0x18, 6, 1⟩
def IST.SNAP_DONE : Fld := ⟨0x18, 7, 1⟩
def CFG.TYPE : Fld := ⟨0x40, 0, 2⟩
def CFG.FREE : Fld := ⟨0x40, 4, 1⟩
def CFG.NOCOUNT : Fld := ⟨0x40, 5, 1⟩
def CFG.KEEP : Fld := ⟨0x40, 6, 1⟩
def CFG.CONT : Fld := ⟨0x40, 7, 1⟩
def CFG.ACQ : Fld := ⟨0x40, 8, 3⟩
def CFG.BIND : Fld := ⟨0x40, 11, 1⟩
def GRID.XBINS : Fld := ⟨0x44, 0, 13⟩
def GRID.YBINS : Fld := ⟨0x44, 16, 11⟩
def XDIV.N : Fld := ⟨0x48, 0, 21⟩
def REC_PRE.WORDS : Fld := ⟨0x4C, 0, 32⟩
def YMAP.YLO : Fld := ⟨0x50, 0, 16⟩
def YMAP.YSH : Fld := ⟨0x50, 16, 4⟩
def AVG_N.N : Fld := ⟨0x54, 0, 17⟩
def REC_LIMIT.N : Fld := ⟨0x58, 0, 32⟩
def MEM_BASE.U256 : Fld := ⟨0x5C, 0, 28⟩
def MEM_SIZE.U256 : Fld := ⟨0x60, 0, 29⟩
def EYE_UI.UI : Fld := ⟨0x64, 0, 32⟩
def EYE_CFG.THR : Fld := ⟨0x68, 0, 16⟩
def EYE_CFG.SPAN : Fld := ⟨0x68, 16, 1⟩
def EYE_CFG.BW : Fld := ⟨0x68, 17, 3⟩
def MASK_BASE.U256 : Fld := ⟨0x6C, 0, 28⟩
def CMD.SNAP : Fld := ⟨0x70, 0, 1⟩
def CMD.CLEAR : Fld := ⟨0x70, 1, 1⟩
def CMD.MLOAD : Fld := ⟨0x70, 2, 1⟩
def RECORDS.COUNT : Fld := ⟨0x74, 0, 32⟩
def EYE_STS.LOCK : Fld := ⟨0x78, 0, 1⟩
def EYE_STS.PHERR : Fld := ⟨0x78, 8, 8⟩
def MASK_STS.LOADED : Fld := ⟨0x7C, 0, 4⟩
def MASK_STS.LOAD_ERR : Fld := ⟨0x7C, 4, 1⟩
def MASK_STS.ERR_ZONE : Fld := ⟨0x7C, 5, 2⟩
def MASK_STS.ERR_COL : Fld := ⟨0x7C, 8, 12⟩
def MASK_CTL.ZEN : Fld := ⟨0x80, 0, 4⟩
def TRACK.LOCK_TH : Fld := ⟨0x400, 0, 8⟩
def TRACK.UNLOCK_TH : Fld := ⟨0x400, 8, 8⟩
def SKIPSEL.SEED : Fld := ⟨0x404, 0, 16⟩
def HITS.COUNT : Fld := ⟨0xE00, 0, 48⟩
def SKIP.COUNT : Fld := ⟨0xE08, 0, 48⟩
def REC_MISSED.COUNT : Fld := ⟨0xE10, 0, 32⟩
def REC_SKIPPED.COUNT : Fld := ⟨0xE14, 0, 32⟩
def OUTSIDE.COUNT : Fld := ⟨0xE18, 0, 32⟩
def INVALID.COUNT : Fld := ⟨0xE1C, 0, 32⟩
def SAT_BINS.COUNT : Fld := ⟨0xE20, 0, 32⟩
def UNLOCK_SKIP.COUNT : Fld := ⟨0xE24, 0, 32⟩
def ZACT.EVENT (k : Nat) : Fld := ⟨0x84 + 4 * k, 0, 1⟩
def ZACT.STOP (k : Nat) : Fld := ⟨0x84 + 4 * k, 1, 1⟩
def ZACT.XSTOP (k : Nat) : Fld := ⟨0x84 + 4 * k, 2, 1⟩
def ZACT.POST (k : Nat) : Fld := ⟨0x84 + 4 * k, 8, 24⟩
def ZCNT.COUNT (k : Nat) : Fld := ⟨0xA0 + 4 * k, 0, 32⟩
/-- The rows of the page: each field with its access, reset value and range (R218). -/
def rows : List Row :=
  [Row.ro STS.RUN 0,
   Row.ro STS.DONE 0,
   Row.ro STS.SAT 0,
   Row.ro STS.EYE_LOCK 0,
   Row.ro STS.MLOAD_BUSY 0,
   Row.w1c IST.REC,
   Row.w1c IST.DONE,
   Row.w1c IST.SAT,
   Row.w1c IST.OFFP,
   Row.w1c IST.EYE_LOCK,
   Row.w1c IST.EYE_LOST,
   Row.w1c IST.MLOAD_DONE,
   Row.w1c IST.SNAP_DONE,
   Row.rws CFG.TYPE 0,
   Row.rws CFG.FREE 0,
   Row.rws CFG.NOCOUNT 0,
   Row.rws CFG.KEEP 0,
   Row.rws CFG.CONT 0,
   Row.rws CFG.ACQ 0,
   Row.rws CFG.BIND 0,
   (Row.rws GRID.XBINS 1024).rng 1 4096,
   (Row.rws GRID.YBINS 1024).rng 1 1024,
   (Row.rws XDIV.N 1).rng 1 1048576,
   Row.rws REC_PRE.WORDS 0,
   Row.rws YMAP.YLO 32768,
   (Row.rws YMAP.YSH 6).rng 0 6,
   (Row.rws AVG_N.N 1).rng 1 65536,
   Row.rws REC_LIMIT.N 0,
   Row.rws MEM_BASE.U256 0,
   Row.rws MEM_SIZE.U256 0,
   (Row.rws EYE_UI.UI 262144).rng 131072 67108864,
   Row.rws EYE_CFG.THR 0,
   Row.rws EYE_CFG.SPAN 0,
   Row.rws EYE_CFG.BW 3,
   Row.rw MASK_BASE.U256 0,
   Row.wo CMD.SNAP,
   Row.wo CMD.CLEAR,
   Row.wo CMD.MLOAD,
   Row.ro RECORDS.COUNT 0,
   Row.ro EYE_STS.LOCK 0] ++
  [Row.ro EYE_STS.PHERR 0,
   Row.ro MASK_STS.LOADED 0,
   Row.ro MASK_STS.LOAD_ERR 0,
   Row.ro MASK_STS.ERR_ZONE 0,
   Row.ro MASK_STS.ERR_COL 0,
   Row.rws MASK_CTL.ZEN 0,
   (Row.rwl TRACK.LOCK_TH 13).rng 1 128,
   Row.rwl TRACK.UNLOCK_TH 38,
   (Row.rwl SKIPSEL.SEED 44257).rng 1 65535,
   Row.ro HITS.COUNT 0,
   Row.ro SKIP.COUNT 0,
   Row.ro REC_MISSED.COUNT 0,
   Row.ro REC_SKIPPED.COUNT 0,
   Row.ro OUTSIDE.COUNT 0,
   Row.ro INVALID.COUNT 0,
   Row.ro SAT_BINS.COUNT 0,
   Row.ro UNLOCK_SKIP.COUNT 0] ++
  (List.range 4).map (fun k => Row.rws (ZACT.EVENT k) 0) ++
  (List.range 4).map (fun k => Row.rws (ZACT.STOP k) 0) ++
  (List.range 4).map (fun k => Row.rws (ZACT.XSTOP k) 0) ++
  (List.range 4).map (fun k => Row.rws (ZACT.POST k) 0) ++
  (List.range 4).map (fun k => Row.ro (ZCNT.COUNT k) 0)
end HIS

/-! ### DMC page (11_dram_controller.md; R247) -/
namespace DMC
def STS.STATE : Fld := ⟨0x14, 0, 3⟩
def STS.MARGINAL : Fld := ⟨0x14, 3, 1⟩
def STS.QUEUED : Fld := ⟨0x14, 4, 1⟩
def IST.RETRAIN_DONE : Fld := ⟨0x18, 0, 1⟩
def IST.MARGIN : Fld := ⟨0x18, 1, 1⟩
def IST.DEGRADED : Fld := ⟨0x18, 2, 1⟩
def IST.THROTTLE : Fld := ⟨0x18, 3, 1⟩
def IST.ECC_UE : Fld := ⟨0x18, 4, 1⟩
def SCHED.MODE : Fld := ⟨0x40, 0, 1⟩
def CMD.RETRAIN : Fld := ⟨0x44, 0, 1⟩
def DEV.DENS : Fld := ⟨0x48, 0, 2⟩
def DEV.RANKS2 : Fld := ⟨0x48, 4, 1⟩
def DEV.RFM : Fld := ⟨0x48, 8, 1⟩
def TRAIN_STS.CAUSE : Fld := ⟨0x4C, 0, 3⟩
def TRAIN_STS.RESULT : Fld := ⟨0x4C, 4, 2⟩
def TRAIN_STS.DUR : Fld := ⟨0x4C, 8, 16⟩
def TEMP.AT_TRAIN : Fld := ⟨0x50, 0, 8⟩
def TEMP.NOW : Fld := ⟨0x50, 8, 8⟩
def TEMP.DTS : Fld := ⟨0x50, 16, 3⟩
def TEMP.MR4 : Fld := ⟨0x50, 20, 4⟩
def THROTTLE.ACTIVE : Fld := ⟨0x54, 0, 3⟩
def THROTTLE.BANKWIDE : Fld := ⟨0x54, 3, 1⟩
def PAGE.POLICY : Fld := ⟨0x400, 0, 2⟩
def PAGE.IDLE : Fld := ⟨0x400, 4, 12⟩
def ACT_CNT.COUNT : Fld := ⟨0xE00, 0, 32⟩
def HIT_CNT.COUNT : Fld := ⟨0xE04, 0, 32⟩
def REFPB_CNT.COUNT : Fld := ⟨0xE08, 0, 32⟩
def RFM_CNT.COUNT : Fld := ⟨0xE0C, 0, 32⟩
def RETRAIN_CNT.COUNT : Fld := ⟨0xE10, 0, 32⟩
def THROTTLE_CNT.COUNT : Fld := ⟨0xE14, 0, 32⟩
def LECC_CE_CNT.COUNT : Fld := ⟨0xE18, 0, 32⟩
def LECC_UE_CNT.COUNT : Fld := ⟨0xE1C, 0, 32⟩
def IECC_CE_CNT.COUNT : Fld := ⟨0xE20, 0, 32⟩
def IECC_UE_CNT.COUNT : Fld := ⟨0xE24, 0, 32⟩
def PROMOTE_CNT.COUNT : Fld := ⟨0xE28, 0, 32⟩
/-- The rows of the page: each field with its access, reset value and range (R247). -/
def rows : List Row :=
  [Row.ro STS.STATE 1,
   Row.ro STS.MARGINAL 0,
   Row.ro STS.QUEUED 0,
   Row.w1c IST.RETRAIN_DONE,
   Row.w1c IST.MARGIN,
   Row.w1c IST.DEGRADED,
   Row.w1c IST.THROTTLE,
   Row.w1c IST.ECC_UE,
   Row.rws SCHED.MODE 0,
   Row.wo CMD.RETRAIN,
   Row.ro DEV.DENS 0,
   Row.ro DEV.RANKS2 0,
   Row.ro DEV.RFM 0,
   Row.ro TRAIN_STS.CAUSE 0,
   Row.ro TRAIN_STS.RESULT 0,
   Row.ro TRAIN_STS.DUR 0,
   Row.ro TEMP.AT_TRAIN 0,
   Row.ro TEMP.NOW 0,
   Row.ro TEMP.DTS 0,
   Row.ro TEMP.MR4 0,
   Row.ro THROTTLE.ACTIVE 0,
   Row.ro THROTTLE.BANKWIDE 0,
   (Row.rwls PAGE.POLICY 0).rng 0 2,
   (Row.rwls PAGE.IDLE 512).rng 1 4095,
   Row.ro ACT_CNT.COUNT 0,
   Row.ro HIT_CNT.COUNT 0,
   Row.ro REFPB_CNT.COUNT 0,
   Row.ro RFM_CNT.COUNT 0,
   Row.ro RETRAIN_CNT.COUNT 0,
   Row.ro THROTTLE_CNT.COUNT 0,
   Row.ro LECC_CE_CNT.COUNT 0,
   Row.ro LECC_UE_CNT.COUNT 0,
   Row.ro IECC_CE_CNT.COUNT 0,
   Row.ro IECC_UE_CNT.COUNT 0,
   Row.ro PROMOTE_CNT.COUNT 0]
end DMC

/-! ### DMX page (11_dram_controller.md; R248) -/
namespace DMX
def STS.INIT_DONE : Fld := ⟨0x14, 0, 1⟩
def STS.SWITCH_PENDING : Fld := ⟨0x14, 1, 1⟩
def STS.RETRAINING : Fld := ⟨0x14, 2, 1⟩
def STS.IECC : Fld := ⟨0x14, 3, 1⟩
def IST.INIT_DONE : Fld := ⟨0x18, 0, 1⟩
def IST.DEGRADED : Fld := ⟨0x18, 1, 1⟩
def IST.REMAPPED : Fld := ⟨0x18, 2, 1⟩
def IST.SNOW : Fld := ⟨0x18, 3, 1⟩
def POP.DPOP : Fld := ⟨0x40, 0, 2⟩
def POP.N : Fld := ⟨0x40, 8, 4⟩
def POP.K : Fld := ⟨0x40, 12, 4⟩
def POP.GOOD : Fld := ⟨0x40, 16, 8⟩
def CAP.GRAN : Fld := ⟨0x44, 0, 9⟩
def CAP.GRAN_NEXT : Fld := ⟨0x44, 16, 9⟩
def CFG.IECC : Fld := ⟨0x48, 0, 1⟩
def CFG.REMAP : Fld := ⟨0x48, 1, 1⟩
def CMD.REMAP : Fld := ⟨0x4C, 0, 1⟩
def MAP_GEN.COUNT : Fld := ⟨0x50, 0, 16⟩
def RATE.MTS : Fld := ⟨0x54, 0, 14⟩
def RATE.BIN : Fld := ⟨0x54, 16, 8⟩
def SNOW_LOG.DMC : Fld := ⟨0x58, 0, 3⟩
def SNOW_LOG.RANK : Fld := ⟨0x58, 3, 1⟩
def SNOW_LOG.BANK : Fld := ⟨0x58, 4, 4⟩
def SNOW_LOG.FUNC : Fld := ⟨0x58, 8, 4⟩
def SNOW_LOG.CLASS : Fld := ⟨0x58, 12, 2⟩
def SNOW_LOG.D_US : Fld := ⟨0x58, 16, 8⟩
def SNOW_ROW.ROW : Fld := ⟨0x5C, 0, 17⟩
def AGE0.C0 : Fld := ⟨0x400, 0, 16⟩
def AGE0.C1 : Fld := ⟨0x400, 16, 16⟩
def AGE1.C2 : Fld := ⟨0x404, 0, 16⟩
def AGE1.C3 : Fld := ⟨0x404, 16, 16⟩
def SNOW.HAMMER_TH : Fld := ⟨0x408, 0, 16⟩
def THR.START : Fld := ⟨0x40C, 0, 8⟩
def THR.MAX : Fld := ⟨0x40C, 8, 8⟩
def RETRAIN.TEMP_TH : Fld := ⟨0x410, 0, 8⟩
def RETRAIN.OSC_TH : Fld := ⟨0x410, 8, 8⟩
def RETRAIN.PERIOD_S : Fld := ⟨0x410, 16, 16⟩
def RETRAIN2.LECC_TH : Fld := ⟨0x414, 0, 16⟩
def RETRAIN2.OSC_MS : Fld := ⟨0x414, 16, 8⟩
def RETRAIN2.MIN_EYE : Fld := ⟨0x414, 24, 8⟩
def THROTTLE_CNT.COUNT : Fld := ⟨0xE00, 0, 32⟩
def REMAP_CNT.COUNT : Fld := ⟨0xE04, 0, 16⟩
def DEGRADED_READ_CNT.COUNT : Fld := ⟨0xE08, 0, 32⟩
def BEYOND_CNT.COUNT : Fld := ⟨0xE0C, 0, 32⟩
/-- The rows of the page: each field with its access, reset value and range (R248). -/
def rows : List Row :=
  [Row.ro STS.INIT_DONE 0,
   Row.ro STS.SWITCH_PENDING 0,
   Row.ro STS.RETRAINING 0,
   Row.ro STS.IECC 0,
   Row.w1c IST.INIT_DONE,
   Row.w1c IST.DEGRADED,
   Row.w1c IST.REMAPPED,
   Row.w1c IST.SNOW,
   Row.ro POP.DPOP 0,
   Row.ro POP.N 0,
   Row.ro POP.K 0,
   Row.ro POP.GOOD 0,
   Row.ro CAP.GRAN 0,
   Row.ro CAP.GRAN_NEXT 0,
   Row.rws CFG.IECC 0,
   Row.rws CFG.REMAP 0,
   Row.wo CMD.REMAP,
   Row.ro MAP_GEN.COUNT 0,
   Row.ro RATE.MTS 8000,
   Row.ro RATE.BIN 0,
   Row.ro SNOW_LOG.DMC 0,
   Row.ro SNOW_LOG.RANK 0,
   Row.ro SNOW_LOG.BANK 0,
   Row.ro SNOW_LOG.FUNC 0,
   Row.ro SNOW_LOG.CLASS 0,
   Row.ro SNOW_LOG.D_US 0,
   Row.ro SNOW_ROW.ROW 0,
   (Row.rwl AGE0.C0 256).rng 16 65535,
   (Row.rwl AGE0.C1 1024).rng 16 65535,
   (Row.rwl AGE1.C2 4096).rng 16 65535,
   (Row.rwl AGE1.C3 8192).rng 16 65535,
   (Row.rwl SNOW.HAMMER_TH 2048).rng 256 65535,
   (Row.rwl THR.START 1).rng 1 64,
   (Row.rwl THR.MAX 64).rng 1 128,
   (Row.rwl RETRAIN.TEMP_TH 8).rng 2 30,
   (Row.rwl RETRAIN.OSC_TH 12).rng 2 100,
   (Row.rwl RETRAIN.PERIOD_S 30).rng 1 3600,
   (Row.rwl RETRAIN2.LECC_TH 64).rng 1 65535,
   (Row.rwl RETRAIN2.OSC_MS 4).rng 1 255,
   (Row.rwl RETRAIN2.MIN_EYE 77).rng 26 192] ++
  [Row.ro THROTTLE_CNT.COUNT 0,
   Row.ro REMAP_CNT.COUNT 0,
   Row.ro DEGRADED_READ_CNT.COUNT 0,
   Row.ro BEYOND_CNT.COUNT 0]
end DMX

/-! ### MCV page (12_monitor_comparators_events.md; R271) -/
namespace MCV
def STS.SCANNING : Fld := ⟨0x14, 0, 1⟩
def STS.URGENT : Fld := ⟨0x14, 1, 1⟩
def STS.STARVED : Fld := ⟨0x14, 2, 1⟩
def STS.REF_BAD : Fld := ⟨0x14, 3, 1⟩
def IST.URG_DONE_H : Fld := ⟨0x18, 0, 1⟩
def IST.URG_DONE_M : Fld := ⟨0x18, 1, 1⟩
def IST.STARVED : Fld := ⟨0x18, 2, 1⟩
def IST.REF_BAD : Fld := ⟨0x18, 3, 1⟩
def IST.WRAP : Fld := ⟨0x18, 4, 1⟩
def STARVE.ENTRY : Fld := ⟨0x80, 0, 16⟩
def URG.INPUT : Fld := ⟨0xC0, 0, 6⟩
def URG.CODE : Fld := ⟨0xC0, 8, 3⟩
def URG.GO : Fld := ⟨0xC0, 31, 1⟩
def ACC_SEL.INPUT : Fld := ⟨0xD0, 0, 6⟩
def ACC_SEL.SNAP : Fld := ⟨0xD0, 8, 1⟩
def ACC_SEL.CLEAR : Fld := ⟨0xD0, 9, 1⟩
def ACC_SUM.SUM : Fld := ⟨0xD4, 0, 64⟩
def ACC_CNT.COUNT : Fld := ⟨0xDC, 0, 32⟩
def ACC_MIN.VAL : Fld := ⟨0xE0, 0, 24⟩
def ACC_MAX.VAL : Fld := ⟨0xE4, 0, 24⟩
def ACC_INFO.INPUT : Fld := ⟨0xE8, 0, 6⟩
def ACC_INFO.FULL : Fld := ⟨0xE8, 8, 1⟩
def CFG.SHIELD : Fld := ⟨0x400, 0, 1⟩
def CONV_CNT.COUNT : Fld := ⟨0xE00, 0, 32⟩
def ABORT_CNT.COUNT : Fld := ⟨0xE04, 0, 32⟩
def URG_CNT.COUNT : Fld := ⟨0xE08, 0, 32⟩
def STARVE_CNT.COUNT : Fld := ⟨0xE0C, 0, 16⟩
def SCAN.INPUT (e : Nat) : Fld := ⟨0x40 + 4 * e, 0, 6⟩
def SCAN.CODE (e : Nat) : Fld := ⟨0x40 + 4 * e, 8, 3⟩
def SCAN.EN (e : Nat) : Fld := ⟨0x40 + 4 * e, 15, 1⟩
/-- The rows of the page: each field with its access, reset value and range (R271). -/
def rows : List Row :=
  [Row.ro STS.SCANNING 0,
   Row.ro STS.URGENT 0,
   Row.ro STS.STARVED 0,
   Row.ro STS.REF_BAD 0,
   Row.w1c IST.URG_DONE_H,
   Row.w1c IST.URG_DONE_M,
   Row.w1c IST.STARVED,
   Row.w1c IST.REF_BAD,
   Row.w1c IST.WRAP,
   Row.ro STARVE.ENTRY 0,
   (Row.rw URG.INPUT 0).rng 0 39,
   Row.rw URG.CODE 7,
   Row.wo URG.GO,
   Row.wo ACC_SEL.INPUT,
   Row.wo ACC_SEL.SNAP,
   Row.wo ACC_SEL.CLEAR,
   Row.ro ACC_SUM.SUM 0,
   Row.ro ACC_CNT.COUNT 0,
   Row.ro ACC_MIN.VAL 0,
   Row.ro ACC_MAX.VAL 0,
   Row.ro ACC_INFO.INPUT 0,
   Row.ro ACC_INFO.FULL 0,
   Row.rwl CFG.SHIELD 0,
   Row.ro CONV_CNT.COUNT 0,
   Row.ro ABORT_CNT.COUNT 0,
   Row.ro URG_CNT.COUNT 0,
   Row.ro STARVE_CNT.COUNT 0] ++
  (List.range 16).map (fun e => (Row.rws (SCAN.INPUT e) 0).rng 0 39) ++
  (List.range 16).map (fun e => Row.rws (SCAN.CODE e) 7) ++
  (List.range 16).map (fun e => Row.rws (SCAN.EN e) 0)
end MCV

/-! ### WCP page (12_monitor_comparators_events.md; R272) -/
namespace WCP
def STS.VALID : Fld := ⟨0x14, 0, 8⟩
def STS.DACBAD : Fld := ⟨0x14, 8, 8⟩
def IST.CHANGE : Fld := ⟨0x18, 0, 8⟩
def IST.VALID : Fld := ⟨0x18, 8, 8⟩
def IST.DACBAD : Fld := ⟨0x18, 16, 8⟩
def CHK.PERIOD_MS : Fld := ⟨0x400, 0, 16⟩
def CHK.TOL : Fld := ⟨0x400, 16, 8⟩
def LIVE.STATE (n : Nat) : Fld := ⟨0x40, 2 * n, 2⟩
def CH_CFG.EN (n : Nat) : Fld := ⟨0x100 + 0x20 * n, 0, 1⟩
def CH_CFG.HYST (n : Nat) : Fld := ⟨0x100 + 0x20 * n, 8, 4⟩
def CH_THR.LO (n : Nat) : Fld := ⟨0x104 + 0x20 * n, 0, 10⟩
def CH_THR.HI (n : Nat) : Fld := ⟨0x104 + 0x20 * n, 16, 10⟩
def CH_FLT.NSEL (n : Nat) : Fld := ⟨0x108 + 0x20 * n, 0, 3⟩
def CH_FLT.K (n : Nat) : Fld := ⟨0x108 + 0x20 * n, 4, 4⟩
def CH_FLT.M (n : Nat) : Fld := ⟨0x108 + 0x20 * n, 16, 16⟩
def CH_STS.LIVE (n : Nat) : Fld := ⟨0x10C + 0x20 * n, 0, 2⟩
def CH_STS.STATE (n : Nat) : Fld := ⟨0x10C + 0x20 * n, 4, 2⟩
def CH_STS.VALID (n : Nat) : Fld := ⟨0x10C + 0x20 * n, 6, 1⟩
def CH_STS.DACBAD (n : Nat) : Fld := ⟨0x10C + 0x20 * n, 7, 1⟩
def CH_CMD.CHECK (n : Nat) : Fld := ⟨0x110 + 0x20 * n, 0, 1⟩
def CH_CHK.DEV_L (n : Nat) : Fld := ⟨0x114 + 0x20 * n, 0, 8⟩
def CH_CHK.DEV_U (n : Nat) : Fld := ⟨0x114 + 0x20 * n, 8, 8⟩
def CH_CHK.FAIL (n : Nat) : Fld := ⟨0x114 + 0x20 * n, 16, 1⟩
def CHANGE_CNT.COUNT (n : Nat) : Fld := ⟨0xE00 + 4 * n, 0, 32⟩
/-- The rows of the page: each field with its access, reset value and range (R272). -/
def rows : List Row :=
  [Row.ro STS.VALID 0,
   Row.ro STS.DACBAD 0,
   Row.w1c IST.CHANGE,
   Row.w1c IST.VALID,
   Row.w1c IST.DACBAD,
   (Row.rwl CHK.PERIOD_MS 100).rng 10 10000,
   (Row.rwl CHK.TOL 40).rng 5 200] ++
  (List.range 8).map (fun n => Row.ro (LIVE.STATE n) 0) ++
  (List.range 8).map (fun n => Row.rws (CH_CFG.EN n) 0) ++
  (List.range 8).map (fun n => (Row.rws (CH_CFG.HYST n) 0).rng 0 8) ++
  (List.range 8).map (fun n => Row.rws (CH_THR.LO n) 0) ++
  (List.range 8).map (fun n => Row.rws (CH_THR.HI n) 0) ++
  (List.range 8).map (fun n => (Row.rws (CH_FLT.NSEL n) 0).rng 0 4) ++
  (List.range 8).map (fun n => Row.rws (CH_FLT.K n) 2) ++
  (List.range 8).map (fun n => (Row.rws (CH_FLT.M n) 1).rng 1 65535) ++
  (List.range 8).map (fun n => Row.ro (CH_STS.LIVE n) 0) ++
  (List.range 8).map (fun n => Row.ro (CH_STS.STATE n) 0) ++
  (List.range 8).map (fun n => Row.ro (CH_STS.VALID n) 0) ++
  (List.range 8).map (fun n => Row.ro (CH_STS.DACBAD n) 0) ++
  (List.range 8).map (fun n => Row.wo (CH_CMD.CHECK n)) ++
  (List.range 8).map (fun n => Row.ro (CH_CHK.DEV_L n) 0) ++
  (List.range 8).map (fun n => Row.ro (CH_CHK.DEV_U n) 0) ++
  (List.range 8).map (fun n => Row.ro (CH_CHK.FAIL n) 0) ++
  (List.range 8).map (fun n => Row.ro (CHANGE_CNT.COUNT n) 0)
end WCP

/-! ### EVR page (12_monitor_comparators_events.md; R273) -/
namespace EVR
def STS.PARITY_OK : Fld := ⟨0x14, 0, 1⟩
def IST.MASKED : Fld := ⟨0x18, 0, 1⟩
def IST.PARITY : Fld := ⟨0x18, 1, 1⟩
def EVIO_DIR.OUT : Fld := ⟨0x40, 0, 16⟩
def EVIO_IN.LEVEL : Fld := ⟨0x44, 0, 16⟩
def MASKED_CNT.COUNT : Fld := ⟨0xE00, 0, 32⟩
def FORCE.D (d : Nat) : Fld := ⟨0x48 + 4 * (d / 32), d % 32, 1⟩
def DLIVE.D (d : Nat) : Fld := ⟨0x50 + 4 * (d / 32), d % 32, 1⟩
def DST_SEL.SRC (d : Nat) (k : Nat) : Fld := ⟨0x100 + 8 * d, 8 * k, 8⟩
def DST_CFG.TENT (d : Nat) : Fld := ⟨0x104 + 8 * d, 0, 1⟩
def DST_CFG.INV (d : Nat) : Fld := ⟨0x104 + 8 * d, 1, 1⟩
def DST_CFG.MASKED (d : Nat) : Fld := ⟨0x104 + 8 * d, 8, 1⟩
/-- The rows of the page: each field with its access, reset value and range (R273). -/
def rows : List Row :=
  [Row.ro STS.PARITY_OK 1,
   Row.w1c IST.MASKED,
   Row.w1c IST.PARITY,
   Row.rw EVIO_DIR.OUT 0,
   Row.ro EVIO_IN.LEVEL 0,
   Row.ro MASKED_CNT.COUNT 0] ++
  (List.range 64).map (fun d => Row.wo (FORCE.D d)) ++
  (List.range 64).map (fun d => Row.ro (DLIVE.D d) 0) ++
  (List.range 64).flatMap (fun d => (List.range 4).map fun k => Row.rws (DST_SEL.SRC d k) 0) ++
  (List.range 64).map (fun d => Row.rws (DST_CFG.TENT d) 0) ++
  (List.range 64).map (fun d => Row.rws (DST_CFG.INV d) 0) ++
  (List.range 64).map (fun d => Row.ro (DST_CFG.MASKED d) 0)
end EVR

/-! ### XPT page (13_transport_and_sensors.md; R292) -/
namespace XPT
def STS.RUN : Fld := ⟨0x14, 0, 1⟩
def STS.STOPREQ : Fld := ⟨0x14, 1, 1⟩
def STS.OUTRUN : Fld := ⟨0x14, 2, 1⟩
def STS.READY : Fld := ⟨0x14, 3, 1⟩
def STS.SHORT : Fld := ⟨0x14, 4, 1⟩
def STS.MOVING : Fld := ⟨0x14, 5, 1⟩
def STS.POS_SUSPECT : Fld := ⟨0x14, 6, 1⟩
def IST.STOP : Fld := ⟨0x18, 0, 1⟩
def IST.RELEASED : Fld := ⟨0x18, 1, 1⟩
def IST.OUT_START : Fld := ⟨0x18, 2, 1⟩
def IST.OUT_END : Fld := ⟨0x18, 3, 1⟩
def IST.SHORT : Fld := ⟨0x18, 4, 1⟩
def IST.IDX : Fld := ⟨0x18, 5, 1⟩
def IST.QERR : Fld := ⟨0x18, 6, 1⟩
def CFG.DIR_INV : Fld := ⟨0x40, 0, 1⟩
def CFG.IDX_LOAD : Fld := ⟨0x40, 1, 1⟩
def CFG.CTL_EDGE : Fld := ⟨0x40, 2, 1⟩
def CFG.FILT : Fld := ⟨0x40, 8, 8⟩
def POS.POS : Fld := ⟨0x44, 0, 48⟩
def LOAD.VAL : Fld := ⟨0x4C, 0, 48⟩
def VEL.CPS : Fld := ⟨0x54, 0, 32⟩
def VEL_CFG.WIN : Fld := ⟨0x58, 0, 2⟩
def IDX_POS.POS : Fld := ⟨0x5C, 0, 48⟩
def CTL_CNT.COUNT : Fld := ⟨0x64, 0, 32⟩
def CTL_POS.POS : Fld := ⟨0x68, 0, 48⟩
def DECEL_A.A : Fld := ⟨0x70, 0, 32⟩
def DECEL_T.TR : Fld := ⟨0x74, 0, 16⟩
def STOP_VEL.VEL : Fld := ⟨0x78, 0, 24⟩
def OUT_CFG.ACQ : Fld := ⟨0x7C, 0, 3⟩
def OUT_CFG.ACQ_EN : Fld := ⟨0x7C, 3, 1⟩
def OUT_CFG.MODE : Fld := ⟨0x7C, 4, 1⟩
def OUT_CFG.MARGIN : Fld := ⟨0x7C, 8, 8⟩
def OUT_BASE.U256 : Fld := ⟨0x80, 0, 28⟩
def OUT_SIZE.U256 : Fld := ⟨0x84, 0, 29⟩
def OUT_SLOTS.N : Fld := ⟨0x88, 0, 21⟩
def PRED.NSEG : Fld := ⟨0x8C, 0, 21⟩
def PRED_T.T : Fld := ⟨0x90, 0, 20⟩
def STOP_SRC.DEST : Fld := ⟨0x94, 0, 6⟩
def STOP_SRC.EN : Fld := ⟨0x94, 8, 1⟩
def CMD.STOP_REQ : Fld := ⟨0x98, 0, 1⟩
def CMD.RELEASE : Fld := ⟨0x98, 1, 1⟩
def CMD.LOAD : Fld := ⟨0x98, 2, 1⟩
def OUT_STS.STATE : Fld := ⟨0xA0, 0, 2⟩
def OUT_STS.WHY : Fld := ⟨0xA0, 4, 3⟩
def OUT_FIRST.SEQ : Fld := ⟨0xA4, 0, 32⟩
def OUT_DONE.COUNT : Fld := ⟨0xA8, 0, 21⟩
def OUT_LOG_T.T : Fld := ⟨0xAC, 0, 20⟩
def OUT_LOG_D.EDGES : Fld := ⟨0xB0, 0, 32⟩
def QERR_CNT.COUNT : Fld := ⟨0xE00, 0, 32⟩
def GLITCH_CNT.COUNT : Fld := ⟨0xE04, 0, 32⟩
def IDX_CNT.COUNT : Fld := ⟨0xE08, 0, 32⟩
def OUTRUN_CNT.COUNT : Fld := ⟨0xE0C, 0, 32⟩
def STOPSTS.POR : Fld := ⟨0x9C, 0, 1⟩
def STOPSTS.SW : Fld := ⟨0x9C, 1, 1⟩
def STOPSTS.MASK : Fld := ⟨0x9C, 2, 1⟩
def STOPSTS.EVR : Fld := ⟨0x9C, 3, 1⟩
def STOPSTS.OVR : Fld := ⟨0x9C, 4, 1⟩
def STOPSTS.TRIP : Fld := ⟨0x9C, 5, 1⟩
/-- The rows of the page: each field with its access, reset value and range (R292). -/
def rows : List Row :=
  [Row.ro STS.RUN 0,
   Row.ro STS.STOPREQ 1,
   Row.ro STS.OUTRUN 0,
   Row.ro STS.READY 0,
   Row.ro STS.SHORT 0,
   Row.ro STS.MOVING 0,
   Row.ro STS.POS_SUSPECT 0,
   Row.w1c IST.STOP,
   Row.w1c IST.RELEASED,
   Row.w1c IST.OUT_START,
   Row.w1c IST.OUT_END,
   Row.w1c IST.SHORT,
   Row.w1c IST.IDX,
   Row.w1c IST.QERR,
   Row.rws CFG.DIR_INV 0,
   Row.rws CFG.IDX_LOAD 0,
   Row.rws CFG.CTL_EDGE 0,
   (Row.rws CFG.FILT 4).rng 1 255,
   Row.ro POS.POS 0,
   Row.rw LOAD.VAL 0,
   Row.ro VEL.CPS 0,
   (Row.rws VEL_CFG.WIN 0).rng 0 2,
   Row.ro IDX_POS.POS 0,
   Row.ro CTL_CNT.COUNT 0,
   Row.ro CTL_POS.POS 0,
   (Row.rws DECEL_A.A 1000000).rng 1 4294967295,
   (Row.rws DECEL_T.TR 0).rng 0 60000,
   (Row.rws STOP_VEL.VEL 1000).rng 1 16777215,
   Row.rws OUT_CFG.ACQ 0,
   Row.rws OUT_CFG.ACQ_EN 0,
   Row.rws OUT_CFG.MODE 0,
   (Row.rws OUT_CFG.MARGIN 10).rng 0 100,
   Row.rws OUT_BASE.U256 0,
   Row.rws OUT_SIZE.U256 0,
   Row.ro OUT_SLOTS.N 0,
   Row.ro PRED.NSEG 0,
   Row.ro PRED_T.T 0,
   Row.rws STOP_SRC.DEST 0,
   Row.rws STOP_SRC.EN 0,
   Row.wo CMD.STOP_REQ] ++
  [Row.wo CMD.RELEASE,
   Row.wo CMD.LOAD,
   Row.ro OUT_STS.STATE 0,
   Row.ro OUT_STS.WHY 0,
   Row.ro OUT_FIRST.SEQ 0,
   Row.ro OUT_DONE.COUNT 0,
   Row.ro OUT_LOG_T.T 0,
   Row.ro OUT_LOG_D.EDGES 0,
   Row.ro QERR_CNT.COUNT 0,
   Row.ro GLITCH_CNT.COUNT 0,
   Row.ro IDX_CNT.COUNT 0,
   Row.ro OUTRUN_CNT.COUNT 0,
   Row.ro STOPSTS.POR 1,
   Row.ro STOPSTS.SW 0,
   Row.ro STOPSTS.MASK 0,
   Row.ro STOPSTS.EVR 0,
   Row.ro STOPSTS.OVR 0,
   Row.ro STOPSTS.TRIP 0]
end XPT

/-! ### SFE page (13_transport_and_sensors.md; R301, R302) -/
namespace SFE
def STS.RUN : Fld := ⟨0x14, 0, 1⟩
def STS.CHECKING : Fld := ⟨0x14, 1, 1⟩
def IST.RESULT : Fld := ⟨0x18, 0, 1⟩
def IST.FAULT : Fld := ⟨0x18, 1, 1⟩
def IST.THRESH : Fld := ⟨0x18, 2, 1⟩
def EXC.FREQ : Fld := ⟨0x40, 0, 23⟩
def AMP.MVPP : Fld := ⟨0x44, 0, 12⟩
def CFG.RANGE : Fld := ⟨0x48, 0, 2⟩
def CFG.GUARD : Fld := ⟨0x48, 4, 1⟩
def CFG.LIN_IN : Fld := ⟨0x48, 5, 1⟩
def CFG.OUT_MODE : Fld := ⟨0x48, 6, 1⟩
def CFG.OUT_EN : Fld := ⟨0x48, 7, 1⟩
def DEMOD.CYC : Fld := ⟨0x4C, 0, 9⟩
def OUT_PW.PER : Fld := ⟨0x50, 0, 10⟩
def OUT_FRQ.FMIN : Fld := ⟨0x54, 0, 10⟩
def OUT_FRQ.FMAX : Fld := ⟨0x54, 16, 10⟩
def TH.LO : Fld := ⟨0x58, 0, 16⟩
def TH.HI : Fld := ⟨0x58, 16, 16⟩
def IMP.MT : Fld := ⟨0x5C, 0, 10⟩
def IMP.AMP : Fld := ⟨0x5C, 12, 10⟩
def IMP2.PERIOD : Fld := ⟨0x60, 0, 16⟩
def ZWIN.ZMIN : Fld := ⟨0x64, 0, 16⟩
def ZWIN.ZMAX : Fld := ⟨0x64, 16, 16⟩
def IQ.I : Fld := ⟨0x68, 0, 16⟩
def IQ.Q : Fld := ⟨0x68, 16, 16⟩
def RESULT.T : Fld := ⟨0x6C, 0, 16⟩
def RESULT.VALID : Fld := ⟨0x6C, 16, 1⟩
def RESULT.CLAMP : Fld := ⟨0x6C, 17, 1⟩
def RESULT.FAULT : Fld := ⟨0x6C, 18, 1⟩
def Z.OHM : Fld := ⟨0x70, 0, 16⟩
def Z.VERDICT : Fld := ⟨0x70, 16, 2⟩
def LIN.X (k : Nat) : Fld := ⟨0x100 + 4 * k, 0, 16⟩
def LIN.Y (k : Nat) : Fld := ⟨0x100 + 4 * k, 16, 16⟩
def RESULT_CNT.COUNT : Fld := ⟨0xE00, 0, 32⟩
def CLAMP_CNT.COUNT : Fld := ⟨0xE04, 0, 32⟩
def IMPCHK_CNT.COUNT : Fld := ⟨0xE08, 0, 32⟩
def FAULT_CNT.COUNT : Fld := ⟨0xE0C, 0, 32⟩
/-- The rows of the page: each field with its access, reset value and range (R301, R302). -/
def rows : List Row :=
  [Row.ro STS.RUN 0,
   Row.ro STS.CHECKING 0,
   Row.w1c IST.RESULT,
   Row.w1c IST.FAULT,
   Row.w1c IST.THRESH,
   (Row.rws EXC.FREQ 1000000).rng 100000 5000000,
   (Row.rws AMP.MVPP 0).rng 0 3000,
   (Row.rws CFG.RANGE 0).rng 0 2,
   Row.rws CFG.GUARD 0,
   Row.rws CFG.LIN_IN 0,
   Row.rws CFG.OUT_MODE 0,
   Row.rws CFG.OUT_EN 0,
   (Row.rws DEMOD.CYC 10).rng 1 256,
   (Row.rws OUT_PW.PER 100).rng 10 1000,
   (Row.rws OUT_FRQ.FMIN 10).rng 10 1000,
   (Row.rws OUT_FRQ.FMAX 1000).rng 10 1000,
   Row.rw TH.LO 0,
   Row.rw TH.HI 0,
   (Row.rws IMP.MT 1).rng 1 1023,
   (Row.rws IMP.AMP 0).rng 0 1000,
   (Row.rws IMP2.PERIOD 1000).rng 10 60000,
   Row.rws ZWIN.ZMIN 1,
   Row.rws ZWIN.ZMAX 65535,
   Row.ro IQ.I 0,
   Row.ro IQ.Q 0,
   Row.ro RESULT.T 0,
   Row.ro RESULT.VALID 0,
   Row.ro RESULT.CLAMP 0,
   Row.ro RESULT.FAULT 0,
   Row.ro Z.OHM 0,
   Row.ro Z.VERDICT 0] ++
  (List.range 33).map (fun k => Row.rws (LIN.X k) (if k = 32 then 32767 else (32768 + 2048 * k) % 65536)) ++
  (List.range 33).map (fun k => Row.rws (LIN.Y k) (if k = 32 then 65535 else 2048 * k)) ++
  [Row.ro RESULT_CNT.COUNT 0,
   Row.ro CLAMP_CNT.COUNT 0,
   Row.ro IMPCHK_CNT.COUNT 0,
   Row.ro FAULT_CNT.COUNT 0]
end SFE

/-! ### PCI page (14_host_and_management_ports.md; R330) -/
namespace PCI
def STS.LINK_UP : Fld := ⟨0x14, 0, 1⟩
def STS.SPEED : Fld := ⟨0x14, 1, 3⟩
def STS.WIDTH : Fld := ⟨0x14, 4, 4⟩
def IST.LINK_DOWN : Fld := ⟨0x18, 0, 1⟩
def IST.BAR2_DEGR : Fld := ⟨0x18, 1, 1⟩
def IST.BAR2_UE : Fld := ⟨0x18, 2, 1⟩
def ID.VENDOR : Fld := ⟨0x40, 0, 16⟩
def ID.DEVICE : Fld := ⟨0x40, 16, 16⟩
def VFS.NUMVF : Fld := ⟨0x44, 0, 4⟩
def VFS.VF_EN : Fld := ⟨0x44, 4, 1⟩
def VFS.ARI : Fld := ⟨0x44, 5, 1⟩
def BAR2_WIN.BASE : Fld := ⟨0x48, 0, 8⟩
def BAR2_MARK.ADDR : Fld := ⟨0x4C, 0, 40⟩
def BAR2_MARK_HI.VALID : Fld := ⟨0x50, 31, 1⟩
def LINK_CAP.MAX_SPEED : Fld := ⟨0x400, 0, 3⟩
def LINK_CAP.RETRAIN : Fld := ⟨0x400, 8, 1⟩
def PF_VECMAP.CLASS (k : Nat) : Fld := ⟨0x54 + 4 * (k / 8), 4 * (k % 8), 4⟩
def BADACC_CNT.COUNT : Fld := ⟨0xE00, 0, 32⟩
def BAR2_OOR_CNT.COUNT : Fld := ⟨0xE04, 0, 32⟩
def AER_CE_CNT.COUNT : Fld := ⟨0xE08, 0, 32⟩
def AER_UE_CNT.COUNT : Fld := ⟨0xE0C, 0, 32⟩
/-- The rows of the page: each field with its access, reset value and range (R330). -/
def rows : List Row :=
  [Row.ro STS.LINK_UP 0,
   Row.ro STS.SPEED 0,
   Row.ro STS.WIDTH 0,
   Row.w1c IST.LINK_DOWN,
   Row.w1c IST.BAR2_DEGR,
   Row.w1c IST.BAR2_UE,
   Row.ro ID.VENDOR 0,
   Row.ro ID.DEVICE 0,
   Row.ro VFS.NUMVF 0,
   Row.ro VFS.VF_EN 0,
   Row.ro VFS.ARI 0,
   Row.rw BAR2_WIN.BASE 0,
   Row.ro BAR2_MARK.ADDR 0,
   Row.rw BAR2_MARK_HI.VALID 0,
   (Row.rwl LINK_CAP.MAX_SPEED 5).rng 1 5,
   Row.wo LINK_CAP.RETRAIN] ++
  (List.range 16).map (fun k => Row.rw (PF_VECMAP.CLASS k) k) ++
  [Row.ro BADACC_CNT.COUNT 0,
   Row.ro BAR2_OOR_CNT.COUNT 0,
   Row.ro AER_CE_CNT.COUNT 0,
   Row.ro AER_UE_CNT.COUNT 0]
end PCI

/-! ### DMA page (14_host_and_management_ports.md; R331) -/
namespace DMA
def STS.HALTED : Fld := ⟨0x14, 0, 16⟩
def IST.HOSTERR : Fld := ⟨0x18, 0, 1⟩
def RATE.TO_HOST : Fld := ⟨0x40, 0, 16⟩
def RATE.FROM_HOST : Fld := ⟨0x40, 16, 16⟩
def CPL_TMO_CNT.COUNT : Fld := ⟨0xE00, 0, 32⟩
def HOSTERR_CNT.COUNT : Fld := ⟨0xE04, 0, 32⟩
/-- The rows of the page: each field with its access, reset value and range (R331). -/
def rows : List Row :=
  [Row.ro STS.HALTED 0,
   Row.w1c IST.HOSTERR,
   Row.ro RATE.TO_HOST 0,
   Row.ro RATE.FROM_HOST 0,
   Row.ro CPL_TMO_CNT.COUNT 0,
   Row.ro HOSTERR_CNT.COUNT 0]
end DMA

/-! ### DMQ page (14_host_and_management_ports.md; R332) -/
namespace DMQ
def STS.RUN : Fld := ⟨0x14, 0, 1⟩
def STS.HALTED : Fld := ⟨0x14, 1, 1⟩
def STS.BOUND : Fld := ⟨0x14, 2, 1⟩
def IST.DONE : Fld := ⟨0x18, 0, 1⟩
def IST.HALT : Fld := ⟨0x18, 1, 1⟩
def IST.ABORTED : Fld := ⟨0x18, 2, 1⟩
def BASE.ADDR : Fld := ⟨0x40, 6, 58⟩
def SIZE.LOG2 : Fld := ⟨0x48, 0, 5⟩
def TAIL.IDX : Fld := ⟨0x4C, 0, 16⟩
def HEAD.IDX : Fld := ⟨0x50, 0, 16⟩
def COAL.N : Fld := ⟨0x54, 0, 8⟩
def COAL.US : Fld := ⟨0x54, 8, 16⟩
def DESC_CNT.COUNT : Fld := ⟨0xE00, 0, 32⟩
def BYTES_CNT.KIB : Fld := ⟨0xE04, 0, 32⟩
def ABORT_CNT.COUNT : Fld := ⟨0xE08, 0, 32⟩
def RANGE_CNT.COUNT : Fld := ⟨0xE0C, 0, 32⟩
/-- The rows of the page: each field with its access, reset value and range (R332). -/
def rows : List Row :=
  [Row.ro STS.RUN 0,
   Row.ro STS.HALTED 0,
   Row.ro STS.BOUND 0,
   Row.w1c IST.DONE,
   Row.w1c IST.HALT,
   Row.w1c IST.ABORTED,
   Row.rw BASE.ADDR 0,
   (Row.rw SIZE.LOG2 4).rng 4 16,
   Row.rw TAIL.IDX 0,
   Row.ro HEAD.IDX 0,
   Row.rw COAL.N 0,
   Row.rw COAL.US 0,
   Row.ro DESC_CNT.COUNT 0,
   Row.ro BYTES_CNT.KIB 0,
   Row.ro ABORT_CNT.COUNT 0,
   Row.ro RANGE_CNT.COUNT 0]
end DMQ

/-! ### SPI page (14_host_and_management_ports.md; R327, R333) -/
namespace SPI
def STS.PRELOCK : Fld := ⟨0x14, 0, 1⟩
def STS.ALERT : Fld := ⟨0x14, 1, 1⟩
def ALERT_STS.SRC : Fld := ⟨0x40, 0, 8⟩
def ALERT_EN.SRC : Fld := ⟨0x44, 0, 8⟩
def CFG.SEV : Fld := ⟨0x48, 0, 2⟩
def CMD.CLOG_CLR : Fld := ⟨0x4C, 0, 1⟩
def CLOG_PTR.NEXT : Fld := ⟨0x50, 0, 4⟩
def CRC_ERR_CNT.COUNT : Fld := ⟨0xE00, 0, 32⟩
def FRAME_ERR_CNT.COUNT : Fld := ⟨0xE04, 0, 32⟩
def CONFLICT_CNT.COUNT : Fld := ⟨0xE08, 0, 32⟩
def CLOG_LOST.COUNT : Fld := ⟨0xE0C, 0, 16⟩
def CLOG.TIME (i : Nat) : Fld := ⟨0x100 + 0x10 * i, 0, 32⟩
def CLOG.ADDR (i : Nat) : Fld := ⟨0x104 + 0x10 * i, 0, 32⟩
def CLOG.INFO (i : Nat) : Fld := ⟨0x108 + 0x10 * i, 0, 32⟩
/-- The rows of the page: each field with its access, reset value and range (R327, R333). -/
def rows : List Row :=
  [Row.ro STS.PRELOCK 1,
   Row.ro STS.ALERT 0,
   Row.w1c ALERT_STS.SRC,
   Row.rw ALERT_EN.SRC 255,
   Row.rw CFG.SEV 1,
   Row.wo CMD.CLOG_CLR,
   Row.ro CLOG_PTR.NEXT 0,
   Row.ro CRC_ERR_CNT.COUNT 0,
   Row.ro FRAME_ERR_CNT.COUNT 0,
   Row.ro CONFLICT_CNT.COUNT 0,
   Row.ro CLOG_LOST.COUNT 0] ++
  (List.range 16).map (fun i => Row.ro (CLOG.TIME i) 0) ++
  (List.range 16).map (fun i => Row.ro (CLOG.ADDR i) 0) ++
  (List.range 16).map (fun i => Row.ro (CLOG.INFO i) 0)
end SPI

/-! ### MLN0 page (16_miolan_link.md; R381) -/
namespace MLN0
def STS.FRAMED : Fld := ⟨0x14, 0, 1⟩
def STS.POSITIONED : Fld := ⟨0x14, 1, 1⟩
def STS.ALIGNED : Fld := ⟨0x14, 2, 1⟩
def IST.TRIG : Fld := ⟨0x18, 0, 1⟩
def IST.ALIGNED : Fld := ⟨0x18, 1, 1⟩
def IST.LOST : Fld := ⟨0x18, 2, 1⟩
def CFG.ROLE : Fld := ⟨0x40, 0, 2⟩
def POS.POS : Fld := ⟨0x44, 0, 3⟩
def POS.N : Fld := ⟨0x44, 4, 4⟩
def RING.T64 : Fld := ⟨0x48, 0, 20⟩
def PHASE.T64 : Fld := ⟨0x4C, 0, 7⟩
def TRIM.T64 : Fld := ⟨0x50, 0, 16⟩
def ARMMAP.ACQ (j : Nat) : Fld := ⟨0x54 + 4 * (j / 4), 8 * (j % 4), 8⟩
def RX_TRIG0.TRG : Fld := ⟨0x60, 0, 3⟩
def RX_TRIG0.SRC : Fld := ⟨0x60, 8, 3⟩
def RX_TRIG0.TAG : Fld := ⟨0x60, 16, 8⟩
def RX_TRIG1.TB96 : Fld := ⟨0x64, 0, 64⟩
def CRC_ERR_CNT.COUNT : Fld := ⟨0xE00, 0, 32⟩
def UNK_CNT.COUNT : Fld := ⟨0xE04, 0, 32⟩
def RX_DROP_CNT.COUNT : Fld := ⟨0xE08, 0, 32⟩
def REFRAME_CNT.COUNT : Fld := ⟨0xE0C, 0, 32⟩
/-- The rows of the page: each field with its access, reset value and range (R381). -/
def rows : List Row :=
  [Row.ro STS.FRAMED 0,
   Row.ro STS.POSITIONED 0,
   Row.ro STS.ALIGNED 0,
   Row.w1c IST.TRIG,
   Row.w1c IST.ALIGNED,
   Row.w1c IST.LOST,
   (Row.rws CFG.ROLE 0).rng 0 2,
   Row.ro POS.POS 0,
   Row.ro POS.N 0,
   Row.ro RING.T64 0,
   Row.ro PHASE.T64 0,
   Row.rws TRIM.T64 0] ++
  (List.range 8).map (fun j => Row.rws (ARMMAP.ACQ j) 0) ++
  [Row.ro RX_TRIG0.TRG 0,
   Row.ro RX_TRIG0.SRC 0,
   Row.ro RX_TRIG0.TAG 0,
   Row.ro RX_TRIG1.TB96 0,
   Row.ro CRC_ERR_CNT.COUNT 0,
   Row.ro UNK_CNT.COUNT 0,
   Row.ro RX_DROP_CNT.COUNT 0,
   Row.ro REFRAME_CNT.COUNT 0]
end MLN0

/-! ### MLN1 page (16_miolan_link.md; R381) -/
namespace MLN1
def CRC_ERR_CNT.COUNT : Fld := ⟨0xE00, 0, 32⟩
def UNK_CNT.COUNT : Fld := ⟨0xE04, 0, 32⟩
def TRIG_DROP_CNT.COUNT : Fld := ⟨0xE08, 0, 32⟩
def REFRAME_CNT.COUNT : Fld := ⟨0xE0C, 0, 32⟩
def STS.ARM_WAIT : Fld := ⟨0x14, 0, 1⟩
def STS.QFULL : Fld := ⟨0x14, 1, 1⟩
def IST.ACKS : Fld := ⟨0x18, 0, 1⟩
def TRGMASK.TRG : Fld := ⟨0x40, 0, 8⟩
def ARM0.GROUPS : Fld := ⟨0x44, 0, 8⟩
def ARM0.SEC : Fld := ⟨0x44, 8, 8⟩
def ARM1.NS : Fld := ⟨0x48, 0, 30⟩
def ACK.CODE (p : Nat) : Fld := ⟨0x4C, 4 * p, 4⟩
/-- The rows of the page: each field with its access, reset value and range (R381). -/
def rows : List Row :=
  [Row.ro CRC_ERR_CNT.COUNT 0,
   Row.ro UNK_CNT.COUNT 0,
   Row.ro TRIG_DROP_CNT.COUNT 0,
   Row.ro REFRAME_CNT.COUNT 0,
   Row.ro STS.ARM_WAIT 0,
   Row.ro STS.QFULL 0,
   Row.w1c IST.ACKS,
   Row.rws TRGMASK.TRG 0,
   Row.wo ARM0.GROUPS,
   Row.wo ARM0.SEC,
   Row.wo ARM1.NS] ++
  (List.range 8).map (fun p => Row.ro (ACK.CODE p) 15)
end MLN1

/-! ### DBG page (15_keys_time_usage.md; R339) -/
namespace DBG
def TRACE_SEL.INDEX : Fld := ⟨0x40, 0, 16⟩
def TRACE_CTL.FREEZE : Fld := ⟨0x44, 0, 1⟩
def TRACE_CTL.RESTART : Fld := ⟨0x44, 1, 1⟩
/-- The rows of the page: each field with its access, reset value and range (R339). -/
def rows : List Row :=
  [Row.rw TRACE_SEL.INDEX 0,
   Row.rw TRACE_CTL.FREEZE 0,
   Row.wo TRACE_CTL.RESTART]
end DBG

/-- The kinds of register page (R30). -/
inductive Kind where
  | eng | bud | clk | flt | rst | tim | usage | key | prt | cnv | arr | cal | fch | rom | trg | acq | his | dmc | dmx | mcv | wcp | evr | xpt | sfe | pci | dma | dmq | spi | mln0 | mln1 | dbg | none
  deriving DecidableEq, Repr

/-- The page map of R30: page number to kind; numbers absent from the map are unimplemented. -/
def kindOf (p : Nat) : Kind :=
  if p = 0x00 then .eng else if p = 0x01 then .bud else if p = 0x02 then .clk else if p = 0x03 then .flt
  else if p = 0x04 then .rst else if p = 0x05 then .tim else if p = 0x06 then .usage else if p = 0x07 then .key
  else if p = 0x08 then .prt else if 0x10 ≤ p ∧ p ≤ 0x13 then .cnv else if p = 0x14 then .arr
  else if 0x18 ≤ p ∧ p ≤ 0x1B then .cal else if 0x20 ≤ p ∧ p ≤ 0x27 then .fch else if p = 0x28 then .rom
  else if 0x30 ≤ p ∧ p ≤ 0x37 then .trg else if 0x40 ≤ p ∧ p ≤ 0x47 then .acq else if 0x48 ≤ p ∧ p ≤ 0x4F then .his
  else if 0x60 ≤ p ∧ p ≤ 0x67 then .dmc else if p = 0x68 then .dmx else if p = 0x70 then .mcv
  else if p = 0x71 then .wcp else if p = 0x72 then .evr else if p = 0x78 then .xpt
  else if 0x79 ≤ p ∧ p ≤ 0x7C then .sfe else if p = 0x80 then .pci else if p = 0x81 then .dma
  else if 0x88 ≤ p ∧ p ≤ 0x97 then .dmq else if p = 0xA0 then .spi else if p = 0xB0 then .mln0
  else if p = 0xB1 then .mln1 else if p = 0xF0 then .dbg else .none

/-- The fields of a kind of page, below the common header. -/
def Kind.rows : Kind → List Row
  | .eng => ENG.rows
  | .bud => BUD.rows
  | .clk => CLK.rows
  | .flt => FLT.rows
  | .rst => RST.rows
  | .tim => TIM.rows
  | .usage => USE.rows
  | .key => KEY.rows
  | .prt => PRT.rows
  | .cnv => CNV.rows
  | .arr => ARR.rows
  | .cal => CAL.rows
  | .fch => FCH.rows
  | .rom => FROM.rows
  | .trg => TRG.rows
  | .acq => ACQ.rows
  | .his => HIS.rows
  | .dmc => DMC.rows
  | .dmx => DMX.rows
  | .mcv => MCV.rows
  | .wcp => WCP.rows
  | .evr => EVR.rows
  | .xpt => XPT.rows
  | .sfe => SFE.rows
  | .pci => PCI.rows
  | .dma => DMA.rows
  | .dmq => DMQ.rows
  | .spi => SPI.rows
  | .mln0 => MLN0.rows
  | .mln1 => MLN1.rows
  | .dbg => DBG.rows
  | .none => []

/-- Every field of a kind of page: the common header (R33), then the page's own. -/
def Kind.allRows : Kind → List Row
  | .none => []
  | k => HDR.rows ++ k.rows

/-- The reset value of a field of a page: the value its table states, 0 where the page has no such field. The page
may carry a view above its eight low bits. -/
def resetVal (p : Nat) (f : Fld) : Nat :=
  match (kindOf (p % 256)).allRows.find? (fun r => r.f.off == f.off && r.f.lo == f.lo) with
  | some r => r.reset
  | none => 0

/-- Words a field spans (R38). -/
def Fld.words (f : Fld) : Nat := (f.lo + f.w + 31) / 32

/-- The rows that have a part in the word at `off`. -/
def rowsAt (k : Kind) (off : Nat) : List Row :=
  k.allRows.filter fun r => r.f.off ≤ off && off < r.f.off + 4 * r.f.words

end Sys2Proof.Machine
end

