-- ==== Sys2Proof/Machine/Block.lean ====
section
/-! DEFINITION. The engine's own state beside its queue and its DRAM: the register store, and the FIFOs, buffers,
counters and sequencers that the spec gives the blocks and that no register shows whole. All of it is plain data. -/
namespace Sys2Proof.Machine

/-- A sparse table of numbers: keys strictly rising, no entry equal to what an unlisted key reads as. -/
abbrev Store := List (Nat × Nat)

/-- A sample or stored word with its VALID bit (R9, R150, R178). -/
structure Smp where
  v : Int
  ok : Bool
  deriving DecidableEq, Repr, Inhabited

/-- An OTP key slot (R337): key bytes, class mask (bit 0 PART, 1 USAGE, 2 XPORT, 3 ADMIN) and state
(0 BLANK, 1 ACTIVE, 2 REVOKED, 3 BAD). -/
structure KeySlot where
  key : List (BitVec 8)
  mask : Nat
  st : Nat
  deriving DecidableEq, Repr, Inhabited

/-- What the die's fuses, the strap balls and the fitted DRAM fix (R1, R18, R220, R221, R337): data of the board, not of a
run. `dens` and `ranks2` are the smallest found on every channel; `mixed`: the channels or ranks differ. -/
structure Dev where
  ly6440 : Bool
  refsel : Nat
  dpop : Nat
  dens : Nat
  ranks2 : Bool
  rfm : Bool
  mixed : Bool
  devid : Nat
  deriving DecidableEq, Repr, Inhabited

/-- A converter channel's running state: enable granted and not yet up (R111), samples delivered, the latest word
(first sample index, time, length, VALID), the clip window of R115, the words that the running VALID = 0 span still takes (R109),
and the corrected samples before the next word, newest first, that the bandwidth limit reads (R103). -/
structure CnvRt where
  upWait : Bool
  idx : Nat
  wIdx : Nat
  wTb : Nat
  spw : Nat
  wOk : Bool
  clipN : Nat
  clipT : Nat
  left : Nat
  past : List Int
  deriving DecidableEq, Repr, Inhabited

/-- A calibration loop (R123-R125): blocks below threshold, CONVERGED, STARVED, starved time and whether the starve
limit was raised in this run of starvation. -/
structure LoopRt where
  conv : Nat
  ok : Bool
  starved : Bool
  starveT : Nat
  limited : Bool
  deriving DecidableEq, Repr, Inhabited

/-- A block's result between its end and cycle 16 of the next block (R120): new corrections per loop and core, whether one was
clamped, the spur bound in quarter dB, the loops, the detectors that fired with the guard point of the strongest hit, and
whether a loop not yet CONVERGED takes an update. -/
structure CalPend where
  cores : List (List Int)
  range : Bool
  spur : Int
  loops : List LoopRt
  det : Nat
  k : Nat
  took : Bool
  deriving DecidableEq, Repr, Inhabited

/-- A channel's calibration: the four loops, whether the block holds an invalid word, the pending result, the warm-up snapshot
(R129), CAL_TMO time, and the declared-level tracer (R135-R136). -/
structure CalRt where
  loops : List LoopRt
  dirty : Bool
  pend : Option CalPend
  snap : List (List Int)
  powered : Bool
  warming : Bool
  tmoT : Nat
  bins : Store
  binN : Nat
  cyc : Nat
  good : Nat
  lost : Nat
  locked : Bool
  deriving DecidableEq, Repr, Inhabited

/-- A filter chain (indices are absolute channel samples): whether its grid runs, flush cycles still to come and one more while a
grid waits to start (0: none waits), grid start, next Schuss value, next output, the samples kept from index `base`, the
coefficient RAM, the first sample a Schuss window may use, the detectors' windows, the times of the saturated outputs of the
last millisecond, newest first, and the levels of the sources PKHI, PKLO, RMSHI, ENVHI (bits 0-3) as the last output left them
(R149-R155). -/
structure FchRt where
  run : Bool
  flush : Nat
  i0 : Nat
  sN : Nat
  k : Nat
  base : Nat
  hist : List Smp
  coef : Store
  schussCut : Nat
  pkN : Nat
  pkExt : Option (Int × Int)
  rms : List Int
  env : List Int
  sat : List Nat
  lev : Nat
  deriving DecidableEq, Repr, Inhabited

/-- A video sync separator (R164). -/
structure SyncRt where
  lock : Bool
  armed : Bool
  low : Nat
  inLow : Bool
  since : Nat
  good : Nat
  miss : Nat
  line : Nat
  field : Nat
  plain : Nat
  broad : Bool
  start : Bool
  fstart : Bool
  deriving DecidableEq, Repr, Inhabited

/-- One evaluator of a sequencer (R161-R163): gate, counter, timer, what is armed, the pulse in progress, the words of the previous
value (for a rising and for a falling test) and its event level. -/
structure EvRt where
  gate : Nat
  cnt : Nat
  tmr : Nat
  armR : Bool
  armF : Bool
  pulse : Option Nat
  prev : Option (Int × Int)
  evPrev : Bool
  sync : SyncRt
  deriving DecidableEq, Repr, Inhabited

/-- A completion of the sequence by an evaluator: time in 1/256 channel samples (absolute), fraction, gate, whether it
was interpolated and forced. -/
structure Comp where
  t256 : Int
  frac : Nat
  gate : Nat
  nointerp : Bool
  forced : Bool
  deriving DecidableEq, Repr, Inhabited

/-- A trigger sequencer: both evaluators, the tag, the sample at which both enter gate 0, a completion of the lead that
waits for its TENT, the unresolved TENT, the check's completion, an invalid output in its window, holdoff, and the orders
and holds that wait (R165-R175); whether the check has still to take its first output in gate 0, and the time of its latest
invalid output, in 1/256 samples. -/
structure TrgRt where
  lead : EvRt
  check : EvRt
  tag : Nat
  armAt : Nat
  due : Option Comp
  tent : Option Comp
  tentTag : Nat
  comp : Option Comp
  inval : Bool
  abort : Bool
  hold : Bool
  holdRef : Int
  holdLeft : Nat
  force : Bool
  rearm : Bool
  held : Bool
  fault : Bool
  start : Bool
  lastBad : Option Int
  deriving DecidableEq, Repr, Inhabited

/-- What a CONF carries (R169, R170). -/
structure Conf where
  trg : Nat
  tag : Nat
  tb : Nat
  t256 : Int
  frac : Nat
  gdref : Bool
  nointerp : Bool
  forced : Bool
  deriving DecidableEq, Repr, Inhabited

/-- A segment (R183): slot, number, window (absolute stored index and length), samples written, its confirmed trigger
and the marks of its header (R189). -/
structure Seg where
  slot : Nat
  seq : Nat
  trg : Nat
  start : Nat
  len : Nat
  tag : Nat
  data : List Smp
  conf : Option Conf
  preAct : Nat
  early : Bool
  ovf : Bool
  trunc : Bool
  memf : Bool
  runout : Bool
  outSlot : Option Nat
  calstv : Bool
  calq : Nat
  pgen : Nat
  mpos : Int
  mposOk : Bool
  gdref : Bool
  missedD : Nat
  earlyD : Nat
  deriving DecidableEq, Repr, Inhabited

/-- Why a TENT opened no segment (R183, R185, R186, R286): the unit had one open or was re-arming, only its pretrigger was
short, or its outrun region has no slot left. -/
inductive NoSeg where
  | busy
  | short
  | full
  deriving DecidableEq, Repr, Inhabited

/-- A stream block (R192, R193): number, samples, marks, time of its first sample. -/
structure Blk where
  bseq : Nat
  data : List Smp
  tfirst : Nat
  calq : Nat
  pgen : Nat
  ovf : Bool
  gdref : Bool
  trunc : Bool
  deriving DecidableEq, Repr, Inhabited

/-- An acquisition unit: stored samples (the newest, ending at index `n` - 1), the time of the latest stored sample (or
pair) and its step in 1/256 channel samples, the first index a segment may use, the open segment, segments closed and
not yet written, bytes of them already in DRAM, a TENT it did not take (tag, and why), the stream, the end that is ordered
(its END code), overflow, re-arming, held for a group, the stored index at which POST of a STOP zone has passed and the CKC
cycle in which it took effect (R210), mask actions taken (unit, zone), and the next outrun slot. -/
structure AcqRt where
  ring : List Smp
  n : Nat
  tLast : Int
  tStep : Nat
  avail : Nat
  seg : Option Seg
  done : List Seg
  drained : Nat
  seq : Nat
  heldTag : Option (Nat × NoSeg)
  missedD : Nat
  earlyD : Nat
  cur : Option Blk
  blks : List Blk
  bseq : Nat
  ending : Nat
  overrun : Bool
  rearm : Bool
  held : Bool
  post : Option Nat
  postAt : Option Nat
  actDone : List (Nat × Nat)
  outSlot : Nat
  deriving DecidableEq, Repr, Inhabited

/-- A triggered record of an accumulation unit (R198): first stored index of its window, length, words taken so far,
the words kept for a fold of the whole record, confirmed time, and whether it met an invalid word. -/
structure Rec where
  start : Int
  len : Nat
  got : Nat
  words : List Smp
  t : Nat
  inval : Bool
  deriving DecidableEq, Repr, Inhabited

/-- The eye phase tracker (R200): phase and period in 2^-48 of a stored word, previous word, which of two UI,
transitions and the sum of squared phase errors in the window. -/
structure EyeRt where
  phase : Int
  per : Int
  prev : Option Int
  odd : Bool
  trans : Nat
  sq : Nat
  deriving DecidableEq, Repr, Inhabited

/-- An accumulation unit: bins or points, and whether those of its DRAM image are still to be fetched (KEEP = 1); the open
record, the one that folds, and the stored index after the last record's window; the eye tracker; words of the run; updates
queued, for AVG and ENV those of the record that folds; LFSR; mask stores (bitmaps compiled by MLOAD, those in force, and those
that a running load has read, with the column it fails on), and the marks of its summary (R196-R211). -/
structure HisRt where
  on : Bool
  load : Bool
  bins : Store
  mx : Store
  cur : Option Rec
  fold : Option Rec
  recEnd : Int
  eye : EyeRt
  words : Nat
  recW : Nat
  queue : Nat
  lfsr : Nat
  shad : List (List (BitVec 8))
  live : List (List (BitVec 8))
  loading : Bool
  image : List (List (BitVec 8))
  badCol : Option (Nat × Nat)
  snapping : Bool
  clear : Bool
  complete : Bool
  partialEnd : Bool
  fCal : Bool
  fGd : Bool
  fInv : Bool
  calqMin : Nat
  tLast : Nat
  deriving DecidableEq, Repr, Inhabited

/-- A queued DRAM request (R225): requester (0-7 partition, 8 supervisor), class, write, bank (rank in bit 4, bank group in bits
3:2, bank in bits 1:0) and row, the CK cycle of its arrival, whether a drain issued it, and what did. -/
structure DReq where
  who : Nat
  cls : Nat
  wr : Bool
  bank : Nat
  row : Nat
  t : Nat
  drain : Bool
  src : Traffic
  deriving DecidableEq, Repr, Inhabited

/-- A tracker entry of the snowplough (R232): row, count, candidate requester (function * 4 + class), weight, and whether
its count has led to a throttle. -/
structure Track where
  row : Nat
  cnt : Nat
  cand : Nat
  wt : Nat
  hit : Bool
  deriving DecidableEq, Repr, Inhabited

/-- A throttled requester on a bank (R233): its delay in us, next doubling count, last activation. -/
structure Thr where
  bank : Nat
  row : Nat
  who : Nat
  d : Nat
  dbl : Nat
  other : Bool
  last : Nat
  deriving DecidableEq, Repr, Inhabited

/-- A DRAM channel: its request queue, open rows, predictor counters and CK cycle of the last access per bank, RAA counts, trackers
and throttles, round-robin deficits, run length, refreshes postponed and pulled in per bank, when the training under way began, and the times of link-ECC corrections in the last
millisecond, newest first. -/
structure DmcRt where
  queue : List DReq
  rows : Store
  pred : Store
  used : Store
  raa : Store
  track : List (Nat × Track)
  thr : List Thr
  wide : List Nat
  deficit : Store
  rr : List Nat
  run : Nat
  runWr : Bool
  owed : Store
  ahead : Store
  trainT : Nat
  lecc : List Nat
  deriving DecidableEq, Repr, Inhabited

/-- A conversion of the monitor converter: input, length code, source (0 cross-check, 1 comparator self-check, 2 reference
check, 3 host, 4 manager, 5 scan) and the scan entry or comparator it serves (R251, R254). -/
structure Conv where
  input : Nat
  code : Nat
  src : Nat
  tag : Nat
  deriving DecidableEq, Repr, Inhabited

/-- An accumulator bank of one input (R252). -/
structure Acc1 where
  sum : Int
  cnt : Nat
  mn : Int
  mx : Int
  full : Bool
  deriving DecidableEq, Repr, Inhabited

/-- The monitor converter: what runs, what waits, abort counts per scan entry, the next entry, and both banks of each
input (host at input, manager at 40 + input), cross-check and self-check readings so far. -/
structure McvRt where
  run : Option Conv
  redo : Option Conv
  wait : List Conv
  next : Nat
  aborts : Store
  acc : List (Nat × Acc1)
  xchk : Option Int
  dac : Option Int
  deriving DecidableEq, Repr, Inhabited

/-- A window comparator channel: the input voltage (a pin, nV), both outputs, filter history newest first, samples taken
towards VALID, a self-check placed, and one that a threshold commit owes (R257-R262). -/
structure WcpRt where
  vd : Int
  up : Bool
  dn : Bool
  hist : List Nat
  cnt : Nat
  checking : Bool
  due : Bool
  deriving DecidableEq, Repr, Inhabited

/-- The event router (the levels of the EVIO balls are in EVIO_IN): destinations that are 1 in this CKC cycle, with those of the two
cycles before (R267), pulses and FORCE bits of this cycle (they show in the next, R265), and tentative presentations that still owe their resolution, as (destination, sequencer) (R266); and what the
destinations were, newest first, each time with the sample of every channel at which it reached the sequencers (R158, R162). -/
structure EvrRt where
  dst : List Nat
  drive : List (List Nat)
  pulse : List Nat
  force : List Nat
  owed : List (Nat × Nat)
  log : List (List Nat × List Nat)
  deriving DecidableEq, Repr, Inhabited

/-- The transport port: input levels after filtering, velocity history (POS-counted motion per ms, newest first), the
running outrun (start time, edges, slow updates), orders that wait for its end (R287: kind 0 disable, 1 revoke, 2 reset
of a page in a partition reset, 3 block reset), and POS history of the last 64 CKC edges. -/
structure XptRt where
  pos : Int
  motion : Int
  msHist : List Int
  a : Bool
  b : Bool
  idx : Bool
  ctl : Bool
  hist : List Int
  tStart : Nat
  edges : Nat
  slow : Nat
  deferred : List (Nat × Nat)
  qerr : List Nat
  evrPrev : Bool
  deriving DecidableEq, Repr, Inhabited

/-- A sensor front end: the running period gives no result, an impedance check is due or runs, the fault bits (1 impedance,
2 guard, 4 excitation), and the level source SFEnT (R295, R298, R299). -/
structure SfeRt where
  skip : Bool
  due : Bool
  chk : Bool
  faults : Nat
  th : Bool
  deriving DecidableEq, Repr, Inhabited

/-- A completion of a descriptor that is still to be sent (R313, R316): status, CFLAGS, bytes, header, and its IRQ flag. -/
structure Cpl where
  status : Nat
  cflags : Nat
  done : Nat
  hdr : List (BitVec 8)
  irq : Bool
  deriving DecidableEq, Repr, Inhabited

/-- A DMA ring: completions with IRQ since the last message, halted until EN falls and rises, the descriptor that is done
and not yet completed, and bytes moved beyond the KiB that BYTES_CNT shows. -/
structure DmqRt where
  irqN : Nat
  halt : Bool
  cur : Option Cpl
  bytes : Nat
  deriving DecidableEq, Repr, Inhabited

/-- The DMA arbiter (R317): bytes of deficit per direction and function (16 × direction + function), the function served last
towards the host and from it, the ring that each function's turn starts from, and the transfers of the last millisecond (time,
bytes, from the host), newest first (R331). -/
structure DmaRt where
  deficit : Store
  ptrH : Nat
  ptrF : Nat
  turn : Store
  moved : List (Nat × Nat × Bool)
  deriving DecidableEq, Repr, Inhabited

/-- A fault record (R384); `st`: 0 FREE, 1 RAISED, 2 ACKNOWLEDGED, 3 CLEARED. -/
structure FltRec where
  tRaise : Nat
  page : Nat
  index : Nat
  sev : Nat
  st : Nat
  part : Nat
  seq : Nat
  reps : Nat
  detail : Nat
  tLast : Nat
  deriving DecidableEq, Repr, Inhabited

/-- Why a partition drains (R72): a revoked page, a revoked comparator channel or destination, a cleared tap (channel),
a partition reset, or a block reset of a page. -/
inductive DrainWhy where
  | revoke (page : Nat)
  | wcp (n : Nat)
  | evr (d : Nat)
  | tap (ch : Nat)
  | reset
  | blk (page : Nat)
  deriving DecidableEq, Repr, Inhabited

/-- One drain under way: the partition (8: the supervisor's own unit under a block reset) and why. -/
structure Drain where
  part : Nat
  why : DrainWhy
  deriving DecidableEq, Repr, Inhabited

/-- An AVSBus transaction that the engine uses (R90): Voltage Write with commit of a target in mV, and three reads. -/
inductive AvsCmd where
  | voltageWrite (mv : Nat)
  | voltageRead
  | statusRead
  | currentRead
  deriving DecidableEq, Repr, Inhabited

/-- A message that leaves the engine: an MSI-X message of a function's vector (R310), an AVSBus transaction to a rail
(R90), a DMA completion of a ring (status, flags, bytes) with its block header (R313), or a Miolan frame (R369). -/
inductive Msg where
  | msix (fn vec : Nat)
  | avs (rail : Nat) (cmd : AvsCmd)
  | comp (ring status flags done : Nat) (hdr : List (BitVec 8))
  | frame (f : Nat)
  deriving DecidableEq, Repr, Inhabited

/-- Received trigger of another engine (R379): sequencer, source position, tag, reconstructed TB96. -/
structure RxTrig where
  trg : Nat
  src : Nat
  tag : Nat
  tb : Nat
  deriving DecidableEq, Repr, Inhabited

/-- The Miolan ports: transmit queue (type, body), received trigger FIFO, the last TIME_HI and TIME_RATE, ARMs that wait for
their time (group mask, EXEC), when the ARM that awaits acks was sent, a PROBE under way, CRC failures in a row and in the window, event bits received. -/
structure MlnRt where
  tx : List (Nat × Nat)
  fifo : List RxTrig
  timeHi : Option Nat
  rate : Option Nat
  arms : List (Nat × Nat)
  armT : Nat
  probing : Bool
  failRow : Nat
  crc : List Nat
  evt : Nat
  deriving DecidableEq, Repr, Inhabited

/-- A keyed command that is running (R340): sender (0 host, 1 manager), code, counter, arguments. -/
structure KeyCmd where
  sender : Nat
  cmd : Nat
  ctr : Nat
  arg0 : Nat
  arg1 : Nat
  arg2 : Nat
  deriving DecidableEq, Repr, Inhabited

/-- The key block: OTP slots, the running command, the times of AUTH refusals per sender, who holds DBG open (0 host,
1 manager), the new key of a rotation. -/
structure KeyRt where
  slots : List KeySlot
  run : Option KeyCmd
  newKey : List (BitVec 8)
  authH : List Nat
  authM : List Nat
  dbg : Option Nat
  deriving DecidableEq, Repr, Inhabited

/-- Time base beside TB96: the slew that ALIGN ordered (2^-16 ppm) and the time it still runs, whether a PPS edge came and
the time since (R348). -/
structure TimRt where
  slew : Int
  slewLeft : Nat
  ppsSeen : Bool
  ppsAge : Nat
  deriving DecidableEq, Repr, Inhabited

/-- A sealed usage record (R354): period number, partition, its 64 bytes and whether USE_READ returned it. -/
structure UseRec where
  pnum : Nat
  part : Nat
  bytes : List (BitVec 8)
  read : Bool
  deriving DecidableEq, Repr, Inhabited

/-- The usage meter: accrued amounts at full resolution per partition (M0, M1, M3 in 2^-64 ns; M2 updates; M4 bytes),
the partitions restored (15: the period itself), and the store, oldest first. -/
structure UseRt where
  m0 : Store
  m1 : Store
  m2 : Store
  m3 : Store
  m4 : Store
  restored : List Nat
  recs : List UseRec
  deriving DecidableEq, Repr, Inhabited

/-- Resets under way: the cause code of a running soft reset, of one held by a trip, and of a PERST# reset; pages under block
reset with the owner code whose part is reset (8: all of it); the thermal wait before DRAM initialisation; and a rail below
its POR threshold. -/
structure RstRt where
  soft : Option Nat
  held : Option Nat
  perst : Option Nat
  blk : List (Nat × Nat)
  wait : Bool
  rail : Bool
  deriving DecidableEq, Repr, Inhabited

/-- Thermal and supply state: failed sensors, tripped, the CKH loop frozen, boost held and its target divider, and pages granted with a reclaim, which waits; page + 256 where CTL.EN rose
with it and the block has still to power up (R85, R88, R91-R93). -/
structure BudRt where
  dtsFail : List Nat
  trip : Bool
  frozen : Bool
  boost : Nat
  target : Nat
  powerWait : List Nat
  deriving DecidableEq, Repr, Inhabited

/-! ### The test access port (R423) -/

/-- The states of the controller of IEEE 1149.1. -/
inductive TapSt where
  | reset | idle | selDr | capDr | shDr | ex1Dr | pauDr | ex2Dr | upDr | selIr | capIr | shIr | ex1Ir | pauIr | ex2Ir | upIr
  deriving DecidableEq, Repr, Inhabited

/-- The six instructions, and no other (R423). -/
inductive TapInstr where
  | bypass | idcode | sample | extest | clamp | highz
  deriving DecidableEq, Repr, Inhabited

/-- A cycle of TCK: TMS and TDI at its rising edge, and whether TRST_N and RESET_N are low in it. -/
structure TckCycle where
  tms : Bool
  tdi : Bool
  trst : Bool
  rst : Bool
  deriving DecidableEq, Repr, Inhabited

/-- What drives the balls of the boundary-scan chain. -/
inductive BallDrive where
  | engine | cells | highz
  deriving DecidableEq, Repr, Inhabited

/-- The port: the controller's state, the instruction in force, the instruction and the data register between TDI and TDO (bit
nearest TDO first), the update latch of the boundary cells, TDO (none: high impedance), what drives the balls of the chain, and
the cycles of TCK that wait. -/
structure Tap where
  st : TapSt
  ir : TapInstr
  irSh : List Bool
  drSh : List Bool
  cells : List Bool
  tdo : Option Bool
  drive : BallDrive
  wait : List TckCycle
  deriving DecidableEq, Repr, Inhabited

/-- The answer of the last access to its requester (a model field): error code and data words. -/
structure Resp where
  code : Nat
  data : List Nat
  deriving DecidableEq, Repr, Inhabited

/-- Everything of the engine but its command queue and its DRAM. -/
structure Eng where
  /-- register fields, keyed by `regKey`; an unlisted field holds its reset value -/
  live : Store
  /-- shadows of staged fields that were written (R39) -/
  shad : Store
  /-- latched lower words of a multi-word write, by word (R38) -/
  latch : Store
  /-- captured upper words of a multi-word read, by word (R38) -/
  snap : Store
  /-- tickets held per page on VDD_CORE and VDD_ADC (R86) -/
  tixC : Store
  tixA : Store
  dev : Dev
  /-- fuses loaded (R399) -/
  fused : Bool
  /-- TB96 in units of 2^-64 ns (R345) -/
  tb : Nat
  /-- CKC cycles counted since the start -/
  cyc : Nat
  cnv : Vector CnvRt 4
  cal : Vector CalRt 4
  fch : Vector FchRt 8
  trg : Vector TrgRt 8
  acq : Vector AcqRt 8
  his : Vector HisRt 8
  /-- the tile cache: RS cycles towards its next CKH cycle, and the unit that the next slot goes to (R203) -/
  tileRs : Nat
  tileNext : Nat
  dmc : Vector DmcRt 8
  /-- DRAM share buckets of the partitions (R228), offset by 2^32, and channels waiting to retrain, oldest first -/
  bucket : Store
  retrainQ : List Nat
  mapNext : List Nat
  mapGood : List Nat
  ckT : Nat
  /-- the map's parity failed (R244); the DRAM contents were made unspecified this many times (the model's own field) -/
  mapBad : Bool
  epoch : Nat
  mcv : McvRt
  wcp : Vector WcpRt 8
  evr : EvrRt
  xpt : XptRt
  sfe : Vector SfeRt 4
  dmq : Vector DmqRt 16
  dma : DmaRt
  /-- a write of EN = 0 to the DMA page stopped fetching (R331) -/
  dmaStop : Bool
  /-- times of the request CRC errors of the SPI port in the last second, newest first (R328) -/
  spiErr : List Nat
  mln : MlnRt
  key : KeyRt
  tim : TimRt
  use : UseRt
  tap : Tap
  rst : RstRt
  bud : BudRt
  /-- fault record slots 0-31 (R385) -/
  flt : List FltRec
  drains : List Drain
  /-- bytes that each partition's drain has written (R73) -/
  drainB : Store
  /-- pages of each function's group that have reached their commit point, as (view, page) -/
  grpReady : List (Nat × Nat)
  /-- MSI-X: vectors unmasked and pending, as (function, vector) with function 0 the PF (R310) -/
  unmasked : List (Nat × Nat)
  msiPend : List (Nat × Nat)
  resp : Resp
  sent : List Msg
  /-- free values drawn so far (the model's own field) -/
  freeCtr : Nat
  deriving DecidableEq, Repr

/-- A fresh evaluator at gate 0. -/
def SyncRt.fresh : SyncRt := ⟨false, false, 0, false, 0, 0, 0, 0, 0, 0, false, false, false⟩
def EvRt.fresh : EvRt := ⟨0, 0, 0, false, false, none, none, false, SyncRt.fresh⟩
def TrgRt.fresh : TrgRt :=
  ⟨EvRt.fresh, EvRt.fresh, 0, 0, none, none, 0, none, false, false, false, 0, 0, false, false, false, false, true, none⟩
def LoopRt.fresh : LoopRt := ⟨0, false, false, 0, false⟩
def CalRt.fresh : CalRt :=
  ⟨List.replicate 4 LoopRt.fresh, false, none, [], false, false, 0, [], 0, 0, 0, 0, false⟩
def CnvRt.fresh : CnvRt := ⟨false, 0, 0, 0, 0, false, 0, 0, 0, []⟩
def FchRt.fresh : FchRt := ⟨false, 0, 0, 0, 0, 0, [], [], 0, 0, none, [], [], [], 0⟩
def AcqRt.fresh : AcqRt :=
  ⟨[], 0, 0, 256, 0, none, [], 0, 0, none, 0, 0, none, [], 0, 0, false, false, false, none, none, [], 0⟩
def EyeRt.fresh : EyeRt := ⟨0, 0, none, false, 0, 0⟩
def HisRt.fresh : HisRt :=
  ⟨false, false, [], [], none, none, 0, EyeRt.fresh, 0, 0, 0, 0, [], [], false, [], none, false, false, false, false, false, false,
    false, 255, 0⟩
def DmcRt.fresh : DmcRt := ⟨[], [], [], [], [], [], [], [], [], [], 0, false, [], [], 0, []⟩
def McvRt.fresh : McvRt := ⟨none, none, [], 0, [], [], none, none⟩
def WcpRt.fresh : WcpRt := ⟨0, false, false, [], 0, false, false⟩
def EvrRt.fresh : EvrRt := ⟨[], [], [], [], [], []⟩
def XptRt.fresh : XptRt := ⟨0, 0, [], false, false, false, false, [], 0, 0, 0, [], [], false⟩
def SfeRt.fresh : SfeRt := ⟨true, false, false, 0, false⟩
def DmqRt.fresh : DmqRt := ⟨0, false, none, 0⟩
def DmaRt.fresh : DmaRt := ⟨[], 8, 8, [], []⟩
def MlnRt.fresh : MlnRt := ⟨[], [], none, none, [], 0, false, 0, [], 0⟩
def KeyRt.fresh (sl : List KeySlot) : KeyRt := ⟨sl, none, [], [], [], none⟩
def TimRt.fresh : TimRt := ⟨0, 0, false, 0⟩
def UseRt.fresh : UseRt := ⟨[], [], [], [], [], [], []⟩
def Tap.fresh : Tap := ⟨.reset, .idcode, [], [], [], none, .engine, []⟩
def RstRt.fresh : RstRt := ⟨none, none, none, [], false, false⟩
def BudRt.fresh : BudRt := ⟨[], false, false, 0, 48, []⟩
def FltRec.free : FltRec := ⟨0, 0, 0, 0, 0, 0, 0, 0, 0, 0⟩

/-- The engine right after POR on a given board (R399 step 1): every register at its reset value, no fuse loaded, TB96
at 0 (R363), no record, no partition. -/
def Eng.por (d : Dev) (sl : List KeySlot) : Eng :=
  { live := [], shad := [], latch := [], snap := [], tixC := [], tixA := [], dev := d, fused := false, tb := 0, cyc := 0
    cnv := Vector.replicate 4 CnvRt.fresh, cal := Vector.replicate 4 CalRt.fresh, fch := Vector.replicate 8 FchRt.fresh
    trg := Vector.replicate 8 TrgRt.fresh, acq := Vector.replicate 8 AcqRt.fresh, his := Vector.replicate 8 HisRt.fresh
    tileRs := 0, tileNext := 0
    dmc := Vector.replicate 8 DmcRt.fresh, bucket := [], retrainQ := [], mapNext := [], mapGood := [], ckT := 0, mapBad := false, epoch := 0
    mcv := McvRt.fresh, wcp := Vector.replicate 8 WcpRt.fresh, evr := EvrRt.fresh, xpt := XptRt.fresh
    sfe := Vector.replicate 4 SfeRt.fresh, dmq := Vector.replicate 16 DmqRt.fresh, dma := DmaRt.fresh, dmaStop := false, spiErr := [], mln := MlnRt.fresh
    key := KeyRt.fresh sl, tim := TimRt.fresh, use := UseRt.fresh, tap := Tap.fresh, rst := RstRt.fresh, bud := BudRt.fresh
    flt := List.replicate 32 FltRec.free, drains := [], drainB := [], grpReady := [], unmasked := [], msiPend := []
    resp := ⟨0, []⟩, sent := [], freeCtr := 0 }

end Sys2Proof.Machine
end

