-- ==== Sys2Proof/Machine/State.lean ====
section
/-! DEFINITION. The machine's state: the queue of commands, the external DRAM and the engine; why a step may stop; and the
state right after power-on reset (R392, R399). -/
namespace Sys2Proof.Machine

/-- The contents of DRAM: cells at strictly rising addresses, one for each byte that something has written since the last
initialisation. A byte with no cell holds what the spec calls unspecified (R235, R241): it reads as a free value (log entry 2). -/
abbrev Mem := List Host.Cell

/-- The whole machine. -/
structure State where
  /-- commands that wait, first in, first out -/
  pending : List Instr
  /-- external DRAM by byte address of the DMX map (R222) -/
  mem : Mem
  /-- registers, FIFOs, buffers, counters, sequencers and pins of the engine -/
  eng : Eng
  deriving DecidableEq, Repr

/-- The spec gives every command an effect, a refusal code that the requester sees, or a drop: no command stops the
machine, so no fault exists. -/
inductive Fault where
  deriving DecidableEq, Repr

/-- Why a command has no meaning here. -/
inductive Refusal where
  /-- The dispatch of a command whose meaning is not written: raised by an arm of `exec`, and safe, since nothing follows
  from it. -/
  | notModelled (mnemonic : String)
  deriving DecidableEq, Repr

/-- The board that the state after reset stands on: an LY-6480 with REFSEL 3 (100 MHz), eight DRAM channels of 16 Gb and one
rank, no RFM, device number 0 (log entry 7). -/
def resetDev : Dev :=
  { ly6440 := false, refsel := 3, dpop := 0, dens := 1, ranks2 := false, rfm := false, mixed := false, devid := 0 }

/-- Four BLANK key slots (R337; log entry 7). -/
def resetSlots : List KeySlot := List.replicate 4 ⟨List.replicate 32 0, 0, 0⟩

/-- The machine right after POR: every register at its reset value, nothing queued, DRAM not initialised. -/
def State.reset : State := { pending := [], mem := [], eng := Eng.por resetDev resetSlots }

end Sys2Proof.Machine
end

