-- ==== Sys2Proof/Machine/Ops.lean ====
section
/-! DEFINITION. The shared operations: the sparse tables, register fields, ownership of pages, interrupts and MSI-X
(R310), refusals (R36), time (R345) and the fault queue (R382-R391). -/
namespace Sys2Proof.Machine

/-- The effect of a command that changes the engine and leaves DRAM and the queue alone. -/
def onEng (f : Eng → Eng) (s : State) : Host.Outcome State Fault Refusal := .next { s with eng := f s.eng }

/-- The effect of a command that changes the engine and DRAM and leaves the queue alone. -/
def onBoth (f : Eng → Mem → Eng × Mem) (s : State) : Host.Outcome State Fault Refusal :=
  .next { s with eng := (f s.eng s.mem).1, mem := (f s.eng s.mem).2 }

/-! ### Sparse tables -/

/-- The number under a key; `d` where the key is unlisted. -/
def Store.get (s : Store) (k d : Nat) : Nat :=
  match s.find? (fun e => e.1 == k) with
  | some e => e.2
  | none => d

/-- Insert an entry at its place in the rising order. -/
def Store.ins (k v : Nat) : Store → Store
  | [] => [(k, v)]
  | e :: r => if k < e.1 then (k, v) :: e :: r else e :: Store.ins k v r

/-- Write a number, keeping keys rising and no entry equal to the default `d`. -/
def Store.put (s : Store) (k v d : Nat) : Store :=
  let s' := s.filter fun e => e.1 != k
  if v = d then s' else Store.ins k v s'

/-! ### Register fields -/

/-- The page `p` in the view of function `v` (0-7 partitions, 8 the physical function, 9 the manager). -/
def vw (v p : Nat) : Nat := p + 256 * (v + 1)

/-- The key of a field in the register store. -/
def regKey (p : Nat) (f : Fld) : Nat := (p * 4096 + f.off) * 128 + f.lo

/-- The live value of a field (raw bits). -/
def Eng.get (e : Eng) (p : Nat) (f : Fld) : Nat := Store.get e.live (regKey p f) (resetVal p f)

/-- Set the live value of a field. -/
def Eng.put (e : Eng) (p : Nat) (f : Fld) (v : Nat) : Eng :=
  { e with live := Store.put e.live (regKey p f) (v % 2 ^ f.w) (resetVal p f) }

def Eng.bit (e : Eng) (p : Nat) (f : Fld) : Bool := e.get p f != 0
def Eng.getI (e : Eng) (p : Nat) (f : Fld) : Int := signed f.w (e.get p f)
def Eng.putI (e : Eng) (p : Nat) (f : Fld) (v : Int) : Eng := e.put p f (unsigned f.w v)
def Eng.putB (e : Eng) (p : Nat) (f : Fld) (b : Bool) : Eng := e.put p f b.toNat

/-- Count up, saturating at the field's maximum (R34). -/
def Eng.add (e : Eng) (p : Nat) (f : Fld) (n : Nat) : Eng := e.put p f (min (e.get p f + n) (2 ^ f.w - 1))
def Eng.inc (e : Eng) (p : Nat) (f : Fld) : Eng := e.add p f 1

/-- Count up modulo the field's width (GEN, PGEN, sequence numbers). -/
def Eng.wrap (e : Eng) (p : Nat) (f : Fld) : Eng := e.put p f (e.get p f + 1)

/-- The shadow of a staged field: the last value written to it, else the live value (R39). -/
def Eng.sh (e : Eng) (p : Nat) (f : Fld) : Nat := Store.get e.shad (regKey p f) (e.get p f)
def Eng.shI (e : Eng) (p : Nat) (f : Fld) : Int := signed f.w (e.sh p f)

/-- Set the shadow of a staged field. An entry equal to the live value is not kept: DIRTY is then 0 for it. -/
def Eng.shPut (e : Eng) (p : Nat) (f : Fld) (v : Nat) : Eng :=
  { e with shad := Store.put e.shad (regKey p f) (v % 2 ^ f.w) (e.get p f) }

/-- Every live field and shadow of a page back to its reset value; nothing latched or captured. -/
def Eng.clearPage (e : Eng) (p : Nat) : Eng :=
  let q (s : Store) : Store := s.filter fun x => x.1 / 524288 != p
  { e with live := q e.live, shad := q e.shad, latch := q e.latch, snap := q e.snap }

/-- Keep the values of some fields of a page across a change `g`. -/
def Eng.keeping (e : Eng) (p : Nat) (fs : List Fld) (g : Eng → Eng) : Eng :=
  fs.foldl (fun a f => a.put p f (e.get p f)) (g e)

/-- Fold an operation over the numbers below `n`. -/
def loop (n : Nat) (g : Eng → Nat → Eng) (e : Eng) : Eng := (List.range n).foldl g e

def whenB (b : Bool) (g : Eng → Eng) (e : Eng) : Eng := if b then g e else e

/-! ### Pages -/
namespace Pg
def ENG : Nat := 0x00
def BUD : Nat := 0x01
def CLK : Nat := 0x02
def FLT : Nat := 0x03
def RST : Nat := 0x04
def TIM : Nat := 0x05
def USE : Nat := 0x06
def KEY : Nat := 0x07
def PRT : Nat := 0x08
def CNV (n : Nat) : Nat := 0x10 + n
def ARR : Nat := 0x14
def CAL (n : Nat) : Nat := 0x18 + n
def FCH (n : Nat) : Nat := 0x20 + n
def FROM : Nat := 0x28
def TRG (n : Nat) : Nat := 0x30 + n
def ACQ (n : Nat) : Nat := 0x40 + n
def HIS (n : Nat) : Nat := 0x48 + n
def DMC (n : Nat) : Nat := 0x60 + n
def DMX : Nat := 0x68
def MCV : Nat := 0x70
def WCP : Nat := 0x71
def EVR : Nat := 0x72
def XPT : Nat := 0x78
def SFE (n : Nat) : Nat := 0x79 + n
def PCI : Nat := 0x80
def DMA : Nat := 0x81
def DMQ (n : Nat) : Nat := 0x88 + n
def SPI : Nat := 0xA0
def MLN0 : Nat := 0xB0
def MLN1 : Nat := 0xB1
def DBG : Nat := 0xF0
end Pg

/-- Partitions the device has (R1): eight, or four on the LY-6440. -/
def Eng.nParts (e : Eng) : Nat := if e.dev.ly6440 then 4 else 8

/-- DMC channels the device has (R1). -/
def Eng.nDmc (e : Eng) : Nat := if e.dev.ly6440 then 4 else 8

def Eng.partState (e : Eng) (n : Nat) : Nat := e.get Pg.PRT (PRT.P_STATE.STATE n)
def Eng.created (e : Eng) (n : Nat) : Bool := decide (n < 8) && e.partState n != 0

/-- A keyed destruction of partition `n` runs (R51). -/
def Eng.destroying (e : Eng) (n : Nat) : Bool :=
  match e.key.run with
  | some k => k.cmd == 2 && k.arg0 == n
  | none => false

/-- A grant or a tap may name partition `n`: it is created, and its destruction has not begun, which applies first (R54, R58,
and ch. 3, "When things meet"). -/
def Eng.grantable (e : Eng) (n : Nat) : Bool := e.created n && !e.destroying n

/-- The owner code of a page (R53, R55): a partition, or 8 for the supervisor. -/
def Eng.owner (e : Eng) (p : Nat) : Nat :=
  match kindOf p with
  | .cnv => e.get Pg.PRT (PRT.GRANT_CNV.OWNER (p - 0x10))
  | .cal => e.get Pg.PRT (PRT.GRANT_CNV.OWNER (p - 0x18))
  | .fch => e.get Pg.PRT (PRT.GRANT_FCH.OWNER (p - 0x20))
  | .trg => e.get Pg.PRT (PRT.GRANT_TRG.OWNER (p - 0x30))
  | .acq => e.get Pg.PRT (PRT.GRANT_ACQ.OWNER (p - 0x40))
  | .his => e.get Pg.PRT (PRT.GRANT_HIS.OWNER (p - 0x48))
  | .sfe => e.get Pg.PRT (PRT.GRANT_SFE.OWNER (p - 0x79))
  | .mln0 => e.get Pg.PRT (PRT.GRANT_MLN.OWNER 0)
  | .mln1 => e.get Pg.PRT (PRT.GRANT_MLN.OWNER 1)
  | .xpt => e.get Pg.PRT PRT.GRANT_XPT.OWNER
  | .dmq =>
    let n := (p - 0x88) / 2
    if e.created n && !(e.dev.ly6440 && decide (8 ≤ p - 0x88)) then n else 8
  | _ => 8

/-- Partition `n` taps channel `c` (R58). -/
def Eng.taps (e : Eng) (c n : Nat) : Bool := decide (n < 8) && (e.get Pg.PRT (PRT.TAP_CNV.TAP c)).testBit n

/-- The owner code may select channel `c` (R59): it owns or taps it. -/
def Eng.mayUse (e : Eng) (o c : Nat) : Bool := e.owner (Pg.CNV c) == o || e.taps c o

def Eng.wcpOwner (e : Eng) (n : Nat) : Nat := e.get Pg.PRT (PRT.GRANT_WCP.OWNER n)
def Eng.evrOwner (e : Eng) (d : Nat) : Nat := e.get Pg.PRT (PRT.GRANT_EVR.OWNER d)

/-- Source indices of the event router that exist (R263). -/
def evrListed (s : Nat) : Bool :=
  s ≤ 1 || (4 ≤ s && s ≤ 0x87) || (0x88 ≤ s && s ≤ 0x8C) || (0x90 ≤ s && s ≤ 0xA9)

/-- The function with owner code `o` may select a source (R263). -/
def Eng.evrRight (e : Eng) (o s : Nat) : Bool :=
  if s ≤ 1 ∨ s = 0xA8 ∨ s = 0xA9 then true
  else if 4 ≤ s ∧ s ≤ 0x0F then e.mayUse o (s % 4)
  else if s ≤ 0x2F then e.owner (Pg.FCH (s % 8)) == o
  else if s ≤ 0x47 then e.owner (Pg.TRG (s % 8)) == o
  else if s ≤ 0x57 then e.owner (Pg.ACQ (s % 8)) == o
  else if s ≤ 0x5F then e.owner (Pg.HIS (s % 8)) == o
  else if s ≤ 0x77 then e.wcpOwner (s % 8) == o
  else if s ≤ 0x87 then e.evrOwner (48 + (s - 0x78)) == o
  else if s ≤ 0x8C then e.owner Pg.XPT == o
  else if s ≤ 0x97 then e.owner (Pg.SFE (s % 4)) == o
  else e.owner Pg.MLN0 == o

/-- Fused-off register pages of the LY-6440 (R3): DMC4-DMC7. -/
def Eng.fusedOff (e : Eng) (p : Nat) : Bool := e.dev.ly6440 && decide (0x64 ≤ p ∧ p ≤ 0x67)

/-- The page that holds a page's commit state for a function: WCP and EVR keep it per function (R47). -/
def hdrPage (p o : Nat) : Nat := if p = Pg.WCP ∨ p = Pg.EVR then vw o p else p

/-- The view of ERR: per function on ENG (R49), and on WCP and EVR, whose state a function sees only for its own part (R47;
DESIGN CHOICE, log entry 42). -/
def errPage (who : Src) (p : Nat) : Nat := if p = Pg.ENG then vw who.code p else hdrPage p who.owner

/-- CTL.EN of the page reads 1 whatever is written (R33 and the pages' chapters). -/
def fixedEn (p : Nat) : Bool :=
  match kindOf p with
  | .eng | .bud | .clk | .flt | .rst | .tim | .usage | .key | .prt | .arr | .rom | .dmc | .dmx | .wcp | .evr | .pci
  | .dma | .spi | .dbg => true
  | _ => false

/-- The block is enabled. -/
def Eng.en (e : Eng) (p : Nat) : Bool := fixedEn p || e.bit p HDR.CTL.EN

def Eng.ready (e : Eng) : Bool := e.bit Pg.ENG ENG.STS.READY
def Eng.lock (e : Eng) : Bool := e.bit Pg.CLK CLK.STS.LOCK
def Eng.retune (e : Eng) : Bool := e.bit Pg.CLK CLK.STS.RETUNE

/-- Quiescent (R21, R49): no acquisition armed and no stream running. -/
def Eng.quiescent (e : Eng) : Bool := (List.range 8).all fun u => !e.bit (Pg.ACQ u) ACQ.STS.ARMED

/-! ### Time -/

/-- RS in Hz, times NMOD: REF_FREQ / RDIV × (NINT × NMOD + NFRAC), as a fraction over RDIV × NMOD (R14). -/
def Eng.rsNum (e : Eng) : Nat :=
  e.get Pg.CLK CLK.REF_FREQ.FREQ *
    (e.get Pg.CLK CLK.SYN_DIV.NINT * e.get Pg.CLK CLK.SYN_MOD.NMOD + e.get Pg.CLK CLK.SYN_FRAC.NFRAC)

def Eng.rsDen (e : Eng) : Nat := (e.get Pg.CLK CLK.SYN_DIV.RDIV + 1) * e.get Pg.CLK CLK.SYN_MOD.NMOD

/-- The time unit of the model: 2^-64 ns, which is 48 fraction bits below 1/65536 ns (R345). -/
def unitsPerNs : Nat := 2 ^ 64
def unitsPerSec : Nat := 10 ^ 9 * 2 ^ 64
def unitsPerMs : Nat := 10 ^ 6 * 2 ^ 64

/-- A span of `n` RS cycles in time units at the present RS, rate correction apart. -/
def Eng.rsSpan (e : Eng) (n : Nat) : Nat := n * unitsPerSec * e.rsDen / max e.rsNum 1

/-- The CKC period that TB96 advances by: 128 RS cycles (R14), corrected by FREQ_ADJ in 2^-16 ppm (R345) and by the
slew that PPS ALIGN adds (R348). -/
def Eng.ckcPeriod (e : Eng) : Nat :=
  let adj : Int := e.getI Pg.TIM TIM.FREQ_ADJ.ADJ + e.tim.slew
  ((e.rsSpan 128 : Int) * (10 ^ 6 * 2 ^ 16 + adj) / (10 ^ 6 * 2 ^ 16)).toNat

/-- CKD is RS/32, CK is RS/20, CKM is RS/2048 (R14). -/
def Eng.ckdSpan (e : Eng) : Nat := e.rsSpan 32

/-- Times of the events of the last `w` time units, newest first, one at `now` among them; no more than `n` are kept. -/
def within (now w n : Nat) (l : List Nat) : List Nat := (now :: l.filter fun t => decide (now < t + w)).take n

/-- The TB96 word of a time: seconds [95:48], nanoseconds [47:16], 1/65536 ns [15:0] (R345). -/
def tb96 (t : Nat) : Nat :=
  let u := t / 2 ^ 48
  (u / (10 ^ 9 * 2 ^ 16)) * 2 ^ 48 + u % (10 ^ 9 * 2 ^ 16)

/-- The time of a TB96 word. -/
def ofTb96 (w : Nat) : Nat := (w / 2 ^ 48 * (10 ^ 9 * 2 ^ 16) + w % 2 ^ 48) * 2 ^ 48

/-- Rounded to the nearest 1/65536 ns (R169). -/
def roundTb (t : Nat) : Nat := (t + 2 ^ 47) / 2 ^ 48 * 2 ^ 48

/-- UTC seconds: TB96 seconds less TAI_UTC (R347). -/
def Eng.utc (e : Eng) : Int := (e.tb / unitsPerSec : Int) - e.getI Pg.TIM TIM.TAI_UTC.SEC

/-! ### Interrupts (R61, R310) -/

/-- The function exists on the link: the PF, or a VF in effect (R305). -/
def Eng.fnPresent (e : Eng) (fn : Nat) : Bool :=
  fn == 0 || (e.bit Pg.PCI PCI.VFS.VF_EN && decide (fn ≤ e.get Pg.PCI PCI.VFS.NUMVF))

/-- Send an MSI-X message of a function's vector, or leave it pending while the vector is masked, the link is down or the
function is absent. -/
def Eng.msix (e : Eng) (fn v : Nat) : Eng :=
  if e.unmasked.contains (fn, v) && e.bit Pg.PCI PCI.STS.LINK_UP && e.fnPresent fn then { e with sent := e.sent ++ [.msix fn v] }
  else if e.msiPend.contains (fn, v) then e else { e with msiPend := e.msiPend ++ [(fn, v)] }

/-- The class of a page's interrupts (R61, R310); none where no class is stated. -/
def classOf (p : Nat) : Option Nat :=
  match kindOf p with
  | .prt => some 0
  | .cnv | .cal => some 1
  | .fch => some 2
  | .trg => some 3
  | .acq => some 4
  | .his => some 5
  | .dmq => some (6 + p % 2)
  | .sfe | .xpt => some 8
  | .wcp | .evr => some 9
  | .mln0 | .mln1 => some 10
  | .flt => some 12
  | .bud | .clk => some 13
  | .dmc | .dmx | .pci => some 14
  | .key | .tim | .usage | .spi => some 15
  | _ => none

/-- Message of class `c` to a function (0-7 a partition through VECMAP, 8 the PF through PF_VECMAP). -/
def Eng.msgClass (e : Eng) (o c : Nat) : Eng :=
  if o < 8 then
    if c < 12 then e.msix (o + 1) (e.get (vw o Pg.PRT) (PRT.VECMAP.CLASS c)) else e
  else e.msix 0 (e.get Pg.PCI (PCI.PF_VECMAP.CLASS c))

/-- Message of a page's class to its owner; CNV and CAL also to the partitions that tap the channel; a supervisor's ring
uses PF vector 16 + n (R310). -/
def Eng.pageMsg (e : Eng) (p : Nat) : Eng :=
  match classOf (p % 256) with
  | none => e
  | some c =>
    let q := p % 256
    let o := if (q = Pg.WCP ∨ q = Pg.EVR) ∧ p / 256 ≠ 0 then min (p / 256 - 1) 8 else e.owner q
    if kindOf q = .dmq ∧ o = 8 then e.msix 0 (16 + (q - 0x88))
    else if kindOf q = .pci ∧ p / 256 ≠ 0 ∧ p / 256 ≠ 9 then e
    else
      let e1 := e.msgClass o c
      if kindOf q = .cnv ∨ kindOf q = .cal then
        (List.range 8).foldl (fun a n => if a.taps (q % 4) n then a.msgClass n 1 else a) e1
      else e1

/-- The register word at an offset, from the live fields alone. -/
def Eng.rawWord (e : Eng) (p off : Nat) : Nat :=
  ((rowsAt (kindOf (p % 256)) off).foldl
    (fun a r => a + e.get p r.f * 2 ^ r.f.lo / 2 ^ (8 * (off - r.f.off)) % 2 ^ 32) 0) % 2 ^ 32

/-- IST AND IEN of a page. -/
def Eng.istPend (e : Eng) (p : Nat) : Nat := e.rawWord p 0x18 &&& e.get p HDR.IEN.MASK

/-- Set bits of an IST field; a message goes out when (IST AND IEN) leaves zero (R310). -/
def Eng.istOr (e : Eng) (p : Nat) (f : Fld) (m : Nat) : Eng :=
  let e1 := e.put p f (e.get p f ||| m)
  if e.istPend p = 0 ∧ e1.istPend p ≠ 0 then e1.pageMsg p else e1

def Eng.ist (e : Eng) (p : Nat) (f : Fld) : Eng := e.istOr p f 1

/-- A PRT interrupt bit of partition `n`: PF vector 32 + n, and class 0 of the partition (R61, R310). -/
def Eng.prtIst (e : Eng) (n : Nat) (f : Fld) : Eng :=
  let m := e.get Pg.PRT HDR.IEN.MASK
  let e1 := e.put Pg.PRT f (e.get Pg.PRT f ||| (if f.w = 1 then 1 else 2 ^ n))
  let e2 := if m.testBit (f.lo + if f.w = 1 then 0 else n) ∧ e1.get Pg.PRT f ≠ e.get Pg.PRT f then e1.msix 0 (32 + n) else e1
  if e.created n then e2.msgClass n 0 else e2

/-- A bit of SPI.ALERT_STS (R323). -/
def Eng.alert (e : Eng) (b : Nat) : Eng := e.put Pg.SPI SPI.ALERT_STS.SRC (e.get Pg.SPI SPI.ALERT_STS.SRC ||| 2 ^ b)

/-- READY rises, with ALERT_STS.READY (R323, R399). -/
def Eng.setReady (e : Eng) : Eng := if e.ready then e else (e.put Pg.ENG ENG.STS.READY 1).alert 5

/-- Assert a pulse source of the event router for this CKC cycle (R263). -/
def Eng.pulse (e : Eng) (s : Nat) : Eng :=
  if e.evr.pulse.contains s then e else { e with evr := { e.evr with pulse := s :: e.evr.pulse } }

/-! ### Refusals (R36, R37) -/

inductive Code where
  | ok | noCredit | busy | owner | range | auth | quiesce | conflict | locked | stale
  deriving DecidableEq, Repr

def Code.num : Code → Nat
  | .ok => 0 | .noCredit => 1 | .busy => 2 | .owner => 3 | .range => 4 | .auth => 5 | .quiesce => 6 | .conflict => 7
  | .locked => 8 | .stale => 9

/-- The refusal that a code number stands for; none for 0. -/
def Code.ofNum (n : Nat) : Option Code :=
  [Code.noCredit, .busy, .owner, .range, .auth, .quiesce, .conflict, .locked, .stale].find? fun c => c.num == n

/-- Write a refusal into ERR of a page and set IST.ERR_SET (R36); the requester's answer is the code. -/
def Eng.errAt (e : Eng) (p off src : Nat) (c : Code) : Eng :=
  let e1 := ((e.put p HDR.ERR.CODE c.num).put p HDR.ERR.WORD (off / 4)).put p HDR.ERR.SRC src
  { e1.ist p HDR.IST.ERR_SET with resp := ⟨c.num, []⟩ }

def Eng.refuse (e : Eng) (who : Src) (p off : Nat) (c : Code) : Eng := e.errAt (errPage who p) off who.code c

/-- A refused commit also sets IST.CMT_REFUSED (R40). -/
def Eng.refuseCommit (e : Eng) (who : Src) (p : Nat) (c : Code) : Eng :=
  (e.refuse who p 0x10 c).ist (hdrPage p who.owner) HDR.IST.CMT_REFUSED

/-- An access to a page the requester does not own (R31): OWNER_CNT, and ERR with IST.ERR_SET (R33), of the requester's view
of ENG. -/
def Eng.notOwner (e : Eng) (who : Src) (off : Nat) : Eng :=
  let v := vw who.code Pg.ENG
  let e1 := e.inc v ENG.OWNER_CNT.COUNT
  let e2 := ((e1.put v HDR.ERR.CODE 3).put v HDR.ERR.WORD (off / 4)).put v HDR.ERR.SRC who.code
  { e2.ist v HDR.IST.ERR_SET with resp := ⟨3, []⟩ }

/-- OWNER refusal of a named resource on a page the requester does own: recorded on the page, counted in OWNER_CNT. -/
def Eng.refuseOwner (e : Eng) (who : Src) (p off : Nat) : Eng :=
  (e.refuse who p off .owner).inc (vw who.code Pg.ENG) ENG.OWNER_CNT.COUNT

/-! ### The fault queue (R382-R391) -/

/-- Drive of FAULT_N low (R390). -/
def Eng.faultN (e : Eng) : Bool :=
  !e.fused || e.bit Pg.FLT FLT.STS.CORRUPT ||
  e.flt.any fun r => (r.st == 1 || r.st == 2) && decide (e.get Pg.FLT FLT.CFG.PIN_SEV ≤ r.sev)

def FltRec.isFree (r : FltRec) : Bool := r.st == 0 || r.st == 3

/-- The lowest slot in a range that satisfies a test. -/
def Eng.fltFind (e : Eng) (lo hi : Nat) (q : FltRec → Bool) : Option Nat :=
  (List.range 32).find? fun i => decide (lo ≤ i ∧ i < hi) && q (e.flt.getD i FltRec.free)

/-- The slot of the oldest record (lowest SEQ age, that is, farthest behind the next SEQ) among those that satisfy a test. -/
def Eng.fltOldest (e : Eng) (lo hi : Nat) (q : FltRec → Bool) : Option Nat :=
  let next := e.get Pg.FLT FLT.NEXT.SEQ
  let age (i : Nat) : Nat := (next + 65536 - (e.flt.getD i FltRec.free).seq) % 65536
  (List.range 32).foldl (fun b i =>
    if lo ≤ i ∧ i < hi ∧ q (e.flt.getD i FltRec.free) then
      match b with
      | some j => if age j < age i then some i else b
      | none => some i
    else b) none

/-- Where a new record goes: a free slot (R385), else a record to overwrite (R389); none: dropped. The flag says that
a record is evicted. -/
def Eng.fltSlot (e : Eng) (sev : Nat) : Option (Nat × Bool) :=
  match e.fltFind 0 28 FltRec.isFree with
  | some i => some (i, false)
  | none =>
    if sev = 0 then none
    else if sev < 3 then (e.fltOldest 0 28 fun r => r.sev == 0).map fun i => (i, true)
    else
      match e.fltFind 28 31 FltRec.isFree with
      | some i => some (i, false)
      | none =>
        let low := ([0, 1, 2].find? fun s => (e.fltOldest 0 31 fun r => r.sev == s).isSome)
        low.bind fun s => (e.fltOldest 0 31 fun r => r.sev == s).map fun i => (i, true)

/-- Interrupts of a new record (R388): IST.NEW at or above MIN_SEV (ENGINE always), class 11 of the partition named by a
PARTITION record, ALERT_STS.FAULT at or above SPI.CFG.SEV. -/
def Eng.fltNotify (e : Eng) (sev part : Nat) : Eng :=
  let e1 := if e.get Pg.FLT FLT.CFG.MIN_SEV ≤ sev ∨ sev = 3 then e.ist Pg.FLT FLT.IST.NEW else e
  let e2 := if sev = 2 ∧ part < 8 then e1.msgClass part 11 else e1
  if e2.get Pg.SPI SPI.CFG.SEV ≤ sev then e2.alert 0 else e2

def Eng.fltOvf (e : Eng) : Eng := (e.put Pg.FLT FLT.STS.OVF 1).ist Pg.FLT FLT.IST.OVF

/-- Record a fault (R383-R389): a repeat of a matching RAISED record, or a new record, an eviction or a drop. `part` is 8
where the fault names no partition. -/
def Eng.record (e : Eng) (page index sev part detail : Nat) : Eng :=
  match (List.range 32).find? (fun i =>
      let r := e.flt.getD i FltRec.free
      r.st == 1 && r.page == page && r.index == index && r.part == part && r.sev == sev) with
  | some i =>
    let r := e.flt.getD i FltRec.free
    { e with flt := e.flt.set i { r with reps := min (r.reps + 1) 0xFFFF, tLast := tb96 e.tb / 2 ^ 16 % 2 ^ 64 } }
  | none =>
    match e.fltSlot sev with
    | none => (e.inc Pg.FLT FLT.LOST.COUNT).fltOvf
    | some (i, ev) =>
      let seq := e.get Pg.FLT FLT.NEXT.SEQ
      let r : FltRec := ⟨if e.lock then tb96 e.tb else 0, page, index, sev, 1, part, seq, 0, detail, 0⟩
      let e1 := { e with flt := e.flt.set i r }
      let e2 := (e1.put Pg.FLT FLT.NEXT.SEQ (seq + 1)).put Pg.FLT FLT.NEXT.SLOT i
      let e3 := if ev then (e2.inc Pg.FLT FLT.EVICT_CNT.COUNT).fltOvf else e2
      e3.fltNotify sev part

/-- Bits of a set of numbers. -/
def bitsOf (l : List Nat) : Nat := l.foldl (fun a i => a ||| 2 ^ i) 0

/-- Arming of the ring waits for acknowledgements, at most 1 ms (R378). -/
def Eng.armWaits (e : Eng) : Bool := e.bit Pg.MLN1 MLN1.STS.ARM_WAIT && decide (e.tb < e.mln.armT + unitsPerMs)

/-- ALERT_N is driven (R323). -/
def Eng.alerting (e : Eng) : Bool := e.get Pg.SPI SPI.ALERT_STS.SRC &&& e.get Pg.SPI SPI.ALERT_EN.SRC != 0

/-- The calendar covers the present UTC second, 2000 to 2399 (R349). -/
def Eng.calValid (e : Eng) : Bool := decide (946684800 ≤ e.utc ∧ e.utc ≤ 13569465599)

/-- The acquisition unit that streams to a ring, or whose blocks still wait for it (R192, R315). -/
def Eng.ringUnit (e : Eng) (r : Nat) : Option (Fin 8) :=
  [0, 1, 2, 3, 4, 5, 6, 7].find? fun (u : Fin 8) =>
    let p := Pg.ACQ u
    let o := e.owner p
    decide (o < 8) && 2 * o + e.get p ACQ.STR_CFG.RING == r && e.bit p ACQ.MODE.STR && e.bit p ACQ.STR_CFG.DEST &&
      (e.bit p ACQ.STS.ARMED || !e.acq[u].blks.isEmpty)

/-- Records that are RAISED or ACKNOWLEDGED. -/
def Eng.fltOpen (e : Eng) : List FltRec := e.flt.filter fun r => r.st == 1 || r.st == 2

/-- The arrangement in force: 0 Q, 1 D, 2 S (R118). -/
def Eng.arr (e : Eng) : Nat := e.get Pg.ARR ARR.LIVE.MODE

/-- Channel `c` exists in arrangement `m` (R100). -/
def presentIn (m c : Nat) : Bool := m == 0 || (m == 1 && (c == 0 || c == 2)) || (m == 2 && c == 0)

/-- The bits of STS that follow the rest of the state; DIRTY is the views' (R33). -/
def Eng.stsDerived (e : Eng) (p : Nat) : Nat :=
  match kindOf (p % 256) with
  | .eng => 2 * e.quiescent.toNat + 4 * e.retune.toNat
  | .cnv => 8 * (presentIn e.arr (p % 4)).toNat
  | .bud => 16 * (e.ready && e.bit Pg.BUD BUD.AVS_CFG.EN && !e.bit Pg.BUD BUD.STS.AVS_FAIL).toNat
  | .trg =>
    (e.trg[p % 8]?.any fun r => e.en (p % 256) && !r.fault && !r.held && !e.bit (p % 256) TRG.STS.LATBAD).toNat
  | .flt =>
    let l := e.fltOpen
    l.length + 2 ^ 8 * l.foldl (fun m r => max m r.sev) 0 + 2 ^ 10 * e.faultN.toNat
  | .tim =>
    e.calValid.toNat + 4 * (e.tim.ppsSeen && decide (10 * e.tim.ppsAge ≤ 11 * unitsPerSec)).toNat
  | .prt => 2 ^ 8 * bitsOf ((List.range 8).filter fun n => e.partState n == 2)
  | .dmq => 4 * (e.ringUnit (p % 256 - 0x88)).isSome.toNat
  | .spi => 2 * e.alerting.toNat
  | .mln1 => e.armWaits.toNat + 2 * (decide (16 ≤ e.mln.tx.length)).toNat
  | _ => 0

/-- The bits of STS that `stsDerived` gives, which the store does not hold. -/
def stsOwn (p : Nat) : Nat :=
  match kindOf (p % 256) with
  | .eng => 6
  | .cnv => 8
  | .bud => 16
  | .trg => 1
  | .flt => 0x73F
  | .tim => 5
  | .prt => 0xFF00
  | .dmq => 4
  | .spi => 2
  | .mln1 => 3
  | _ => 0

/-- The word STS of a page, DIRTY of all of it included. -/
def Eng.stsWord (e : Eng) (p : Nat) : Nat :=
  let w := e.rawWord p 0x14
  let dirty := (e.shad.any fun x => x.1 / 524288 == p).toNat
  ((w - (w &&& stsOwn p)) ||| e.stsDerived p) ||| 2 ^ 30 * dirty

/-- Raise a fault that names no partition or whose severity is not PARTITION; DETAIL is the page's STS word (R384). -/
def Eng.raise (e : Eng) (page index sev part : Nat) : Eng := e.record page index sev part (e.stsWord page)

/-- The partition a fault of an owned block names: its owner, 8 for the supervisor (R384). -/
def Eng.named (e : Eng) (p : Nat) : Nat := e.owner p

/-! ### Free values -/

/-- Draw a fresh index for a free value. -/
def Eng.fresh (e : Eng) : Eng := { e with freeCtr := e.freeCtr + 1 }

/-- Replace one entry of a vector of like units. -/
def upd {α : Type} {n : Nat} (v : Vector α n) (i : Fin n) (f : α → α) : Vector α n := v.set i (f v[i])

end Sys2Proof.Machine
end

