-- ==== Sys2Proof/Machine/Tickets.lean ====
section
/-! DEFINITION. The current budget's tickets (R79-R86): the cost table, requests with their grant or refusal, and
release. The arrangement's channel map (R98, R100) stands here because costs follow it. -/
namespace Sys2Proof.Machine

/-- The cores that serve channel `c` in arrangement `m`, in sampling order (R98). -/
def coresIn (ly6440 : Bool) (m c : Nat) : List Nat :=
  let all := (List.range 16).filter fun k => !ly6440 || k % 4 < 2
  if !presentIn m c then []
  else if m = 0 then all.filter fun k => k / 4 == c
  else if m = 1 then all.filter fun k => k / 8 == c / 2
  else all

/-- Samples per CKD cycle of a channel (R9): eight from each core (R99). -/
def Eng.spw (e : Eng) (c : Nat) : Nat := 8 * (coresIn e.dev.ly6440 e.arr c).length

/-- Samples of one datapath word. The word of an absent channel, all invalid (R100, R140), has as many as the channel's at ARR = Q
(DESIGN CHOICE, log entry 76). -/
def Eng.wordLen (e : Eng) (c : Nat) : Nat := if e.spw c = 0 then 8 * (coresIn e.dev.ly6440 0 c).length else e.spw c

/-- A figure that follows the arrangement Q / D / S. -/
def byArr (m q d s : Nat) : Nat := if m = 0 then q else if m = 1 then d else s

/-- Round up a quotient. -/
def ceilDiv (a b : Nat) : Nat := (a + b - 1) / b

/-- A field's value, from the shadow where `sh` (a commit's check) else live. -/
def Eng.rd (e : Eng) (sh : Bool) (p : Nat) (f : Fld) : Nat := if sh then e.sh p f else e.get p f

/-- The base cost of an accumulation unit by type (R86): HIST 16, EYE 20, AVG 12, ENV 12. -/
def hisBase (t : Nat) : Nat := if t = 0 then 16 else if t = 1 then 20 else 12

/-- A comparator counts for the page's ticket (R270): it is enabled, or an accepted commit of its owner enables it. -/
def Eng.wcpCounts (e : Eng) (sh : Bool) (n : Nat) : Bool :=
  e.bit Pg.WCP (WCP.CH_CFG.EN n) ||
    ((sh || e.bit (hdrPage Pg.WCP (e.wcpOwner n)) HDR.STS.PENDING) && e.sh Pg.WCP (WCP.CH_CFG.EN n) == 1)

/-- The tickets a page's block holds with CTL.EN = 1 (R86), on VDD_CORE and VDD_ADC, under arrangement `m`, CKH limit
`maxDiv`, and its live values or its shadows. -/
def Eng.costAt (e : Eng) (m maxDiv : Nat) (sh : Bool) (p : Nat) : Nat × Nat :=
  let half := e.dev.ly6440
  match kindOf p with
  | .cnv => if half then (byArr m 3 6 12, byArr m 20 36 68) else (byArr m 6 12 24, byArr m 36 68 132)
  | .cal =>
    let n := if !presentIn m (p - 0x18) then 0 else if half then byArr m 2 4 8 else byArr m 4 8 16
    (n, if e.bit p CAL.STS.REWARM then 8 * n else 0)
  | .fch =>
    let mode := e.rd sh p FCH.DEC.MODE
    let base := if mode = 0 then byArr m 2 3 5 else if mode = 1 then byArr m 3 5 8 else byArr m 8 14 24
    let ram := if mode = 2 ∧ e.rd sh p FCH.RESP.SRC = 1 then (if e.bit p FCH.COEF_CFG.SYM then 8 else 6) else 0
    (base + ram + e.rd sh p FCH.DET.PK + e.rd sh p FCH.DET.RMS + 2 * e.rd sh p FCH.DET.ENV, 0)
  | .trg => (3 + if (List.range 16).any (fun g => e.rd sh p (TRG.GATE_COND.TYPE g) == 6) then 1 else 0, 0)
  | .acq =>
    let base := if e.rd sh p ACQ.MODE.CAP = 1 then
        (if e.rd sh p ACQ.SRC.KIND = 1 then 4 else byArr m 4 6 10) else 2
    (base + 4 * e.rd sh p ACQ.MODE.STR + e.rd sh p ACQ.MODE.ACC, 0)
  | .his =>
    (ceilDiv (hisBase (e.rd sh p HIS.CFG.TYPE) * 24) maxDiv + (if e.rd sh p HIS.MASK_CTL.ZEN = 0 then 0 else 4), 0)
  | .dmq => (1, 0)
  | .mln0 | .mln1 => (2, 0)
  | .mcv => (1, 0)
  | .wcp => (if (List.range 8).any (fun n => e.wcpCounts sh n) then 1 else 0, 0)
  | .sfe => (1, 0)
  | .xpt => (1, 0)
  | _ => (0, 0)

def Eng.cost (e : Eng) (sh : Bool) (p : Nat) : Nat × Nat :=
  e.costAt e.arr (max (e.get Pg.CLK CLK.CKH.MAX_DIV) 1) sh p

/-- The arrangement that tickets are asked for under: one that an accepted commit brings, else the one in force (ch. 5, "When
things meet"). -/
def Eng.arrNext (e : Eng) : Nat := if e.bit Pg.ARR HDR.STS.PENDING then e.sh Pg.ARR ARR.ARR.MODE else e.arr

/-- The larger of two pairs of tickets, rail by rail. -/
def tixMax (a b : Nat × Nat) : Nat × Nat := (max a.1 b.1, max a.2 b.2)

/-- What a page needs under the arrangement in force and under one that is coming, whichever is more. -/
def Eng.costNow (e : Eng) (sh : Bool) (p : Nat) : Nat × Nat :=
  tixMax (e.cost sh p) (e.costAt e.arrNext (max (e.get Pg.CLK CLK.CKH.MAX_DIV) 1) sh p)

def Eng.heldC (e : Eng) (p : Nat) : Nat := Store.get e.tixC p 0
def Eng.heldA (e : Eng) (p : Nat) : Nat := Store.get e.tixA p 0

/-- Set what a page holds. -/
def Eng.setTix (e : Eng) (p c a : Nat) : Eng := { e with tixC := Store.put e.tixC p c 0, tixA := Store.put e.tixA p a 0 }

def sumStore (s : Store) : Nat := s.foldl (fun a x => a + x.2) 0

/-- HELD on each rail, boost included (R97). -/
def Eng.sumC (e : Eng) : Nat := sumStore e.tixC + e.bud.boost
def Eng.sumA (e : Eng) : Nat := sumStore e.tixA

/-- Tickets held by the pages of one owner (R63, VIEW_HELD of R97). -/
def Eng.ownC (e : Eng) (o : Nat) : Nat := e.tixC.foldl (fun a x => if e.owner x.1 = o then a + x.2 else a) 0
def Eng.ownA (e : Eng) (o : Nat) : Nat := e.tixA.foldl (fun a x => if e.owner x.1 = o then a + x.2 else a) 0

/-- OVERCOMMIT clears on a rail once held tickets fall to the budget (R81). -/
def Eng.settleOver (e : Eng) : Eng :=
  let s := e.get Pg.BUD BUD.STS.OVERCOMMIT
  let c := if e.sumC ≤ e.get Pg.BUD BUD.BUDGET.CORE then 0 else s % 2
  let a := if e.sumA ≤ e.get Pg.BUD BUD.BUDGET.ADC then 0 else s / 2
  e.put Pg.BUD BUD.STS.OVERCOMMIT (c + 2 * a)

/-- Return a page's tickets (R83). -/
def Eng.release (e : Eng) (p : Nat) : Eng := (e.setTix p 0 0).settleOver

/-- Pages whose tickets follow their settings and CTL.EN; the others hold a fixed figure or none (R86). -/
def costed (p : Nat) : Bool :=
  match kindOf p with
  | .cnv | .cal | .fch | .trg | .acq | .his | .dmq | .mln0 | .mln1 | .mcv | .wcp | .sfe | .xpt => true
  | _ => false

/-- A page's tickets become what its live values need, none while it is disabled (R83); a commit that is pending keeps what
it was granted (R40), and so does a pending change of arrangement (R114). -/
def Eng.relax (e : Eng) (p : Nat) : Eng :=
  if costed p then
    let c := if e.en p then e.costNow false p else (0, 0)
    let d := if e.en p && e.bit p HDR.STS.PENDING then e.costNow true p else (0, 0)
    (e.setTix p (tixMax c d).1 (tixMax c d).2).settleOver
  else e

/-- A ticket request: what each named page would hold, the owner whose caps count (9: no cap counts), the page that REFUSE.PAGE
shows (R97), and whether it is a request whatever it needs: CTL.EN = 1, a group's GO and an ARR commit are, other commits and a
lower MAX_DIV only where they raise the need (R82). -/
structure TixReq where
  pages : List (Nat × Nat × Nat)
  cap : Nat
  page : Nat
  always : Bool
  deriving DecidableEq, Repr

/-- The extra tickets a request needs on each rail. -/
def Eng.needC (e : Eng) (r : TixReq) : Nat := r.pages.foldl (fun a x => a + (x.2.1 - e.heldC x.1)) 0
def Eng.needA (e : Eng) (r : TixReq) : Nat := r.pages.foldl (fun a x => a + (x.2.2 - e.heldA x.1)) 0

/-- What of it counts against a partition's caps: all but the comparators' ticket (R270). -/
def TixReq.capped (r : TixReq) : TixReq := { r with pages := r.pages.filter fun x => x.1 != 0x71 }

/-- The free tickets of a rail, as an integer: a reclaim may leave it negative for a few cycles (R85). -/
def Eng.freeC (e : Eng) : Int := (e.get Pg.BUD BUD.BUDGET.CORE : Int) - e.sumC
def Eng.freeA (e : Eng) : Int := (e.get Pg.BUD BUD.BUDGET.ADC : Int) - e.sumA

/-- Why a request is refused (R82): REFUSE.CAUSE 0 BUDGET, 1 CAP, 2 EMERGENCY, 3 OVERCOMMIT; none where it is granted.
Where several hold, the order EMERGENCY, OVERCOMMIT, CAP, BUDGET is a DESIGN CHOICE (log entry 5). -/
def Eng.tixCause (e : Eng) (r : TixReq) : Option Nat :=
  let c := e.needC r
  let a := e.needA r
  let oc := e.get Pg.BUD BUD.STS.OVERCOMMIT
  let kc := e.needC r.capped
  let capC := e.get Pg.PRT (PRT.P_TIXCAP.CORE r.cap)
  let capA := e.get Pg.PRT (PRT.P_TIXCAP.ADC r.cap)
  if c = 0 ∧ a = 0 ∧ !(r.always && e.bit Pg.BUD BUD.STS.EMERG) then none
  else if e.bit Pg.BUD BUD.STS.EMERG then some 2
  else if (c ≠ 0 ∧ oc % 2 = 1) ∨ (a ≠ 0 ∧ oc / 2 = 1) then some 3
  else if r.cap < 8 ∧ ((capC ≠ 1023 ∧ kc ≠ 0 ∧ capC < e.ownC r.cap + kc) ∨ (capA ≠ 1023 ∧ a ≠ 0 ∧ capA < e.ownA r.cap + a))
  then some 1
  else if (c ≠ 0 ∧ e.freeC + e.bud.boost < c) ∨ (a ≠ 0 ∧ e.freeA < a) then some 0
  else none

/-- The request reclaims boost: it fits only when boost is counted (R85). -/
def Eng.reclaims (e : Eng) (r : TixReq) : Bool := decide (e.freeC < e.needC r)

/-- Grant: every named page holds what it needs; pages that wait for a reclaim power up later (R85). -/
def Eng.grantTix (e : Eng) (r : TixReq) : Eng :=
  let w := e.needC r != 0 && e.reclaims r
  let e1 := r.pages.foldl (fun a x => a.setTix x.1 (max x.2.1 (a.heldC x.1)) (max x.2.2 (a.heldA x.1))) e
  if w then { e1 with bud := { e1.bud with powerWait := e1.bud.powerWait ++ r.pages.map (·.1) } } else e1

/-- Record a NOCREDIT refusal in BUD (R82, R97): the requester's REFUSE, IST.REFUSED and REFUSE_CNT. -/
def Eng.tixRefused (e : Eng) (who : Src) (r : TixReq) (cause : Nat) : Eng :=
  let c := e.needC r
  let a := e.needA r
  let capC := e.get Pg.PRT (PRT.P_TIXCAP.CORE r.cap)
  let capA := e.get Pg.PRT (PRT.P_TIXCAP.ADC r.cap)
  let kc := e.needC r.capped
  let sc : Int := if c = 0 then 0
    else if cause = 1 then (if capC = 1023 ∨ kc = 0 then 0 else (e.ownC r.cap + kc : Int) - capC) else c - (e.freeC + e.bud.boost)
  let sa : Int := if a = 0 then 0
    else if cause = 1 then (if capA = 1023 then 0 else (e.ownA r.cap + a : Int) - capA) else a - e.freeA
  let bc := c ≠ 0 && (decide (0 < sc) || cause == 2 || cause == 3 && e.get Pg.BUD BUD.STS.OVERCOMMIT % 2 == 1)
  let ba := a ≠ 0 && (decide (0 < sa) || cause == 2 || cause == 3 && e.get Pg.BUD BUD.STS.OVERCOMMIT / 2 == 1)
  let v := vw who.code Pg.BUD
  let e1 := (e.put v BUD.REFUSE.CAUSE cause).put v BUD.REFUSE.RAIL (bc.toNat + 2 * ba.toNat)
  let e2 := (e1.put v BUD.REFUSE.PAGE r.page).put v BUD.REFUSE.SHORT (max (max sc sa) 0).toNat
  let e3 := (e2.put v BUD.REFUSE.SRC who.code).inc Pg.BUD BUD.REFUSE_CNT.COUNT
  e3.ist Pg.BUD BUD.IST.REFUSED

/-- The request of one page to hold its cost with live values or shadows. -/
def Eng.reqFor (e : Eng) (sh : Bool) (p : Nat) : TixReq :=
  let c := e.costNow sh p
  ⟨[(p, c.1, c.2)], e.owner p, p, false⟩

end Sys2Proof.Machine
end

