-- ==== Sys2Proof/Machine/Bytes.lean ====
section
/-! DEFINITION. Bytes: little-endian fields (R4), the CRCs of the manual's records and frames, the DRAM image as a list
of cells, and the storage formats of R106-R108. -/
namespace Sys2Proof.Machine

/-- `n` bytes of a number, lowest first (R4). -/
def leBytes (n v : Nat) : List Byte := (List.range n).map fun i => BitVec.ofNat 8 (v / 256 ^ i)

/-- The number a list of bytes holds, lowest first. -/
def ofLE : List Byte → Nat
  | [] => 0
  | b :: r => b.toNat + 256 * ofLE r

/-- One byte through a reflected CRC of a given polynomial. -/
def crcStep (poly c : Nat) (b : Byte) : Nat :=
  (List.range 8).foldl (fun a _ => if a % 2 = 1 then (a / 2) ^^^ poly else a / 2) (c ^^^ b.toNat)

/-- CRC-32 (IEEE 802.3): R189, R206. -/
def crc32 (bs : List Byte) : Nat := (bs.foldl (crcStep 0xEDB88320) 0xFFFFFFFF) ^^^ 0xFFFFFFFF

/-! ### DRAM contents: cells at rising addresses, one per byte written (log entry 2) -/

/-- The byte at an address, if something has written it. -/
def Mem.get? (m : Mem) (a : Nat) : Option Byte :=
  match m.find? (fun c => c.1 == a) with
  | some c => some c.2
  | none => none

/-- Insert or replace one cell, keeping addresses rising. -/
def Mem.set (a : Nat) (b : Byte) : Mem → Mem
  | [] => [(a, b)]
  | c :: r => if a < c.1 then (a, b) :: c :: r else if a = c.1 then (a, b) :: r else c :: Mem.set a b r

/-- Write consecutive bytes. -/
def Mem.write (m : Mem) (a : Nat) : List Byte → Mem
  | [] => m
  | b :: r => Mem.write (m.set a b) (a + 1) r

/-- The canonical form: addresses strictly rising. -/
def Mem.wf : Mem → Bool
  | [] => true
  | [_] => true
  | c :: d :: r => decide (c.1 < d.1) && Mem.wf (d :: r)

/-! ### Samples in storage -/

/-- Limit a value to a range. -/
def clampI (lo hi v : Int) : Int := max lo (min hi v)

/-- The stored value of a word in a format: 0 P8, 1 P10, 2 W16 (R106). -/
def stored (fmt : Nat) (w : Int) : Int :=
  if fmt = 0 then clampI (-128) 127 ((w + 128) / 256)
  else if fmt = 1 then clampI (-512) 511 ((w + 32) / 64)
  else clampI (-32768) 32767 w

/-- Bits per sample of a format. -/
def fmtBits (fmt : Nat) : Nat := if fmt = 0 then 8 else if fmt = 1 then 10 else 16

/-- Samples packed lowest first, `b` bits each, into whole bytes (R108). -/
def packed (fmt : Nat) (ws : List Int) : List Byte :=
  let b := fmtBits fmt
  leBytes ((ws.length * b + 7) / 8) (ws.foldr (fun w a => unsigned b (stored fmt w) + 2 ^ b * a) 0)

end Sys2Proof.Machine
end

