-- ==== Sys2Proof/Machine/Fold.lean ====
section
/-! DEFINITION. Accumulation units on their own (R196-R206): rows and columns, the eye phase tracker, the update queue,
folding, mask zones, the summary block and the DRAM image of a unit. -/
namespace Sys2Proof.Machine

/-- The eight units of a family, in order. -/
def units8 : List (Fin 8) := [0, 1, 2, 3, 4, 5, 6, 7]

/-- Integer square root, rounded down (log entry 20). -/
def isqrt (n : Nat) : Nat := (List.range 40).foldr (fun i r => if (r + 2 ^ i) * (r + 2 ^ i) ≤ n then r + 2 ^ i else r) 0

def Eng.onHis (e : Eng) (h : Fin 8) (f : HisRt → HisRt) : Eng := { e with his := upd e.his h f }

/-- The unit is enabled and bound to acquisition `u` (R196). -/
def Eng.bound (e : Eng) (u h : Fin 8) : Bool :=
  e.en (Pg.HIS h) && e.bit (Pg.HIS h) HIS.CFG.BIND && e.get (Pg.HIS h) HIS.CFG.ACQ == u

/-- HIST without trigger, or EYE (R199). -/
def Eng.freeRun (e : Eng) (h : Fin 8) : Bool :=
  let t := e.get (Pg.HIS h) HIS.CFG.TYPE
  t == 1 || (t == 0 && e.bit (Pg.HIS h) HIS.CFG.FREE)

/-- A triggered type (R198). -/
def Eng.trigd (e : Eng) (h : Fin 8) : Bool := !e.freeRun h

/-- Rows of the grid: one for AVG and ENV (R197). -/
def Eng.hisY (e : Eng) (h : Fin 8) : Nat :=
  if 2 ≤ e.get (Pg.HIS h) HIS.CFG.TYPE then 1 else e.get (Pg.HIS h) HIS.GRID.YBINS

def Eng.hisX (e : Eng) (h : Fin 8) : Nat := e.get (Pg.HIS h) HIS.GRID.XBINS

/-- Words of a triggered record, and of a sweep of free HIST (R198, R199). -/
def Eng.recLen (e : Eng) (h : Fin 8) : Nat := e.hisX h * e.get (Pg.HIS h) HIS.XDIV.N

/-- The row of a word (R197). -/
def Eng.rowOf (e : Eng) (h : Fin 8) (w : Int) : Int :=
  (w - e.getI (Pg.HIS h) HIS.YMAP.YLO) / 2 ^ e.get (Pg.HIS h) HIS.YMAP.YSH

/-- Usage of partition `o` in one class of R351: updates (M2) or bytes (M4). -/
def Eng.meterM2 (e : Eng) (o n : Nat) : Eng :=
  if o < 8 then { e with use := { e.use with m2 := Store.put e.use.m2 o (Store.get e.use.m2 o 0 + n) 0 } } else e
def Eng.meterM4 (e : Eng) (o n : Nat) : Eng :=
  if o < 8 then { e with use := { e.use with m4 := Store.put e.use.m4 o (Store.get e.use.m4 o 0 + n) 0 } } else e

/-! ### Sources and times -/

/-- A number as a unit of eight, or of four. -/
def fin8 (n : Nat) : Fin 8 := ⟨n % 8, Nat.mod_lt _ (by decide)⟩
def fin4 (n : Nat) : Fin 4 := ⟨n % 4, Nat.mod_lt _ (by decide)⟩

/-- The channel an acquisition's Capture source reads: its raw channel, or its chain's input (R178). -/
def Eng.acqCh (e : Eng) (u : Fin 8) : Fin 4 :=
  let p := Pg.ACQ u
  if e.bit p ACQ.SRC.KIND then fin4 (e.get (Pg.FCH (e.get p ACQ.SRC.FCH)) FCH.INPUT.CH) else fin4 (e.get p ACQ.SRC.CH)

/-- The ball-plane time of a point of a channel, in 1/256 samples from the channel's sample 0 (R12, R169). -/
def Eng.timeOf (e : Eng) (c : Fin 4) (t256 : Int) : Nat :=
  let r := e.cnv[c]
  ((r.wTb : Int) + (t256 - 256 * r.wIdx) * e.ckdSpan / (256 * max r.spw 1)).toNat

/-- The chain stores PEAK pairs (R178). -/
def Eng.fchPair (e : Eng) (f : Nat) : Bool := e.get (Pg.FCH f) FCH.DEC.MODE == 1

/-- The Capture source stores pairs. -/
def Eng.acqPair (e : Eng) (u : Fin 8) : Bool :=
  e.bit (Pg.ACQ u) ACQ.SRC.KIND && e.fchPair (e.get (Pg.ACQ u) ACQ.SRC.FCH)

/-! ### The eye tracker (R200) -/

/-- One stored word as the tracker counts it. -/
def eyeOne : Int := 2 ^ 48

/-- What the loop takes from the phase, and adds to the period, for a phase error: a bandwidth of f_UI / 2^(BW + 10) scales
both, and its damping is free (log entry 21). -/
def eyeLoop (bw : Nat) (err : Int) : Int × Int :=
  (err * Config.eyePhase / (256 * 2 ^ (bw + 10)), err * Config.eyePeriod / (256 * 2 ^ (2 * (bw + 10))))

/-- A phase brought into its period; at each passage the tracker is in the other UI. -/
def wrapUi (per ph : Int) (odd : Bool) : Int × Bool :=
  if 0 < per ∧ per ≤ ph then (ph - per, !odd) else if ph < 0 then (ph + per, !odd) else (ph, odd)

/-- Advance the tracker by one word. Its phase passes from one UI to the other at each period, and each transition sets anew
which UI it is in, from the count of transitions (log entry 21). -/
def EyeRt.step (y : EyeRt) (ui bw : Nat) (thr : Int) (w : Smp) : EyeRt :=
  let (ph, odd) := wrapUi y.per (y.phase + eyeOne) y.odd
  if !w.ok then { y with phase := ph, odd := odd, prev := none }
  else
    match y.prev with
    | none => { y with phase := ph, odd := odd, prev := some w.v }
    | some q =>
      if (q < thr ∧ thr ≤ w.v) ∨ (thr ≤ q ∧ w.v < thr) then
        let frac := eyeOne * (thr - q) / (w.v - q)
        let m := (y.phase + frac) % y.per
        let err := if y.per < 2 * m then m - y.per else m
        let c := eyeLoop bw err
        let u := 2 ^ 32 * (ui : Int)
        let per := clampI (u * 995 / 1000) (u * 1005 / 1000) (y.per + c.2)
        let e256 := (err * 256 / y.per).natAbs
        let par := (y.trans + 1) % 2 == 1
        let ahead := decide (err < 0 ∧ y.phase + eyeOne < y.per)
        let (ph, odd) := wrapUi y.per (ph - c.1) (if ahead then !par else par)
        { y with phase := ph, per := per, odd := odd, prev := some w.v, trans := y.trans + 1, sq := y.sq + e256 * e256 }
      else { y with phase := ph, odd := odd, prev := some w.v }

/-- The column of the present phase over one or two UI (R197). -/
def EyeRt.col (y : EyeRt) (xb span : Nat) : Nat :=
  let p := if span = 0 then y.phase % y.per else y.phase % y.per + (if y.odd then y.per else 0)
  (p * xb / (y.per * (span + 1))).toNat

/-- Verdict of the tracker at 1024 transitions: lock, unlock with HIS_EYE (R200). -/
def Eng.eyeVerdict (e : Eng) (h : Fin 8) : Eng :=
  let p := Pg.HIS h
  let y := e.his[h].eye
  if y.trans < 1024 then e
  else
    let rms := isqrt (y.sq / 1024)
    let e1 := (e.onHis h fun r => { r with eye := { r.eye with trans := 0, sq := 0 } }).put p HIS.EYE_STS.PHERR (min rms 255)
    if !e1.bit p HIS.STS.EYE_LOCK ∧ rms < e1.get p HIS.TRACK.LOCK_TH then
      ((e1.put p HIS.STS.EYE_LOCK 1).put p HIS.EYE_STS.LOCK 1).ist p HIS.IST.EYE_LOCK
    else if e1.bit p HIS.STS.EYE_LOCK ∧ e1.get p HIS.TRACK.UNLOCK_TH < rms then
      (((e1.put p HIS.STS.EYE_LOCK 0).put p HIS.EYE_STS.LOCK 0).ist p HIS.IST.EYE_LOST).raise p 1 0 (e1.named p)
    else e1

/-! ### Folding -/

/-- A word offered to a unit: column, row, word, which of a PEAK pair it is, and how many words of its delivery follow it. -/
structure Upd where
  x : Nat
  y : Nat
  w : Int
  pair : Option Bool
  after : Nat
  deriving DecidableEq, Repr

/-- Fold one update (R197, R201, R202, R204). -/
def Eng.fold1 (e : Eng) (h : Fin 8) (d : Upd) : Eng :=
  let p := Pg.HIS h
  let r := e.his[h]
  let t := e.get p HIS.CFG.TYPE
  let e0 := e.add p HIS.HITS.COUNT 1
  if t < 2 then
    let k := d.y * e.hisX h + d.x
    let c := Store.get r.bins k 0
    let e1 := e0.onHis h fun r => { r with bins := Store.put r.bins k (min (c + 1) 0xFFFFFFFF) 0 }
    if c = 0xFFFFFFFE then
      let first := !e1.bit p HIS.STS.SAT
      let e2 := ((e1.inc p HIS.SAT_BINS.COUNT).put p HIS.STS.SAT 1).ist p HIS.IST.SAT
      if first then e2.raise p 0 0 (e2.named p) else e2
    else e1
  else if t = 2 then
    let c := signed 32 (Store.get r.bins d.x 0)
    e0.onHis h fun r => { r with bins := Store.put r.bins d.x (unsigned 32 (c + d.w)) 0 }
  else
    let lo := signed 16 (Store.get r.bins d.x 0x7FFF)
    let hi := signed 16 (Store.get r.mx d.x 0x8000)
    e0.onHis h fun r =>
      { r with
        bins := if d.pair = some true then r.bins else Store.put r.bins d.x (unsigned 16 (min lo d.w)) 0x7FFF
        mx := if d.pair = some false then r.mx else Store.put r.mx d.x (unsigned 16 (max hi d.w)) 0x8000 }

/-- Choose `m` of the offered updates: positions come from `Config.skipPick` (R203; log entry 22). -/
def pickSome (seed : Nat) : Nat → List Upd → List Upd
  | 0, _ => []
  | m + 1, us =>
    match us[Config.skipPick seed m % us.length]? with
    | none => []
    | some u => u :: pickSome seed m (us.eraseIdx (Config.skipPick seed m % us.length))

/-- The unit is held at its record boundary for a commit group (R42). -/
def Eng.hisHeld (e : Eng) (h : Fin 8) : Bool := e.grpReady.any fun x => x.2 == Pg.HIS h

/-- The time of the last word that a delivery folded is TLAST of a free run (R206). -/
def Eng.foldTime (e : Eng) (h : Fin 8) (us : List Upd) : Eng :=
  match us.map (·.after) with
  | [] => e
  | a :: r =>
    let u := fin8 (e.get (Pg.HIS h) HIS.CFG.ACQ)
    let back := r.foldl min a / (if e.acqPair u then 2 else 1)
    let t := roundTb (e.timeOf (e.acqCh u) (e.acq[u].tLast - back * e.acq[u].tStep))
    e.onHis h fun r => { r with tLast := t }

/-- Updates of one delivery reach the unit's queue of 512 (R203). Those that fit are folded, the others are SKIPPED. -/
def Eng.offer (e : Eng) (h : Fin 8) (us : List Upd) : Eng :=
  let p := Pg.HIS h
  let r := e.his[h]
  if e.bit p HIS.CFG.NOCOUNT || e.bit p HIS.STS.DONE then e
  else if e.hisHeld h then e.add p HIS.SKIP.COUNT us.length
  else
    let room := 512 - r.queue
    let (taken, seed) := if us.length ≤ room then (us, r.lfsr) else (pickSome r.lfsr room us, r.lfsr + 1)
    let e1 := e.onHis h fun r => { r with queue := r.queue + taken.length, lfsr := seed }
    let e2 := taken.foldl (fun a d => a.fold1 h d) e1
    let e3 := (e2.add p HIS.SKIP.COUNT (us.length - taken.length)).meterM2 (e2.owner p) taken.length
    if e3.freeRun h then e3.foldTime h taken else e3

/-! ### The tile cache's slots (R203) -/

/-- Slots go in rotating order to the units with updates queued: `(unit, updates)`, the next to be served first. -/
def serveSlots : Nat → List (Nat × Nat) → List (Nat × Nat)
  | 0, qs => qs
  | _, [] => []
  | n + 1, (h, q) :: r => serveSlots n (if q ≤ 1 then r else r ++ [(h, q - 1)])

/-- The channel at whose word the cache counts a CKD cycle: the lowest that feeds a running unit. -/
def Eng.tileCh (e : Eng) : Option (Fin 4) :=
  [0, 1, 2, 3].find? fun c => units8.any fun h => e.his[h].on && e.acqCh (fin8 (e.get (Pg.HIS h) HIS.CFG.ACQ)) == c

/-- One CKD cycle of the tile cache: 32 / CKH.DIV cycles of CKH with 64 slots each. A unit whose next update waits for a tile
from DRAM gets none; which those are is free (log entry 48). The slots of a cycle come before its words (log entry 22). -/
def Eng.tileTick (e : Eng) (c : Fin 4) : Eng :=
  if e.tileCh != some c then e
  else
    let div := max (e.get Pg.CLK CLK.CKH.DIV) 1
    let rs := e.tileRs + 32
    let busy := units8.filter fun h => e.his[h].on && e.his[h].queue != 0
    let e1 := { e with tileRs := rs % div }
    if busy.isEmpty then e1
    else
      let order := (busy.filter fun h => decide (e.tileNext ≤ h.val)) ++ busy.filter fun h => decide (h.val < e.tileNext)
      let qs := (order.filter fun h => !Config.tileMiss (e.freeCtr + h.val)).map fun h => (h.val, e.his[h].queue)
      let left := serveSlots (rs / div * 64) qs
      let e2 := qs.foldl (fun a x => a.onHis (fin8 x.1) fun r => { r with queue := ((left.find? fun y => y.1 == x.1).map (·.2)).getD 0 }) e1
      { e2 with tileNext := (left.head?.map (·.1)).getD e.tileNext, freeCtr := e.freeCtr + 8 }

/-! ### Masks (R207-R209) -/

/-- Bit (x, y) of a compiled zone. -/
def zoneBit (m : List Byte) (i : Nat) : Bool := (m.getD (i / 8) 0).toNat.testBit (i % 8)

/-- Rows of the masks' grid: YBINS whatever the type, since YMAP serves the masks of AVG and ENV (R197, R207). -/
def Eng.maskY (e : Eng) (h : Fin 8) : Nat := e.get (Pg.HIS h) HIS.GRID.YBINS

/-- The enabled zones a word falls in, its row clamped to the grid (R208). -/
def Eng.zones (e : Eng) (h : Fin 8) (x : Nat) (w : Int) : List Nat :=
  let y := (clampI 0 ((e.maskY h : Int) - 1) (e.rowOf h w)).toNat
  (List.range 4).filter fun k =>
    (e.get (Pg.HIS h) HIS.MASK_CTL.ZEN).testBit k && zoneBit (e.his[h].live.getD k []) (y * e.hisX h + x)

/-- What a unit makes of one valid word at a column, `after` words of its delivery following: an update if its row is inside
(else OUTSIDE), and off-piste counts. Answers the zones met, oldest first. -/
def Eng.word1 (e : Eng) (h : Fin 8) (x : Nat) (w : Int) (after : Nat) : Eng × Option Upd × List Nat :=
  let p := Pg.HIS h
  let y := e.rowOf h w
  let z := e.zones h x w
  let e1 := z.foldl (fun a k => a.inc p (HIS.ZCNT.COUNT k)) e
  if 2 ≤ e.get p HIS.CFG.TYPE then (e1, some ⟨x, 0, w, none, after⟩, z)
  else if 0 ≤ y ∧ y < e.hisY h then (e1, some ⟨x, y.toNat, w, none, after⟩, z)
  else (e1.inc p HIS.OUTSIDE.COUNT, none, z)

/-- The words of one delivery in a free run or an eye (R199, R200), the first of them the stored sample `i`: the engine after
them, the updates offered, and the zones met with the stored index of each. -/
def Eng.freeWords (e : Eng) (h : Fin 8) (pair : Bool) (i : Nat) : List Smp → Eng × List Upd × List (Nat × Nat)
  | [] => (e, [], [])
  | s :: rest =>
    let p := Pg.HIS h
    let r := e.his[h]
    let eye := e.get p HIS.CFG.TYPE = 1
    let e1 := if eye then
        let y := r.eye.step (e.get p HIS.EYE_UI.UI) (e.get p HIS.EYE_CFG.BW) (e.getI p HIS.EYE_CFG.THR) s
        (e.onHis h fun r => { r with eye := y }).eyeVerdict h
      else e
    let e2 := e1.onHis h fun r => { r with words := r.words + 1, recW := r.recW + 1 }
    let (e3, us, zs) :=
      if !s.ok then ((e2.inc p HIS.INVALID.COUNT).onHis h fun r => { r with fInv := true }, none, [])
      else if eye ∧ !e2.bit p HIS.STS.EYE_LOCK then (e2.inc p HIS.UNLOCK_SKIP.COUNT, none, [])
      else
        let j := (if pair then r.words - r.words % 2 else r.words) % e.recLen h
        let x := if eye then e2.his[h].eye.col (e.hisX h) (e.get p HIS.EYE_CFG.SPAN) else j / e.get p HIS.XDIV.N
        e2.word1 h x s.v rest.length
    let (e4, us', zs') := e3.freeWords h pair (i + 1) rest
    (e4, us.toList ++ us', zs.map (fun k => (k, i)) ++ zs')

/-- Word `j` of a record whose window starts at the stored sample `start`: the index that gives its column, the same for both
words of a PEAK pair (R214), and which of the pair it is, `true` for the maximum (R178). Pairs lie at even stored indices. -/
def pairCol (pair : Bool) (start : Int) (j : Nat) : Nat := if pair && (start + j) % 2 == 1 then j - 1 else j
def pairHalf (pair : Bool) (start : Int) (j : Nat) : Option Bool := if pair then some ((start + j) % 2 == 1) else none

/-- The words of a triggered record that starts at the stored sample `start`, from its word `j` (R198, R201, R202). Where the
window opens at the second word of a PEAK pair, the pair's words are told apart by their stored index. -/
def Eng.recWords (e : Eng) (h : Fin 8) (pair : Bool) (start : Int) (j : Nat) : List Smp → Eng × List Upd × List (Nat × Nat)
  | [] => (e, [], [])
  | s :: rest =>
    let p := Pg.HIS h
    let (e1, us, zs) :=
      if !s.ok then ((e.inc p HIS.INVALID.COUNT).onHis h fun r => { r with fInv := true }, none, [])
      else e.word1 h (pairCol pair start j / e.get p HIS.XDIV.N) s.v rest.length
    let us := us.map fun d => { d with pair := pairHalf pair start j }
    let (e2, us', zs') := e1.recWords h pair start (j + 1) rest
    (e2, us.toList ++ us', zs.map (fun k => (k, (start + j).toNat)) ++ zs')

/-- Take stored words into the unit's open record, whose next word is `r.got`. HIST folds at once through its queue; AVG
and ENV keep the words until the record has closed. -/
def Eng.recTake (e : Eng) (h : Fin 8) (pair : Bool) (ws : List Smp) : Eng × List (Nat × Nat) :=
  match e.his[h].cur with
  | none => (e, [])
  | some r =>
    let ws := ws.take (r.len - r.got)
    let (e1, us, zs) := e.recWords h pair r.start r.got ws
    let r' := { r with got := r.got + ws.length, inval := r.inval || ws.any (fun s => !s.ok) }
    if e.get (Pg.HIS h) HIS.CFG.TYPE = 0 then ((e1.onHis h fun q => { q with cur := some r' }).offer h us, zs)
    else (e1.onHis h fun q => { q with cur := some { r' with words := r.words ++ ws } }, zs)

/-- Fold the kept words of an AVG or ENV record (R201, R202). -/
def Eng.foldRec (e : Eng) (h : Fin 8) (pair : Bool) (r : Rec) : Eng :=
  let p := Pg.HIS h
  let (us, _) := r.words.foldl (fun (acc : List Upd × Nat) s =>
    let j := acc.2
    let x := pairCol pair r.start j / e.get p HIS.XDIV.N
    (if s.ok then acc.1 ++ [⟨x, 0, s.v, pairHalf pair r.start j, 0⟩] else acc.1, j + 1)) (([] : List Upd), 0)
  if e.bit p HIS.CFG.NOCOUNT || e.bit p HIS.STS.DONE then e
  else (us.foldl (fun a d => a.fold1 h d) e).meterM2 (e.owner p) us.length

/-! ### Results in DRAM (R205, R206) -/

/-- Bytes of a unit's data. -/
def Eng.hisBytes (e : Eng) (h : Fin 8) : Nat := 4 * e.hisX h * e.hisY h

/-- The data image. -/
def Eng.hisData (e : Eng) (h : Fin 8) : List Byte :=
  let r := e.his[h]
  let t := e.get (Pg.HIS h) HIS.CFG.TYPE
  (List.range (e.hisX h * e.hisY h)).flatMap fun k =>
    if t = 3 then leBytes 2 (Store.get r.bins k 0x7FFF) ++ leBytes 2 (Store.get r.mx k 0x8000)
    else leBytes 4 (Store.get r.bins k 0)

/-- The 64-byte summary block (R206). -/
def Eng.summary (e : Eng) (h : Fin 8) : List Byte :=
  let p := Pg.HIS h
  let r := e.his[h]
  let o := e.owner p
  let flags := (e.bit p HIS.STS.SAT).toNat + 2 * r.fCal.toNat + 4 * r.fGd.toNat + 8 * r.fInv.toNat +
    16 * r.partialEnd.toNat + 32 * r.complete.toNat
  let t := e.get p HIS.CFG.TYPE + 4 * e.get p HIS.CFG.FREE + 8 * e.get p HIS.CFG.NOCOUNT + 16 * e.get p HIS.EYE_CFG.SPAN
  let body := leBytes 2 0x4841 ++ leBytes 1 1 ++ leBytes 1 (h.val + 16 * (o % 8)) ++ leBytes 1 t ++ leBytes 1 flags ++
    leBytes 2 (e.hisX h) ++ leBytes 2 (e.hisY h) ++ leBytes 1 r.calqMin ++ leBytes 1 0 ++
    leBytes 4 (e.get (vw o Pg.ENG) ENG.PGEN.COUNT) ++ leBytes 4 (e.get p HIS.RECORDS.COUNT) ++
    leBytes 6 (e.get p HIS.HITS.COUNT) ++ leBytes 6 (e.get p HIS.SKIP.COUNT) ++ leBytes 12 (tb96 r.tLast) ++
    (List.range 4).flatMap fun k => leBytes 4 (e.get p (HIS.ZCNT.COUNT k))
  body ++ leBytes 4 (crc32 body)

/-- The DRAM byte address of an offset, in 256 B units, within a partition's region (R57); the supervisor's own units
address DRAM from its start (DEDUCED, log entry 23). -/
def Eng.regionAddr (e : Eng) (o u256 : Nat) : Nat :=
  (if o < 8 then e.get Pg.PRT (PRT.P_REGION.BASE o) * 2 ^ 28 else 0) + 256 * u256

end Sys2Proof.Machine
end

