-- ==== Sys2Proof/Machine/Acquire.lean ====
section
/-! DEFINITION. What many commands share about acquisitions (R178-R194, R205, R210-R212, R281-R287): commit groups that
end unapplied, stop requests and outruns, storing samples, segments, records and streams, and every way an acquisition
ends; disabling a page; drains; and a PARTITION fault (R76). -/
namespace Sys2Proof.Machine

def Eng.onAcq (e : Eng) (u : Fin 8) (f : AcqRt → AcqRt) : Eng := { e with acq := upd e.acq u f }
def Eng.onTrg (e : Eng) (t : Fin 8) (f : TrgRt → TrgRt) : Eng := { e with trg := upd e.trg t f }
def Eng.onFch (e : Eng) (f : Fin 8) (g : FchRt → FchRt) : Eng := { e with fch := upd e.fch f g }
def Eng.onCnv (e : Eng) (c : Fin 4) (f : CnvRt → CnvRt) : Eng := { e with cnv := upd e.cnv c f }
def Eng.onCal (e : Eng) (c : Fin 4) (f : CalRt → CalRt) : Eng := { e with cal := upd e.cal c f }

def Eng.armed (e : Eng) (u : Fin 8) : Bool := e.bit (Pg.ACQ u) ACQ.STS.ARMED

/-! ### Commit groups (R44, R46) -/

/-- The owner whose pages a view's group names: host and manager act for the supervisor. -/
def viewOwner (v : Nat) : Nat := min v 8

/-- The pages named in a view's GRP_PAGE registers. -/
def Eng.grpMembers (e : Eng) (v : Nat) : List Nat :=
  (List.range 256).filter fun p => (e.get (vw v Pg.ENG) (ENG.GRP_PAGE.PAGES (p / 32))).testBit (p % 32)

def Eng.grpPending (e : Eng) (v : Nat) : Bool := e.bit (vw v Pg.ENG) ENG.GRP_STS.PENDING

/-- A unit held for a group goes on: an acquisition re-arms, a sequencer runs from gate 0 (R42, R46). -/
def Eng.unhold (e : Eng) (p : Nat) : Eng :=
  match kindOf p with
  | .acq =>
    let u := fin8 (p - 0x40)
    if e.acq[u].held then
      let e1 := e.onAcq u fun a => { a with held := false, rearm := true }
      if e1.get p ACQ.STATE.STATE = 5 then e1.put p ACQ.STATE.STATE 4 else e1
    else e
  | .trg =>
    let t := fin8 (p - 0x30)
    let c := fin4 (e.get (Pg.FCH (e.get p TRG.SRC.FCH)) FCH.INPUT.CH)
    if e.trg[t].held then e.onTrg t fun r => { r with held := false, armAt := e.cnv[c].idx, start := true, lead := { r.lead with tmr := 0 } }
    else e
  | _ => e

/-- Release a pending group's members without applying any: shadows are kept, additional tickets returned (R46). -/
def Eng.grpEnd (e : Eng) (v : Nat) : Eng :=
  if e.grpPending v then
    let ms := e.grpMembers v
    let e1 := ms.foldl (fun a p =>
      let q := hdrPage p (viewOwner v)
      (((a.put q HDR.STS.GROUPED 0).put q HDR.STS.PENDING 0).relax p).unhold p) e
    { e1.put (vw v Pg.ENG) ENG.GRP_STS.PENDING 0 with grpReady := e1.grpReady.filter fun x => x.1 != v }
  else e

/-- The group that a page is a pending member of, if any; WCP and EVR belong to each function's own (R47). -/
def Eng.grpOf (e : Eng) (p : Nat) : Option Nat :=
  (List.range 10).find? fun v => e.grpPending v && (e.grpMembers v).contains p && p != Pg.WCP && p != Pg.EVR

def Eng.grpCancelOf (e : Eng) (p : Nat) : Eng :=
  match e.grpOf p with
  | some v => e.grpEnd v
  | none => e

/-! ### Times and sources -/

/-- Segment length in stored samples (R179). -/
def Eng.segLen (e : Eng) (u : Fin 8) : Nat := 64 * e.get (Pg.ACQ u) ACQ.SEG.LEN64

/-- Bits per stored sample. -/
def Eng.acqBits (e : Eng) (u : Fin 8) : Nat := fmtBits (e.get (Pg.ACQ u) ACQ.SRC.FMT)

/-- The stride of a segment in 256 B units (R179). -/
def Eng.stride (e : Eng) (u : Fin 8) : Nat := ceilDiv (e.segLen u * e.acqBits u) 2048

/-- Index of the stored sample whose time is at or before a point (R183). -/
def AcqRt.index (a : AcqRt) (pair : Bool) (t256 : Int) : Int :=
  let w : Int := if pair then 2 else 1
  (a.n : Int) - w + w * ((t256 - a.tLast) / a.tStep)

/-- Stored samples the unit keeps before the newest one: the pretrigger, the longest record pretrigger, and room for the
confirmation (log entry 24). -/
def Eng.keep (e : Eng) (u : Fin 8) : Nat :=
  let recPre := units8.foldl (fun m h => if e.bound u h then max m (e.get (Pg.HIS h) HIS.REC_PRE.WORDS) else m) 0
  max (e.get (Pg.ACQ u) ACQ.PRE.SAMPLES) recPre + 8192

/-- Stored samples from index `i` on, as far as they are kept. -/
def AcqRt.since (a : AcqRt) (i : Int) : List Smp := a.ring.drop (i - ((a.n : Int) - a.ring.length)).toNat

/-- Partition holding XPT with the port enabled (R189 FLAGS[10]). -/
def Eng.mposOk (e : Eng) (o : Nat) : Bool := e.en Pg.XPT && e.owner Pg.XPT == o

/-- POS at the last CKC edge at or before a time, the input filter's delay removed (R278). -/
def Eng.mposAt (e : Eng) (t : Nat) : Int :=
  let i := (e.tb - t) / max e.ckcPeriod 1 - (2 + e.get Pg.XPT XPT.CFG.FILT)
  match e.xpt.hist[i]? with
  | some v => v
  | none => e.xpt.hist.getLastD e.xpt.pos

/-! ### What an acquisition shows -/

/-- STATE of an armed acquisition (R195): OUTRUN; RECORD with a confirmed segment; WAIT with a tentative one; REARM; HELD;
STREAMING where only the stream runs; PREFILL until the pretrigger is full; else WAIT. -/
def Eng.showAcq (e : Eng) (u : Fin 8) : Eng :=
  let p := Pg.ACQ u
  let a := e.acq[u]
  if !e.armed u then e
  else if e.get p ACQ.STATE.STATE = 7 then e
  else
    let s := match a.seg with
      | some g => if g.conf.isSome then 3 else 2
      | none =>
        if a.held then 5 else if a.rearm then 4
        else if !e.bit p ACQ.MODE.CAP ∧ e.bit p ACQ.MODE.STR then 6
        else if a.n - a.avail < e.get p ACQ.PRE.SAMPLES then 1 else 2
    e.put p ACQ.STATE.STATE s

/-- Words of the record window that a triggered unit holds with no record open (R198): its pretrigger, and, where `tent` counts
what an unresolved TENT of the sequencer holds, all stored since the window's start. -/
def Eng.heldWords (e : Eng) (u h : Fin 8) (tent : Bool) : Nat :=
  let a := e.acq[u]
  let pre := e.get (Pg.HIS h) HIS.REC_PRE.WORDS
  let since : Nat := match e.trg[fin8 (e.get (Pg.ACQ u) ACQ.TRIG.TRG)].tent with
    | some c => if tent then ((a.n : Int) - a.index (e.acqPair u) c.t256).toNat else 0
    | none => 0
  min (e.recLen h) (min a.n (pre + since))

/-- Bits of the quota that accumulation unit `h` uses (R198, R213, R215): the window of its open record and of the one that
folds, or what it holds for the next. -/
def Eng.recordBits (e : Eng) (u h : Fin 8) (tent : Bool) : Nat :=
  let r := e.his[h]
  if e.bound u h && r.on && e.trigd h then
    16 * ((match r.cur with | some c => c.got | none => e.heldWords u h tent) + (match r.fold with | some c => c.got | none => 0))
  else 0

/-- Bits of the quota in use. With `tent` false an unresolved tentative segment counts as if it had not been opened (R173, R191,
R195). -/
def Eng.quotaBits (e : Eng) (u : Fin 8) (tent : Bool) : Nat :=
  let p := Pg.ACQ u
  let a := e.acq[u]
  let ring := if e.bit p ACQ.MODE.CAP then min (e.get p ACQ.PRE.SAMPLES) (a.n - a.avail) else 0
  let seg := match a.seg with
    | some g => if g.conf.isSome || tent then g.data.length else ring
    | none => ring
  let closed := a.done.foldl (fun n g => n + g.data.length) 0
  let str := a.blks.foldl (fun n k => n + k.data.length) (match a.cur with | some k => k.data.length | none => 0)
  let recs := if e.bit p ACQ.MODE.ACC then units8.foldl (fun n h => n + e.recordBits u h tent) 0 else 0
  (seg + closed + str) * e.acqBits u + recs - 8 * a.drained

/-- Refresh BUF_FILL and BUF_PEAK (R191, R195). -/
def Eng.showFill (e : Eng) (u : Fin 8) : Eng :=
  let p := Pg.ACQ u
  let f := ceilDiv (e.quotaBits u false) 2048
  (e.put p ACQ.BUF_FILL.BYTES f).put p ACQ.BUF_PEAK.BYTES (max f (e.get p ACQ.BUF_PEAK.BYTES))

/-! ### Closing segments and blocks -/

/-- Close the open segment with what it holds (R183, R188, R191): it waits to be written, SEQ advances, the unit re-arms
and the next pretrigger starts after its last sample. -/
def Eng.closeSeg (e : Eng) (u : Fin 8) (trunc ovf memf : Bool) : Eng :=
  match e.acq[u].seg with
  | none => e
  | some g =>
    (e.onAcq u fun a =>
      { a with
        seg := none
        done := a.done ++ [{ g with trunc := trunc, ovf := ovf, memf := memf, missedD := a.missedD, earlyD := a.earlyD }]
        seq := a.seq + 1, avail := max a.avail (g.start + g.data.length), rearm := true, missedD := 0, earlyD := 0 }).showAcq u

/-- Close the stream block that is being filled (R191, R192). -/
def AcqRt.closeBlk (a : AcqRt) (ovf : Bool) : AcqRt :=
  match a.cur with
  | some k => if k.data = [] then { a with cur := none } else { a with cur := none, blks := a.blks ++ [{ k with ovf := ovf }] }
  | none => a

/-! ### The end of an acquisition -/

/-- AVG_N or REC_LIMIT is reached (R201, R212). -/
def Eng.fullRecords (e : Eng) (h : Fin 8) : Bool :=
  let p := Pg.HIS h
  let n := e.get p HIS.RECORDS.COUNT
  (e.get p HIS.CFG.TYPE == 2 && decide (e.get p HIS.AVG_N.N ≤ n)) ||
  (e.get p HIS.REC_LIMIT.N != 0 && decide (e.get p HIS.REC_LIMIT.N ≤ n))

/-- One more record is folded: RECORDS, IST.REC, and a unit that becomes complete by it, which with CONT folds no more (R212). -/
def Eng.countRecord (e : Eng) (h : Fin 8) : Eng :=
  let p := Pg.HIS h
  let e1 := (e.inc p HIS.RECORDS.COUNT).ist p HIS.IST.REC
  if e1.his[h].complete ∨ !e1.fullRecords h then e1
  else
    let e2 := (e1.onHis h fun r => { r with complete := true }).ist p HIS.IST.DONE
    if e2.bit p HIS.CFG.CONT then e2.put p HIS.STS.DONE 1 else e2

/-- A record folds (R201, R202); a unit with STS.DONE folds no more. -/
def Eng.foldCount (e : Eng) (h : Fin 8) (pair : Bool) (c : Rec) : Eng :=
  if e.bit (Pg.HIS h) HIS.STS.DONE then e else (e.foldRec h pair c).countRecord h

/-- The closed record that folds is complete (R72, R198). -/
def Eng.foldClosed (e : Eng) (h : Fin 8) (pair : Bool) : Eng :=
  match e.his[h].fold with
  | some c => (e.onHis h fun r => { r with fold := none, queue := 0 }).foldCount h pair c
  | none => e

/-- A bound unit at the end (R205, R210, R212): the record that folds is folded to its end; an open one is folded to this point on
the end of R188 (STOP, MASK, and that of an outrun), where an AVG record with an invalid word is skipped, and is dropped
otherwise; a CLEAR that waits takes effect; a snapshot follows, PARTIAL in every case but DONE and STOPPED. -/
def Eng.hisEnd (e : Eng) (h : Fin 8) (pair : Bool) (code : Nat) : Eng :=
  let p := Pg.HIS h
  let e0 := e.foldClosed h pair
  let e1 := match e0.his[h].cur with
    | some c =>
      if code = 2 ∨ code = 11 ∨ code = 12 then
        if e0.get p HIS.CFG.TYPE = 2 ∧ c.inval then e0.inc p HIS.REC_SKIPPED.COUNT else e0.foldCount h pair c
      else e0
    | none => e0
  (e1.onHis h fun r =>
    { r with
      on := false, cur := none, queue := 0, snapping := true, partialEnd := !(code == 1 || code == 2)
      bins := if r.clear then [] else r.bins, mx := if r.clear then [] else r.mx, load := r.load && !r.clear, clear := false }).put
    p HIS.STS.RUN 0

/-- The outrun's own end: cause, log and flags (R286). -/
def Eng.outrunOver (e : Eng) (why : Nat) : Eng :=
  let t := (e.tb - e.xpt.tStart) / (unitsPerMs / 10)
  let e1 := ((e.put Pg.XPT XPT.OUT_STS.STATE 2).put Pg.XPT XPT.OUT_STS.WHY why).put Pg.XPT XPT.STS.OUTRUN 0
  ((e1.put Pg.XPT XPT.OUT_LOG_T.T (min t (2 ^ 20 - 1))).put Pg.XPT XPT.OUT_LOG_D.EDGES e.xpt.edges).ist Pg.XPT XPT.IST.OUT_END

/-- The acquisition in outrun, if any. -/
def Eng.outrunAcq (e : Eng) : Option (Fin 8) :=
  units8.find? fun u => e.armed u && e.get (Pg.ACQ u) ACQ.STATE.STATE == 7

/-- End an acquisition with a status code of R195. A segment still open is discarded; a partial stream block closes; the
unit's event source pulses; bound units snapshot; an outrun that runs ends with cause OTHER unless one was recorded. -/
def Eng.endAcq (e : Eng) (u : Fin 8) (code : Nat) : Eng :=
  if !e.armed u then e
  else
    let p := Pg.ACQ u
    let pair := e.acqPair u
    let out := e.get p ACQ.STATE.STATE = 7
    let e1 := e.onAcq u fun a =>
      { a.closeBlk (a.overrun && code == 3) with
        seg := none, heldTag := none, ending := 0, overrun := false, rearm := false, held := false, post := none }
    let e2 := ((e1.put p ACQ.STS.ARMED 0).put p ACQ.STATE.STATE 0).put p ACQ.STATE.END code
    let e3 := if code = 3 then (e2.put p ACQ.STS.OVERFLOW 1).inc p ACQ.OVF_CNT.COUNT else e2.put p ACQ.STS.OVERFLOW 0
    let e4 := ((e3.ist p ACQ.IST.DONE).pulse (0x50 + u)).showFill u
    let e5 := if e4.bit p ACQ.MODE.ACC then
        units8.foldl (fun a h => if a.bound u h && a.his[h].on then a.hisEnd h pair code else a) e4 else e4
    if out then
      let why := e5.get Pg.XPT XPT.OUT_STS.WHY
      let e6 := e5.outrunOver (if why = 0 then 4 else why)
      if why = 3 then e6.raise Pg.XPT 2 1 (e6.named Pg.XPT) else e6
    else e5

/-- Order an end as CMD.STOP does (R188): a confirmed segment closes with TRUNC, a tentative one waits for its
resolution. -/
def Eng.orderEnd (e : Eng) (u : Fin 8) (code : Nat) : Eng :=
  match e.acq[u].seg with
  | some g =>
    if g.conf.isSome then (e.closeSeg u true false false).endAcq u code
    else e.onAcq u fun a => { a with ending := code }
  | none => e.endAcq u code

/-- Every acquisition whose unit satisfies a test ends with a status. -/
def Eng.endWhere (e : Eng) (q : Fin 8 → Bool) (code : Nat) : Eng :=
  units8.foldl (fun a u => if q u then a.endAcq u code else a) e

/-- A close in the ordinary run of things: after it a suspension or COUNT ends the acquisition (R65, R187, R212); a suspension also
waits for the stream's block. -/
def Eng.closeDone (e : Eng) (u : Fin 8) : Eng :=
  let p := Pg.ACQ u
  let out := e.get p ACQ.STATE.STATE = 7
  let e1 := e.closeSeg u false false false
  let a := e1.acq[u]
  if a.ending = 6 ∧ a.cur.isSome then e1
  else if a.ending ≠ 0 then e1.endAcq u a.ending
  else if !out ∧ !e1.bit p ACQ.SEG_COUNT.WRAP ∧ e1.get p ACQ.SEG_COUNT.COUNT ≤ a.seq then e1.endAcq u 1
  else e1

/-! ### Stop requests and the start of an outrun (R281, R284) -/

def stopBits : List Fld :=
  [XPT.STOPSTS.POR, XPT.STOPSTS.SW, XPT.STOPSTS.MASK, XPT.STOPSTS.EVR, XPT.STOPSTS.OVR, XPT.STOPSTS.TRIP]

def Eng.stopreq (e : Eng) : Bool := stopBits.any fun f => e.bit Pg.XPT f

/-- STS.STOPREQ follows the six request bits; its edges set IST.STOP and IST.RELEASED (R281, R282). -/
def Eng.showStop (e : Eng) : Eng :=
  let was := e.bit Pg.XPT XPT.STS.STOPREQ
  let now := e.stopreq
  let e1 := e.putB Pg.XPT XPT.STS.STOPREQ now
  if now && !was then e1.ist Pg.XPT XPT.IST.STOP else if was && !now then e1.ist Pg.XPT XPT.IST.RELEASED else e1

/-- The outrun acquisition is armed with CAP and its outrun starts (R284). An end that a STOP zone or CMD.STOP has ordered and that
waits for a tentative segment gives way to it (R211, R287). -/
def Eng.outrunStart (e : Eng) : Eng :=
  let u := fin8 (e.get Pg.XPT XPT.OUT_CFG.ACQ)
  let p := Pg.ACQ u
  if e.bit Pg.XPT XPT.OUT_CFG.ACQ_EN && e.armed u && e.bit p ACQ.MODE.CAP then
    let e1 := e.grpCancelOf p
    let e2 := ((e1.put p ACQ.STATE.STATE 7).put Pg.XPT XPT.STS.OUTRUN 1).ist Pg.XPT XPT.IST.OUT_START
    let e3 := ((e2.put Pg.XPT XPT.OUT_STS.STATE 1).put Pg.XPT XPT.OUT_STS.WHY 0).put Pg.XPT XPT.OUT_DONE.COUNT 0
    let e4 := (e3.inc Pg.XPT XPT.OUTRUN_CNT.COUNT).onAcq u fun a =>
      { a with outSlot := 0, post := none, ending := if a.ending = 2 ∨ a.ending = 11 then 0 else a.ending }
    { e4 with xpt := { e4.xpt with tStart := e4.tb, edges := 0, slow := 0 } }
  else e

/-- Latch a stop request: STOPREQ rises if it was low, and an outrun starts then (R281, R284). -/
def Eng.stopReq (e : Eng) (f : Fld) : Eng :=
  if e.stopreq then e.put Pg.XPT f 1 else ((e.put Pg.XPT f 1).showStop).outrunStart

/-- The outrun ends by velocity (1), READY (2) or a full region (3): the end of R188 with status OUTRUN_END (R286). -/
def Eng.outrunEnd (e : Eng) (u : Fin 8) (why : Nat) : Eng := (e.put Pg.XPT XPT.OUT_STS.WHY why).orderEnd u 12

/-- A page that serves the outrun under way: its unit, sequencer, source chain, or XPT (R287). -/
def Eng.servesOutrun (e : Eng) (p : Nat) : Bool :=
  match e.outrunAcq with
  | none => false
  | some u =>
    let a := Pg.ACQ u
    p == a || p == Pg.XPT || (e.bit a ACQ.TRIG.TRG_EN && p == Pg.TRG (e.get a ACQ.TRIG.TRG)) ||
      (e.bit a ACQ.SRC.KIND && p == Pg.FCH (e.get a ACQ.SRC.FCH)) ||
      (e.bit a ACQ.TRIG.TRG_EN && p == Pg.FCH (e.get (Pg.TRG (e.get a ACQ.TRIG.TRG)) TRG.SRC.FCH))

/-! ### Mask actions (R208-R211) -/

/-- One off-piste word of a zone, the stored sample `i`. With several STOP zones the first POST to pass counts. -/
def Eng.offPiste (e : Eng) (u h : Fin 8) (k i : Nat) : Eng :=
  let p := Pg.HIS h
  let e1 := if e.bit p (HIS.ZACT.EVENT k) then e.pulse (0x58 + h) else e
  if e1.acq[u].actDone.contains (h, k) then e1
  else
    let e2 := e1.onAcq u fun a => { a with actDone := (h.val, k) :: a.actDone }
    let e3 := if e2.bit p (HIS.ZACT.EVENT k) then e2.ist p HIS.IST.OFFP else e2
    let e4 := if e3.bit p (HIS.ZACT.XSTOP k) ∧ e3.owner Pg.XPT = e3.owner p then e3.stopReq XPT.STOPSTS.MASK else e3
    if e4.bit p (HIS.ZACT.STOP k) ∧ e4.get (Pg.ACQ u) ACQ.STATE.STATE ≠ 7 then
      let lim := i + 1 + e4.get p (HIS.ZACT.POST k)
      e4.onAcq u fun a => { a with post := some ((a.post.map fun l => min l lim).getD lim) }
    else e4

def Eng.offPistes (e : Eng) (u h : Fin 8) (zs : List (Nat × Nat)) : Eng :=
  zs.foldl (fun a z => a.offPiste u h z.1 z.2) e

/-! ### Overflow (R191) -/

/-- The quota's occupancy would exceed it. -/
def Eng.overQuota (e : Eng) (u : Fin 8) : Bool :=
  e.armed u && decide (8 * 2 ^ 20 * e.get (Pg.ACQ u) ACQ.BUF.MIB < e.quotaBits u true)

/-- The quota is exceeded: no sample is accepted any more, the segment and block in flight are cut with OVF, records not yet
folded are dropped (R215), and the end waits for the buffered data (ACQ_OVERFLOW_END). -/
def Eng.overflow (e : Eng) (u : Fin 8) : Eng :=
  let p := Pg.ACQ u
  let e1 := e.onAcq u fun a => { a.closeBlk true with overrun := true, ending := 3 }
  let e2 := match e1.acq[u].seg with
    | some g => if g.conf.isSome then e1.closeSeg u false true false else e1
    | none => e1
  let e3 := units8.foldl (fun a h => if a.bound u h && a.trigd h then
      a.onHis h fun r => { r with cur := none, fold := none, queue := 0, partialEnd := r.partialEnd || r.cur.isSome || r.fold.isSome }
    else a) e2
  ((e3.ist p ACQ.IST.OVF).raise p 0 0 (e3.named p)).showFill u

/-- A delivery that the quota takes is accepted; of one that it does not, no sample is, from this CKD cycle on (R191). -/
def Eng.accept (e : Eng) (u : Fin 8) (f : Eng → Eng) : Eng :=
  if !e.armed u || e.acq[u].overrun then e
  else
    let e1 := f e
    if e1.overQuota u then e.overflow u else (e1.showAcq u).showFill u

/-! ### Segments -/

/-- GDREF of the chain that is captured (R151, R189). -/
def Eng.srcGdref (e : Eng) (u : Fin 8) : Bool :=
  e.bit (Pg.ACQ u) ACQ.SRC.KIND && e.bit (Pg.FCH (e.get (Pg.ACQ u) ACQ.SRC.FCH)) FCH.STS.GDREF

/-- Marks a segment takes at its trigger (R189): CAL_Q and CALSTARVED of the channel, GDREF of the chain, PGEN, the medium position. They are taken
when the CONF arrives, and so is PGEN: a commit that applies between the TENT and the CONF counts (R43; DESIGN CHOICE, log
entry 67). -/
def Eng.segMarks (e : Eng) (u : Fin 8) (g : Seg) (t : Nat) : Seg :=
  let c := e.acqCh u
  let o := e.owner (Pg.ACQ u)
  { g with
    calq := e.get (Pg.CAL c) CAL.QUAL.CAL_Q, calstv := e.bit (Pg.CAL c) CAL.STS.CALSTARVED, gdref := e.srcGdref u
    pgen := e.get (vw o Pg.ENG) ENG.PGEN.COUNT, mpos := e.mposAt t, mposOk := e.mposOk o }

def Seg.blank (seq slot : Nat) : Seg :=
  { slot := slot, seq := seq, trg := 0, start := 0, len := 0, tag := 0, data := [], conf := none, preAct := 0, early := false
    ovf := false, trunc := false, memf := false, runout := false, outSlot := none, calstv := false, calq := 0, pgen := 0
    mpos := 0, mposOk := false, gdref := false, missedD := 0, earlyD := 0 }

/-- The slot of the next segment (R187), or its outrun slot (R285). -/
def Eng.nextSeg (e : Eng) (u : Fin 8) : Seg :=
  let a := e.acq[u]
  let p := Pg.ACQ u
  let s := if e.bit p ACQ.SEG_COUNT.WRAP then a.seq % max (e.get p ACQ.SEG_COUNT.COUNT) 1 else a.seq
  if e.get p ACQ.STATE.STATE = 7 then { Seg.blank a.seq s with outSlot := some a.outSlot, runout := true }
  else Seg.blank a.seq s

/-- An outrun segment opens: OUT_FIRST is the SEQ of outrun slot 0 (R285). -/
def Eng.opened (e : Eng) (u : Fin 8) (g : Seg) : Eng :=
  let e1 := (e.onAcq u fun a => { a with seg := some g, outSlot := if g.outSlot.isSome then a.outSlot + 1 else a.outSlot }).showAcq u
  if g.outSlot = some 0 then e1.put Pg.XPT XPT.OUT_FIRST.SEQ g.seq else e1

/-- The outrun region is full for a further segment (R286). -/
def Eng.outFull (e : Eng) (u : Fin 8) : Bool :=
  e.get (Pg.ACQ u) ACQ.STATE.STATE == 7 && decide (e.get Pg.XPT XPT.OUT_SLOTS.N ≤ e.acq[u].outSlot)

/-- CONT outrun: stored samples fill segments back to back, each opening at the sample after the last (R285). -/
def Eng.contStore (u : Fin 8) : Nat → List Smp → Eng → Eng
  | 0, _, e => e
  | _, [], e => e
  | k + 1, ws, e =>
    if !e.armed u then e
    else
      match e.acq[u].seg with
      | none =>
        if e.outFull u then e.outrunEnd u 3
        else
          let start := e.acq[u].n - ws.length
          let t256 := e.acq[u].tLast - (ws.length - 1) * e.acq[u].tStep
          let t := e.timeOf (e.acqCh u) t256
          let g : Seg := { e.nextSeg u with start := start, len := e.segLen u, conf := some ⟨0, 0, roundTb t, t256, 0, false, true, true⟩ }
          contStore u k ws (e.opened u (e.segMarks u g t))
      | some g =>
        let m := g.len - g.data.length
        let e1 := e.onAcq u fun a => { a with seg := some { g with data := g.data ++ ws.take m } }
        if ws.length < m then e1 else contStore u k (ws.drop m) (e1.closeDone u)

/-- Append stored samples to the open segment. -/
def Seg.take (g : Seg) (i0 : Nat) (ws : List Smp) : Seg :=
  let from' := g.start + g.data.length - i0
  { g with data := g.data ++ (ws.drop from').take (g.len - g.data.length) }

/-- The unit captures an outrun in CONT mode. -/
def Eng.contMode (e : Eng) (u : Fin 8) : Bool := e.get (Pg.ACQ u) ACQ.STATE.STATE == 7 && e.bit Pg.XPT XPT.OUT_CFG.MODE

/-- The samples of a delivery go to the ring and, with MODE.CAP, to the segment. -/
def Eng.storeCap (e : Eng) (u : Fin 8) (tLast : Int) (tStep : Nat) (ws : List Smp) : Eng :=
  let i0 := e.acq[u].n
  let keep := e.keep u
  let e1 := e.onAcq u fun a =>
    let r := a.ring ++ ws
    { a with ring := r.drop (r.length - keep), n := a.n + ws.length, tLast := tLast, tStep := tStep }
  if !e1.bit (Pg.ACQ u) ACQ.MODE.CAP then e1
  else
    match e1.acq[u].seg with
    | some g =>
      let e2 := e1.onAcq u fun a => { a with seg := some (g.take i0 ws) }
      let m := g.len - g.data.length
      if e1.contMode u && decide (m ≤ ws.length) && g.conf.isSome then Eng.contStore u (ws.length + 1) (ws.drop m) (e2.closeDone u) else e2
    | none => if e1.contMode u then Eng.contStore u (2 * ws.length + 2) ws e1 else e1

/-- The words of a delivery, from the stored sample `i0`, go to the running accumulation units. -/
def Eng.storeAcc (e : Eng) (u : Fin 8) (pair : Bool) (i0 : Nat) (ws : List Smp) : Eng :=
  units8.foldl (fun a h =>
    if a.bound u h && a.his[h].on then
      if a.freeRun h then
        let (b, us, zs) := a.freeWords h pair i0 ws
        (b.offer h us).offPistes u h zs
      else
        match a.his[h].cur with
        | some r =>
          let (b, zs) := a.recTake h pair (ws.drop (r.start + r.got - i0).toNat)
          b.offPistes u h zs
        | none => a
    else a) e

/-- Stored samples of the Capture source reach the acquisition: its ring and segment (MODE.CAP) and the bound accumulation
units (MODE.ACC), as far as the quota takes them (R178, R183, R191, R196-R199). -/
def Eng.acqStore (e : Eng) (u : Fin 8) (pair : Bool) (tLast : Int) (tStep : Nat) (ws : List Smp) : Eng :=
  e.accept u fun e =>
    let e1 := e.storeCap u tLast tStep ws
    if e1.armed u && e1.bit (Pg.ACQ u) ACQ.MODE.ACC then e1.storeAcc u pair e.acq[u].n ws else e1

/-- The counters of an accumulation unit that clear at arm (R218). -/
def hisArmClear : List Fld :=
  [HIS.HITS.COUNT, HIS.SKIP.COUNT, HIS.REC_MISSED.COUNT, HIS.REC_SKIPPED.COUNT, HIS.OUTSIDE.COUNT, HIS.INVALID.COUNT,
   HIS.SAT_BINS.COUNT, HIS.UNLOCK_SKIP.COUNT, HIS.ZCNT.COUNT 0, HIS.ZCNT.COUNT 1, HIS.ZCNT.COUNT 2, HIS.ZCNT.COUNT 3,
   HIS.RECORDS.COUNT, HIS.STS.DONE, HIS.STS.SAT, HIS.STS.EYE_LOCK, HIS.EYE_STS.LOCK, HIS.EYE_STS.PHERR]

/-- An accumulation unit starts: at the arm of its acquisition, or where it is enabled or bound while that is armed (R196; log
entry 80). It has held no word yet. -/
def Eng.hisStart (e : Eng) (u h : Fin 8) : Eng :=
  let p := Pg.HIS h
  let c := e.acqCh u
  let fr := e.freeRun h
  let e1 := hisArmClear.foldl (fun a f => a.put p f 0) e
  let e2 := e1.onHis h fun r =>
    { HisRt.fresh with
      on := true, load := e.bit p HIS.CFG.KEEP, recEnd := e.acq[u].n, shad := r.shad, live := r.live, loading := r.loading
      image := r.image, badCol := r.badCol
      eye := { EyeRt.fresh with per := 2 ^ 32 * e.get p HIS.EYE_UI.UI }, lfsr := e.get p HIS.SKIPSEL.SEED
      fCal := fr && e.bit (Pg.CAL c) CAL.STS.CALSTARVED, fGd := fr && e.srcGdref u
      calqMin := if fr then e.get (Pg.CAL c) CAL.QUAL.CAL_Q else 255 }
  e2.put p HIS.STS.RUN 1

/-- A unit's enable and binding have changed: it runs exactly while its acquisition is armed with MODE.ACC (R196). One that no
longer does stops where it is. -/
def Eng.hisRun (e : Eng) (h : Fin 8) (was : Nat) : Eng :=
  let p := Pg.HIS h
  let u := fin8 (e.get p HIS.CFG.ACQ)
  let want := e.bound u h && e.armed u && e.bit (Pg.ACQ u) ACQ.MODE.ACC
  let e1 := if e.his[h].on && !(want && was == u) then
      (e.onHis h fun r => { r with on := false, cur := none, queue := 0 }).put p HIS.STS.RUN 0 else e
  if want && !e1.his[h].on then e1.hisStart u h else e1

/-- The live configuration of an acquisition has changed: its accumulation units start or stop with MODE.ACC (R196). -/
def Eng.hisRuns (e : Eng) (u : Fin 8) : Eng :=
  units8.foldl (fun a (h : Fin 8) => if a.get (Pg.HIS h) HIS.CFG.ACQ = u.val then a.hisRun h u.val else a) e

/-! ### TENT, CONF and VOID at the acquisition units (R183-R186, R198) -/

/-- The unit takes its triggers from sequencer `t`. -/
def Eng.listens (e : Eng) (u : Fin 8) (t : Nat) : Bool :=
  e.armed u && e.bit (Pg.ACQ u) ACQ.TRIG.TRG_EN && e.get (Pg.ACQ u) ACQ.TRIG.TRG == t

/-- A TENT at one unit: a tentative segment opens, or the unit remembers why none did (R183, R185, R186). In an outrun whose region
is full it shows nothing: only its CONF needs a further slot (R173, R286). -/
def Eng.acqTent (e : Eng) (u : Fin 8) (t tag : Nat) (tc256 : Int) : Eng :=
  let p := Pg.ACQ u
  let a := e.acq[u]
  if !e.listens u t || !e.bit p ACQ.MODE.CAP || e.contMode u || a.overrun || a.ending != 0 then e
  else if a.seg.isSome || a.rearm || a.held then e.onAcq u fun a => { a with heldTag := some (tag, .busy) }
  else
    let pre := e.get p ACQ.PRE.SAMPLES
    let ti := a.index (e.acqPair u) tc256
    let want := ti - pre
    let full := decide ((a.avail : Int) ≤ want)
    if !full && !e.bit p ACQ.MEM_SIZE.EARLY then e.onAcq u fun a => { a with heldTag := some (tag, .short) }
    else if e.outFull u then e.onAcq u fun a => { a with heldTag := some (tag, .full) }
    else
      let start := max want a.avail
      let len := (want + e.segLen u - start).toNat
      let g0 := { e.nextSeg u with trg := t, tag := tag, start := start.toNat, len := len, early := !full }
      e.opened u { g0 with data := (a.since start).take len }

/-- A CONF at one unit: the tentative segment is confirmed, with PGEN as it stands at the CONF (DESIGN CHOICE, log entry 67), or a
MISSED or an EARLY is counted (R183, R185, R186). -/
def Eng.acqConf (e : Eng) (u : Fin 8) (c : Conf) : Eng :=
  let p := Pg.ACQ u
  let a := e.acq[u]
  let miss (e : Eng) : Eng := (e.inc p ACQ.MISSED.COUNT).onAcq u fun a => { a with missedD := a.missedD + 1, heldTag := none }
  match a.seg with
  | some g =>
    if g.conf = none ∧ g.trg = c.trg ∧ g.tag = c.tag then
      let pi := a.index (e.acqPair u) c.t256 - g.start
      let g1 := e.segMarks u { g with conf := some c, preAct := pi.toNat } c.tb
      let e1 := (e.onAcq u fun a => { a with seg := some g1 }).showAcq u
      if a.overrun then e1.closeSeg u false true false
      else if a.ending ≠ 0 ∧ a.ending ≠ 6 then (e1.closeSeg u true false false).endAcq u a.ending
      else e1
    else if e.listens u c.trg ∧ e.bit p ACQ.MODE.CAP ∧ !e.contMode u then miss e else e
  | none =>
    if !e.armed u ∨ !e.bit p ACQ.MODE.CAP ∨ e.contMode u then e
    else
      match a.heldTag with
      | some (tag, why) =>
        if tag = c.tag ∧ e.listens u c.trg then
          match why with
          | .short => (e.inc p ACQ.EARLY_CNT.COUNT).onAcq u fun a => { a with earlyD := a.earlyD + 1, heldTag := none }
          | .full => (e.onAcq u fun a => { a with heldTag := none }).outrunEnd u 3
          | .busy => miss e
        else e
      | none => if e.listens u c.trg ∧ (a.rearm ∨ a.held) then miss e else e

/-- A VOID at one unit: its tentative segment is released, and nothing records it (R173, R183). -/
def Eng.acqVoid (e : Eng) (u : Fin 8) (t tag : Nat) : Eng :=
  let a := e.acq[u]
  match a.seg with
  | some g =>
    if g.conf = none ∧ g.trg = t ∧ g.tag = tag then
      let e1 := (e.onAcq u fun a => { a with seg := none, outSlot := if g.outSlot.isSome then a.outSlot - 1 else a.outSlot }).showAcq u
      if a.ending ≠ 0 ∧ !a.overrun ∧ (a.ending ≠ 6 ∨ a.cur.isNone) then e1.endAcq u a.ending else e1
    else e
  | none => if a.heldTag.map (·.1) = some tag then e.onAcq u fun a => { a with heldTag := none } else e

/-- Cut a list into pieces of at most `k`. -/
def chunks (k : Nat) : Nat → List Smp → List (List Smp)
  | 0, _ => []
  | _, [] => []
  | n + 1, ws => ws.take (max k 1) :: chunks k n (ws.drop (max k 1))

/-- A CONF opens a triggered record in a bound unit, or counts REC_MISSED: where one is open, where its window reaches before the
unit's start, and where it would overlap the last record in time (R198; log entry 80); the words of its window already stored
are taken now, one CKD cycle's worth at a time. -/
def Eng.hisConf (e : Eng) (u h : Fin 8) (c : Conf) : Eng :=
  let p := Pg.HIS h
  if !(e.bound u h && e.his[h].on && e.trigd h) then e
  else
    let a := e.acq[u]
    let pair := e.acqPair u
    let start := a.index pair c.t256 - e.get p HIS.REC_PRE.WORDS
    if e.his[h].cur.isSome || e.hisHeld h || decide (start < e.his[h].recEnd) then e.inc p HIS.REC_MISSED.COUNT
    else
      let ch := e.acqCh u
      let e1 := e.onHis h fun r =>
        { r with
          cur := some ⟨start, e.recLen h, 0, [], c.tb, false⟩, recEnd := start + e.recLen h, tLast := c.tb, fGd := r.fGd || e.srcGdref u
          fCal := r.fCal || e.bit (Pg.CAL ch) CAL.STS.CALSTARVED, calqMin := min r.calqMin (e.get (Pg.CAL ch) CAL.QUAL.CAL_Q) }
      let held := a.since start
      (chunks (e.wordLen ch) (held.length + 1) held).foldl (fun b ws =>
        let (b', zs) := b.recTake h pair ws
        b'.offPistes u h zs) e1

/-- A CONF at every acquisition unit and every accumulation unit bound to one (R170, R183, R198, R214). -/
def Eng.confAll (e : Eng) (c : Conf) : Eng :=
  units8.foldl (fun a u =>
    let lis := a.listens u c.trg
    let a1 := a.acqConf u c
    if lis && a1.armed u && a1.bit (Pg.ACQ u) ACQ.MODE.ACC then units8.foldl (fun b h => b.hisConf u h c) a1 else a1) e

/-! ### Streams (R192, R193) -/

/-- Samples a stream block holds: a block of 2^BLK bytes, less its header in a DRAM ring. -/
def Eng.blkSamples (e : Eng) (u : Fin 8) : Nat :=
  let p := Pg.ACQ u
  let hdr := if e.bit p ACQ.STR_CFG.DEST then 0 else 32
  8 * (2 ^ e.get p ACQ.STR_CFG.BLK - hdr) / e.acqBits u

/-- Outputs of the stream's chain enter blocks; `t256` is the point of the first and `step` their distance. A suspended stream
begins no further block (R65). -/
def Eng.strTake (u : Fin 8) (f : Nat) (step : Nat) (pair : Bool) : Nat → Int → List Smp → Eng → Eng
  | 0, _, _, e => e
  | _, _, [], e => e
  | k + 1, t256, ws, e =>
    let a := e.acq[u]
    if a.ending == 6 && a.cur.isNone then e else
    let b := e.blkSamples u
    let c := fin4 (e.get (Pg.FCH f) FCH.INPUT.CH)
    let blk : Blk := match a.cur with
      | some x => x
      | none => ⟨a.bseq, [], roundTb (e.timeOf c t256), e.get (Pg.CAL c) CAL.QUAL.CAL_Q,
          e.get (vw (e.owner (Pg.ACQ u)) Pg.ENG) ENG.PGEN.COUNT, false, false, false⟩
    let m := max (b - blk.data.length) 1
    let blk' := { blk with data := blk.data ++ ws.take m, gdref := blk.gdref || e.bit (Pg.FCH f) FCH.STS.GDREF }
    let adv : Int := (if pair then m / 2 else m) * step
    if ws.length < m then e.onAcq u fun a => { a with cur := some blk', bseq := if a.cur.isSome then a.bseq else a.bseq + 1 }
    else strTake u f step pair k (t256 + adv) (ws.drop m)
      (e.onAcq u fun a => { a with cur := none, blks := a.blks ++ [blk'], bseq := if a.cur.isSome then a.bseq else a.bseq + 1 })

/-- The unit streams chain `f`. -/
def Eng.streams (e : Eng) (u : Fin 8) (f : Nat) : Bool :=
  e.armed u && e.bit (Pg.ACQ u) ACQ.MODE.STR && e.get (Pg.ACQ u) ACQ.SRC.FCH == f && !e.acq[u].overrun

/-! ### Use of a page by an acquisition, and disabling a page -/

/-- The armed acquisition uses the page (R56, R59): its own unit, its channel's, chain's, sequencer's or ring's page, or a
bound accumulation unit. -/
def Eng.usesPage (e : Eng) (u : Fin 8) (p : Nat) : Bool :=
  let a := Pg.ACQ u
  let f := e.get a ACQ.SRC.FCH
  let chain := e.bit a ACQ.SRC.KIND || e.bit a ACQ.MODE.STR
  let t := e.get a ACQ.TRIG.TRG
  let trig := e.bit a ACQ.TRIG.TRG_EN
  let chF := e.get (Pg.FCH f) FCH.INPUT.CH
  let chT := e.get (Pg.FCH (e.get (Pg.TRG t) TRG.SRC.FCH)) FCH.INPUT.CH
  let chs := (if e.bit a ACQ.SRC.KIND then [] else [e.get a ACQ.SRC.CH]) ++ (if chain then [chF] else []) ++ (if trig then [chT] else [])
  e.armed u &&
  match kindOf p with
  | .acq => p == a
  | .cnv => chs.contains (p - 0x10)
  | .cal => chs.contains (p - 0x18)
  | .fch => (chain && f == p - 0x20) || (trig && e.get (Pg.TRG t) TRG.SRC.FCH == p - 0x20)
  | .trg => trig && t == p - 0x30
  | .his => e.bit a ACQ.MODE.ACC && e.bound u (fin8 (p - 0x48))
  | .dmq => e.bit a ACQ.MODE.STR && e.bit a ACQ.STR_CFG.DEST &&
      2 * e.owner a + e.get a ACQ.STR_CFG.RING == p - 0x88
  | _ => false

/-- What a block does when CTL.EN falls: CTL.EN 0, tickets returned (R83), its running state ended. -/
def Eng.switchOff (e : Eng) (p : Nat) : Eng :=
  let e1 := (e.put p HDR.CTL.EN 0).release p
  match kindOf p with
  | .cnv =>
    let c := fin4 (p - 0x10)
    ((((e1.put p CNV.STS.UP 0).put p CNV.STS.CLIP 0).put (p + 8) CAL.STS.RUN 0).onCnv c fun r => { r with upWait := false, past := [] }).onCal c fun r =>
      { r with dirty := false, pend := none }
  | .cal =>
    let e2 := ((e1.put p CAL.STS.RUN 0).put p CAL.STS.HELD 1).put p CAL.STS.REWARM 0
    ((((e2.put p CAL.LOOPSTS.OFS 3).put p CAL.LOOPSTS.GAIN 3).put p CAL.LOOPSTS.BW 3).put p CAL.LOOPSTS.SKEW 3).onCal (fin4 (p - 0x18)) fun r =>
      { r with pend := none, dirty := false }
  | .fch =>
    let e2 := (((e1.put p FCH.STS.RUN 0).put p FCH.STS.PK_VALID 0).put p FCH.STS.RMS_VALID 0).put p FCH.STS.ENV_VALID 0
    e2.onFch (fin8 (p - 0x20)) fun r => { r with run := false }
  | .trg =>
    let e2 := (((e1.put p TRG.STS.SYNC_LOCK 0).put p TRG.VID_POS.LINE 0).put p TRG.VID_POS.FIELD 0).put p TRG.STS.HOLDOFF 0
    e2.onTrg (fin8 (p - 0x30)) fun r => { r with due := none, abort := r.abort || r.tent.isSome, hold := false, force := false, rearm := false }
  | .his => e1.put p HIS.STS.RUN 0
  | .dmq => e1.put p DMQ.STS.RUN 0
  | .mcv => { e1.put p MCV.STS.SCANNING 0 with
              mcv := { e1.mcv with run := e1.mcv.run.filter fun c => c.src != 5, redo := none } }
  | .xpt => e1.put p XPT.STS.RUN 0
  | .sfe =>
    let i := fin4 (p - 0x79)
    let m := e1.sfe[i].faults &&& 5
    let e2 := (((e1.put p SFE.STS.RUN 0).put p SFE.STS.CHECKING 0).put p SFE.RESULT.VALID 0).putB p SFE.RESULT.FAULT (m != 0)
    { e2 with sfe := upd e2.sfe i fun _ => ⟨true, false, false, m, false⟩ }
  | .mln0 => ((e1.put p MLN0.STS.FRAMED 0).put p MLN0.STS.POSITIONED 0).put p MLN0.STS.ALIGNED 0
  | _ => e1

/-- Disable a page: acquisitions that use it end with `code` (all users where it is taken away; on OFF the acquisition of
an ACQ page, and that of a bound HIS page), then the block switches off. -/
def Eng.disable (e : Eng) (p code : Nat) : Eng :=
  let hit (u : Fin 8) : Bool :=
    e.usesPage u p && (code != 13 || kindOf p == .acq || kindOf p == .his)
  (e.endWhere hit code).switchOff p

/-! ### Drains (R72, R73) -/

def Eng.startDrain (e : Eng) (n : Nat) (why : DrainWhy) : Eng :=
  let e1 := { e with drains := e.drains ++ [⟨n, why⟩] }
  if n < 8 then e1.put Pg.PRT PRT.STS.DRAINING (e1.get Pg.PRT PRT.STS.DRAINING ||| 2 ^ n) else e1

/-- A drain of this kind runs. -/
def Eng.drainsFor (e : Eng) (w : DrainWhy) : Bool := e.drains.any fun d => d.why == w

/-! ### Leases and PARTITION faults (R70, R76) -/

/-- The leased resources in LEASE_STATE order: XPT, MLN0, MLN1, SFE0-SFE3 (R78). -/
def leasePage (r : Nat) : Nat := if r = 0 then Pg.XPT else if r = 1 then Pg.MLN0 else if r = 2 then Pg.MLN1 else Pg.SFE (r - 3)

def leaseOf (p : Nat) : Option Nat := (List.range 7).find? fun r => leasePage r == p

def Eng.leaseState (e : Eng) (r : Nat) : Nat := e.get Pg.PRT (PRT.LEASE_STATE.STATE r)

/-- Every ACTIVE lease of a partition becomes LAPSED (R70): IST.LAPSE, LAPSE_CNT and LEASE_LAPSE. -/
def Eng.lapse (e : Eng) (n : Nat) : Eng :=
  let rs := (List.range 7).filter fun r => e.owner (leasePage r) == n && e.leaseState r == 1
  if rs = [] then e
  else
    let e1 := rs.foldl (fun a r => a.put Pg.PRT (PRT.LEASE_STATE.STATE r) 2) e
    ((e1.inc Pg.PRT (PRT.LAPSE_CNT.COUNT n)).prtIst n PRT.IST.LAPSE).raise Pg.PRT 0 0 n

/-- The partition becomes FAULTED: its acquisitions and streams end FAULT and its leases lapse. RESETTING is kept, and
FAULTED stays (R76, R391). -/
def Eng.partFault (e : Eng) (n : Nat) : Eng :=
  if e.partState n = 1 ∨ e.partState n = 2 then
    let e1 := e.put Pg.PRT (PRT.P_STATE.STATE n) 4
    (e1.endWhere (fun u => e1.owner (Pg.ACQ u) == n) 7).lapse n
  else e

/-- Raise a fault; at PARTITION severity the named partition becomes FAULTED (R382). -/
def Eng.raiseP (e : Eng) (page index sev part : Nat) : Eng :=
  let e1 := e.raise page index sev part
  if sev = 2 ∧ part < 8 then e1.partFault part else e1

end Sys2Proof.Machine
end

