-- ==== Sys2Proof/Machine/Startup.lean ====
section
/-! DEFINITION. Start-up states of pages, changes of owner, revocation, the end of a drain, partition reset and
destruction (R51, R54-R59, R64, R72-R74, R396). -/
namespace Sys2Proof.Machine

/-- Drop the live fields and shadows of a page whose offset satisfies a test: they read their reset values again. -/
def Eng.clearOff (e : Eng) (p : Nat) (q : Nat → Bool) : Eng :=
  let keep (x : Nat × Nat) : Bool := x.1 / 524288 != p || !q (x.1 / 128 % 4096)
  { e with live := e.live.filter keep, shad := e.shad.filter keep }

/-- Comparator channel `n` returns to start-up (R269): its block and its bits; thresholds at code 0, sources at 0. -/
def Eng.wcpStart (e : Eng) (n : Nat) : Eng :=
  let p := Pg.WCP
  let e1 := e.clearOff p fun o => (decide (0x100 + 0x20 * n ≤ o ∧ o < 0x120 + 0x20 * n)) || o == 0xE00 + 4 * n
  let off (f : Fld) (a : Eng) : Eng := a.put p f (a.get p f &&& (255 - 2 ^ n))
  let e2 := (off WCP.STS.VALID (off WCP.STS.DACBAD e1)).put p (WCP.LIVE.STATE n) 0
  ({ e2 with wcp := upd e2.wcp (fin8 n) fun r => { WcpRt.fresh with vd := r.vd } }).relax p

/-- Comparator channel `n` is disabled: its sources read 0 and the page's ticket follows (R261, R270). -/
def Eng.wcpDisable (e : Eng) (n : Nat) : Eng :=
  let p := Pg.WCP
  let e1 := ((e.put p (WCP.CH_CFG.EN n) 0).put p (WCP.CH_STS.VALID n) 0).put p (WCP.LIVE.STATE n) 0
  (e1.put p WCP.STS.VALID (e1.get p WCP.STS.VALID &&& (255 - 2 ^ n))).relax p

/-- Destination `d` returns to start-up (R269): it selects ZERO; a destination with an EVIO ball makes it an input. A
resolution it still owes is delivered (R266). -/
def Eng.evrStart (e : Eng) (d : Nat) : Eng :=
  let p := Pg.EVR
  let e1 := e.clearOff p fun o => decide (0x100 + 8 * d ≤ o ∧ o < 0x108 + 8 * d)
  if 48 ≤ d then e1.put p EVR.EVIO_DIR.OUT (e1.get p EVR.EVIO_DIR.OUT &&& (65535 - 2 ^ (d - 48))) else e1

/-- The corrections of a channel's cores, core 0 first: offset, gain, bandwidth, skew (R119); zero for a core that does not
serve the channel (R139). -/
def Eng.putCores (e : Eng) (c : Fin 4) (rows : List (List Int)) : Eng :=
  (List.range 16).foldl (fun a k =>
    let r := if (coresIn e.dev.ly6440 e.arr c).contains k then rows.getD k [] else []
    (((a.putI (Pg.CAL c) (CAL.CORE.OFS k) (r.getD 0 0)).putI (Pg.CAL c) (CAL.CORE.GAIN k) (r.getD 1 0)).putI
      (Pg.CAL c) (CAL.CORE.BW k) (r.getD 2 0)).putI (Pg.CAL c) (CAL.CORE.SKEW k) (r.getD 3 0)) e

/-- A page returns to its start-up state: every field at its reset value, its running state empty, no tickets, no pending
commit (R392, R396). `blk` marks a block reset, which keeps a chain's coefficient RAM (R148). What a page keeps is kept:
a channel's sample count, a tentative trigger that must still resolve (R173), OVR at XPT, and the levels of input balls. -/
def Eng.pageStart (e : Eng) (blk : Bool) (p : Nat) : Eng :=
  let e0 := (e.grpCancelOf p).release p
  let clr := e0.clearPage p
  match kindOf p with
  | .cnv => clr.onCnv (fin4 (p - 0x10)) fun r => { r with upWait := false, clipN := 0, clipT := 0, left := 0, past := [] }
  | .cal =>
    let c := fin4 (p - 0x18)
    let e1 := clr.onCal c fun r => { CalRt.fresh with snap := r.snap, powered := r.powered }
    let e2 := (e1.put p CAL.STS.WARM_OK (e.get p CAL.STS.WARM_OK)).put p CAL.STS.CONVERGED 0
    e2.putCores c e.cal[c].snap
  | .fch =>
    let f := fin8 (p - 0x20)
    if blk then
      let e1 := e0.keeping p [FCH.COEF_CFG.LEN, FCH.COEF_CFG.SYM, FCH.COEF_CFG.PHASE] fun a => a.clearPage p
      e1.onFch f fun r => { FchRt.fresh with coef := r.coef }
    else clr.onFch f fun _ => FchRt.fresh
  | .trg => clr.onTrg (fin8 (p - 0x30)) fun r =>
      { TrgRt.fresh with tent := r.tent, tentTag := r.tentTag, abort := r.abort || r.tent.isSome }
  | .acq => clr.onAcq (fin8 (p - 0x40)) fun _ => AcqRt.fresh
  | .his => clr.onHis (fin8 (p - 0x48)) fun _ => HisRt.fresh
  | .mcv => { clr with mcv := McvRt.fresh }
  | .wcp => (List.range 8).foldl (fun a n => a.wcpStart n) clr
  | .evr => e0.keeping p [EVR.EVIO_IN.LEVEL] fun a => a.clearPage p
  | .xpt =>
    let e1 := e0.keeping p [XPT.STOPSTS.OVR, XPT.STS.READY] fun a => a.clearPage p
    { e1 with xpt := { XptRt.fresh with a := e.xpt.a, b := e.xpt.b, idx := e.xpt.idx, ctl := e.xpt.ctl } }
  | .sfe => { clr with sfe := upd clr.sfe (fin4 (p - 0x79)) fun _ => SfeRt.fresh }
  | .dmq => { clr with dmq := Vector.ofFn fun i => if i.val = p - 0x88 then DmqRt.fresh else clr.dmq[i] }
  | .mln0 => { clr with mln := { MlnRt.fresh with tx := clr.mln.tx, armT := clr.mln.armT } }
  | .mln1 => { clr with mln := { clr.mln with tx := [], armT := 0 } }
  | _ => clr

/-! ### Owners -/

/-- Set the owner code of a page's resource (R53): CAL follows its CNV. -/
def Eng.setOwner (e : Eng) (p o : Nat) : Eng :=
  match kindOf p with
  | .cnv => e.put Pg.PRT (PRT.GRANT_CNV.OWNER (p - 0x10)) o
  | .fch => e.put Pg.PRT (PRT.GRANT_FCH.OWNER (p - 0x20)) o
  | .trg => e.put Pg.PRT (PRT.GRANT_TRG.OWNER (p - 0x30)) o
  | .acq => e.put Pg.PRT (PRT.GRANT_ACQ.OWNER (p - 0x40)) o
  | .his => e.put Pg.PRT (PRT.GRANT_HIS.OWNER (p - 0x48)) o
  | .sfe => e.put Pg.PRT (PRT.GRANT_SFE.OWNER (p - 0x79)) o
  | .mln0 => e.put Pg.PRT (PRT.GRANT_MLN.OWNER 0) o
  | .mln1 => e.put Pg.PRT (PRT.GRANT_MLN.OWNER 1) o
  | .xpt => e.put Pg.PRT PRT.GRANT_XPT.OWNER o
  | _ => e

/-- A grant takes effect: a leased resource starts ACTIVE (R54, R70); the partition sees a grant change (class 0, R61). -/
def Eng.granted (e : Eng) (p o : Nat) : Eng :=
  let e1 := e.setOwner p o
  let e2 := match leaseOf p with
    | some r => e1.put Pg.PRT (PRT.LEASE_STATE.STATE r) (if o < 8 then 1 else 0)
    | none => e1
  if o < 8 then e2.msgClass o 0 else e2

/-- Partitions tap the channel (R58). -/
def Eng.tapped (e : Eng) (c : Nat) : Bool := e.get Pg.PRT (PRT.TAP_CNV.TAP c) != 0

/-- The pages a grant of a page covers: CNVn brings CALn. -/
def withCal (p : Nat) : List Nat := if kindOf p = .cnv then [p, p + 8] else [p]

/-- A pending group of owner `o` (8: of anyone) with the page in it is cancelled (R47, R56, R396). -/
def Eng.grpCancelPart (e : Eng) (p o : Nat) : Eng :=
  (List.range 10).foldl (fun a v =>
    if a.grpPending v && (a.grpMembers v).contains p && (o == 8 || viewOwner v == o) then a.grpEnd v else a) e

/-- Begin a revocation (R56, R71, R74): a resource whose revocation drains is left alone, a leased one keeps its outputs while it drains,
a tapped channel passes to the supervisor running, one that serves an outrun waits for its end (R287); any other is
disabled, its acquisitions end REVOKED, and it drains. A pending group that it or the channel's CAL page belongs to is
cancelled. -/
def Eng.revokeNow (e : Eng) (p : Nat) : Eng :=
  let o := e.owner p
  if 8 ≤ o ∨ e.drainsFor (.revoke p) then e
  else
    let e0 := (withCal p).foldl (fun a q => a.grpCancelOf q) e
    match leaseOf p with
    | some r => (e0.put Pg.PRT (PRT.LEASE_STATE.STATE r) 3).startDrain o (.revoke p)
    | none =>
      if kindOf p = .cnv ∧ e0.tapped (p - 0x10) then (e0.granted p 8).msgClass o 0
      else if e0.servesOutrun p then { e0 with xpt := { e0.xpt with deferred := e0.xpt.deferred ++ [(1, p)] } }
      else (((withCal p).foldl (fun a q => a.disable q 4) e0).startDrain o (.revoke p)).msgClass o 0

/-- An order to revoke; it has no effect on what already drains in its owner's reset (R74), which leased resources do not. -/
def Eng.revoke (e : Eng) (p : Nat) : Eng :=
  if e.drains.contains ⟨e.owner p, .reset⟩ && (leaseOf p).isNone then e else e.revokeNow p

/-- A channel that an FCH, ACQ or TRG page of owner `o` selects (R59). -/
def Eng.selects (e : Eng) (o c p : Nat) : Bool :=
  e.owner p == o &&
  match kindOf p with
  | .fch => e.get p FCH.INPUT.CH == c
  | .acq => (!e.bit p ACQ.SRC.KIND && e.get p ACQ.SRC.CH == c) || (e.bit p ACQ.SRC.KIND && e.get (Pg.FCH (e.get p ACQ.SRC.FCH)) FCH.INPUT.CH == c)
  | .trg => e.get (Pg.FCH (e.get p TRG.SRC.FCH)) FCH.INPUT.CH == c
  | .his => e.bit p HIS.CFG.BIND && e.acqCh (fin8 (e.get p HIS.CFG.ACQ)) == fin4 c
  | _ => false

/-- Disable every enabled consumer of a channel that belongs to a partition, as in a revocation (R59). -/
def Eng.dropConsumers (e : Eng) (n c : Nat) : Eng :=
  ((List.range 8).flatMap fun i => [Pg.ACQ i, Pg.HIS i, Pg.FCH i, Pg.TRG i]).foldl
    (fun a p => if a.selects n c p && a.en p then a.disable p 4 else a) e

/-! ### The end of a drain (R73) -/

/-- No descriptor of the partition's rings is left to return (R72). -/
def Eng.ringsDone (e : Eng) (n : Nat) : Bool :=
  (List.range 16).all fun i =>
    let p := Pg.DMQ i
    e.owner p != n || !e.en p || e.bit p DMQ.STS.HALTED || e.get p DMQ.HEAD.IDX == e.get p DMQ.TAIL.IDX

/-- Nothing of a partition's waits in the capture buffer, no snapshot of its units is unwritten, and no descriptor of its
rings is unreturned (R72). -/
def Eng.drained (e : Eng) (n : Nat) : Bool :=
  e.ringsDone n &&
  units8.all fun u =>
    (e.owner (Pg.ACQ u) != n || (e.acq[u].done.isEmpty && e.acq[u].blks.isEmpty)) &&
    (e.owner (Pg.HIS u) != n || !e.his[u].snapping)

/-- What follows the end of one drain: the page of a revocation returns to start-up and passes to the supervisor (R56),
a leased one passes with its outputs as they are (R71), a cleared tap bit falls (R58). -/
def Eng.drainEnds (e : Eng) (d : Drain) : Eng :=
  match d.why with
  | .revoke p =>
    match leaseOf p with
    | some _ => (e.granted p 8).msgClass d.part 0
    | none => (((withCal p).foldl (fun a q => a.pageStart false q) e).granted p 8).msgClass d.part 0
  | .wcp n => (e.wcpStart n).put Pg.PRT (PRT.GRANT_WCP.OWNER n) 8
  | .evr x => (e.evrStart x).put Pg.PRT (PRT.GRANT_EVR.OWNER x) 8
  | .tap c => e.put Pg.PRT (PRT.TAP_CNV.TAP c) (e.get Pg.PRT (PRT.TAP_CNV.TAP c) &&& (255 - 2 ^ d.part))
  | .reset => e
  | .blk _ => e

/-- Every drain of partition `n` (8: the supervisor's) ends: DRAINING(n) clears and DRAIN_DONE(n) is set (R73). -/
def Eng.endDrains (e : Eng) (n : Nat) : Eng :=
  let mine := e.drains.filter fun d => d.part == n
  if mine = [] then e
  else
    let e1 := { e with drains := e.drains.filter fun d => d.part != n, drainB := Store.put e.drainB n 0 0 }
    let e2 := mine.foldl (fun a d => a.drainEnds d) e1
    if n < 8 then
      (e2.put Pg.PRT PRT.STS.DRAINING (e2.get Pg.PRT PRT.STS.DRAINING &&& (255 - 2 ^ n))).prtIst n PRT.IST.DRAIN_DONE
    else e2

/-- KiB that an acquisition and a unit still hold, rounded up. -/
def Eng.leftKib (e : Eng) (n : Nat) : Nat :=
  let bits := units8.foldl (fun (s : Nat) (u : Fin 8) =>
    let a := e.acq[u]
    let m := a.done.foldl (fun k g => k + g.data.length) 0 + a.blks.foldl (fun k b => k + b.data.length) 0
    let s1 := if e.owner (Pg.ACQ u) = n then s + m * e.acqBits u - 8 * a.drained else s
    if e.owner (Pg.HIS u) = n ∧ e.his[u].snapping then s1 + 8 * (e.hisBytes u + 256) else s1) 0
  ceilDiv bits 8192

/-- The data a drain has not yet written is discarded and counted, and DRAIN_DROP is raised (R73, R76). -/
def Eng.dropData (e : Eng) (n : Nat) : Eng :=
  let kib := e.leftKib n
  let e1 := units8.foldl (fun a u =>
    let a1 := if a.owner (Pg.ACQ u) = n then a.onAcq u fun r => { r with done := [], blks := [], drained := 0 } else a
    if a1.owner (Pg.HIS u) = n then a1.onHis u fun r => { r with snapping := false } else a1) e
  if kib = 0 ∨ 8 ≤ n then e1 else
    ((e1.add Pg.PRT (PRT.DRAIN_DROP.KIB n) kib).prtIst n PRT.IST.DRAIN_DROP).raise Pg.PRT 1 1 n

/-- A drain reaches a limit: the remaining data is discarded, then the drain ends (R73). -/
def Eng.dropDrain (e : Eng) (n : Nat) : Eng :=
  if e.drains.any (fun d => d.part == n) then (e.dropData n).endDrains n else e

/-! ### Partition reset (R64) and destruction (R51) -/

def allPages : List Nat :=
  [0x10, 0x11, 0x12, 0x13] ++ (List.range 8).map Pg.FCH ++ (List.range 8).map Pg.TRG ++ (List.range 8).map Pg.ACQ ++
  (List.range 8).map Pg.HIS ++ (List.range 16).map Pg.DMQ ++ (List.range 4).map Pg.SFE ++ [Pg.MLN0, Pg.MLN1, Pg.XPT]

/-- The pages a partition owns, CNV standing for its CAL too. -/
def Eng.owned (e : Eng) (n : Nat) : List Nat := allPages.filter fun p => e.owner p == n

/-- Block resets of a partition's pages are abandoned for a wider reset (R397). -/
def Eng.dropBlk (e : Eng) (n : Nat) : Eng :=
  let l := e.rst.blk.filter fun x => !(x.2 == n && (x.1 == Pg.WCP || x.1 == Pg.EVR)) && e.owner x.1 != n
  { e.putB Pg.RST RST.STS.BLK_BUSY (!l.isEmpty) with rst := { e.rst with blk := l } }

/-- Step 1 of a partition reset, and the start of its drain: RESETTING; acquisitions end RESET, one in outrun apart
(R287); the pending group is cancelled; leases lapse. A running reset absorbs it (R64, R74, R397). -/
def Eng.partReset (e : Eng) (n : Nat) : Eng :=
  if n < e.nParts ∧ e.partState n ≠ 0 ∧ e.partState n ≠ 3 then
    let e1 := e.put Pg.PRT (PRT.P_STATE.STATE n) 3
    let e2 := e1.endWhere (fun u => e1.owner (Pg.ACQ u) == n && !(e1.outrunAcq == some u)) 5
    (((e2.dropBlk n).grpEnd n).lapse n).startDrain n .reset
  else e

/-- Step 3 for one owned page: start-up and tickets back, unless it is leased, a tapped channel, or serves an outrun. XU is
cleared on every page the partition owns. -/
def Eng.resetOwned (e : Eng) (p : Nat) : Eng :=
  if (leaseOf p).isSome then e.put p HDR.CTL.XU 0
  else if kindOf p = .cnv ∧ e.tapped (p - 0x10) then ((e.put p HDR.CTL.XU 0).put (p + 8) HDR.CTL.XU 0).granted p 8
  else if e.servesOutrun p then { e with xpt := { e.xpt with deferred := e.xpt.deferred ++ [(2, p)] } }
  else (withCal p).foldl (fun a q => (a.switchOff q).pageStart false q) e

/-- Steps 3 and 4 of a partition reset, after its drain (R64); a lease that was granted meanwhile lapses with the others. -/
def Eng.partResetDone (e : Eng) (n : Nat) : Eng :=
  if e.partState n = 3 ∧ !e.drains.any (fun d => d.part == n) then
    let e1 := (e.owned n).foldl (fun a p => a.resetOwned p) e
    let e2 := (List.range 8).foldl (fun a w => if a.wcpOwner w = n then a.wcpStart w else a) e1
    let e3 := (List.range 64).foldl (fun a d => if a.evrOwner d = n then a.evrStart d else a) e2
    ((e3.lapse n).put Pg.PRT (PRT.P_STATE.STATE n) 1).prtIst n PRT.IST.RESET_DONE
  else e

/-- Revoke every grant of a partition (R51 step 1). -/
def Eng.revokeAll (e : Eng) (n : Nat) : Eng :=
  let e1 := (e.grpEnd n)
  let e2 := ((e1.owned n).filter fun p => kindOf p != .dmq).foldl (fun a p => a.revoke p) e1
  if e2.drains.contains ⟨n, .reset⟩ then e2
  else
    let e4 := (List.range 8).foldl (fun a w =>
      if a.wcpOwner w = n ∧ !a.drainsFor (.wcp w) then (a.wcpDisable w).startDrain n (.wcp w) else a) e2
    (List.range 64).foldl (fun a d => if a.evrOwner d = n ∧ !a.drainsFor (.evr d) then a.startDrain n (.evr d) else a) e4

/-- What a partition still holds when its destruction ends (a reset that drained it first leaves it its resources) passes to
the supervisor as at the end of a revocation (R51, R56, R71). -/
def Eng.handBack (e : Eng) (n : Nat) : Eng :=
  let page (a : Eng) (p : Nat) : Eng :=
    if (leaseOf p).isSome ∨ (kindOf p = .cnv ∧ a.tapped (p - 0x10)) then a.granted p 8
    else ((withCal p).foldl (fun b q => (b.switchOff q).pageStart false q) a).granted p 8
  let e1 := ((e.owned n).filter fun p => kindOf p != .dmq).foldl page e
  let e2 := (List.range 8).foldl (fun a w => if a.wcpOwner w = n then (a.wcpStart w).put Pg.PRT (PRT.GRANT_WCP.OWNER w) 8 else a) e1
  (List.range 64).foldl (fun a d => if a.evrOwner d = n then (a.evrStart d).put Pg.PRT (PRT.GRANT_EVR.OWNER d) 8 else a) e2

/-- The fields of a partition's block at their reset values, its taps and region gone: state NONE (R51). -/
def Eng.partNone (e : Eng) (n : Nat) : Eng :=
  let e1 := [2 * n, 2 * n + 1].foldl (fun a i => (a.switchOff (Pg.DMQ i)).pageStart false (Pg.DMQ i)) e
  let e2 := e1.clearOff Pg.PRT fun o => decide (0x100 + 0x40 * n ≤ o ∧ o < 0x140 + 0x40 * n)
  (List.range 4).foldl (fun a c =>
    a.put Pg.PRT (PRT.TAP_CNV.TAP c) (a.get Pg.PRT (PRT.TAP_CNV.TAP c) &&& (255 - 2 ^ n))) e2

/-! ### Block reset, step 1 (R396) -/

/-- The block is disabled: an acquisition that uses it ends RESET, and its completed data drain. Of WCP and EVR the part of
owner `o` is taken (8: all of the page); a pending group with the page in it is cancelled. -/
def Eng.blkBegin (e : Eng) (p o : Nat) : Eng :=
  if p = Pg.WCP ∨ p = Pg.EVR then
    let e1 := e.grpCancelPart p o
    if p = Pg.WCP then (List.range 8).foldl (fun a n => if o = 8 ∨ a.wcpOwner n = o then a.wcpDisable n else a) e1 else e1
  else (e.disable p 5).startDrain (e.owner p) (.blk p)

/-- Orders that waited for the end of an outrun take effect (R287). -/
def Eng.runDeferred (e : Eng) : Eng :=
  if e.outrunAcq = none ∧ e.xpt.deferred ≠ [] then
    e.xpt.deferred.foldl (fun a d =>
      if d.1 = 0 then a.disable d.2 13
      else if d.1 = 1 then a.revokeNow d.2
      else if d.1 = 3 then a.blkBegin d.2 8
      else (withCal d.2).foldl (fun b q => ((b.disable q 5).pageStart false q)) a)
      { e with xpt := { e.xpt with deferred := [] } }
  else e

end Sys2Proof.Machine
end

