-- ==== Sys2Proof/Machine/Gate.lean ====
section
/-! DEFINITION. Who may order what: the checks that every access meets before its own, in the order of R36 (R30, R31,
R64, R66-R70, R322, R401), and the frame that a command of a register's command bit runs in. -/
namespace Sys2Proof.Machine

/-- Round a quotient to the nearest integer, ties away from zero (DESIGN CHOICE, log entry 6). -/
def rdiv (a b : Int) : Int :=
  if b ≤ 0 then 0 else if 0 ≤ a then (2 * a + b) / (2 * b) else -((2 * (-a) + b) / (2 * b))

/-- Pages of which every function has a view or a part: ENG, PRT, WCP, EVR (R31, R47, R49, R61, R70). -/
def sharedPage (p : Nat) : Bool :=
  match kindOf p with
  | .eng | .prt | .wcp | .evr => true
  | _ => false

/-- Words of a supervisor's page that every function has in its own view and writes there: PCI's interrupt status, window
and mark (R330), FLT.CMD (R386) and RST.BLK (R396). -/
def viewWord (p off : Nat) : Bool :=
  match kindOf p with
  | .pci => off == 0x18 || off == 0x1C || off == 0x48 || off == 0x4C || off == 0x50 || off == 0xE04
  | .flt => off == 0x44
  | .rst => off == 0x48
  | _ => false

/-- An access that never reaches the page: the port before RS lock (R322), an unimplemented or fused-off page (R3, R30), or a page that the
requester does not own (R31, R66, R67); of a partition that is not created only ENG and PRT are seen (R50). `safe` marks CTL.EN = 0 and CTL.ABORT, which the supervisor may write anywhere. -/
def Eng.denied (e : Eng) (who : Src) (p off : Nat) (safe : Bool) : Option Eng :=
  let o := e.owner p
  if e.bit Pg.SPI SPI.STS.PRELOCK then some { e with resp := ⟨2, []⟩ }
  else if kindOf p = .none ∨ e.fusedOff p then some { e with resp := ⟨0, [0]⟩ }
  else
    match who with
    | .part n =>
      if p == Pg.ENG || p == Pg.PRT || (e.created n && (sharedPage p || viewWord p off || o == n.val)) then none
      else some (e.notOwner who off)
    | .host => if o = 8 ∨ safe then none else some (e.notOwner who off)
    | .manager => if o = 8 ∧ p ≠ Pg.PRT then none else some (e.notOwner who off)

/-- The partition holds a tap on the channel of a CNV or CAL page (R31, R58). -/
def Eng.tapOf (e : Eng) (p n : Nat) : Bool :=
  match kindOf p with
  | .cnv => e.taps (p - 0x10) n
  | .cal => e.taps (p - 0x18) n
  | _ => false

/-- A read that never reaches the page: as `denied`, but the supervisor and the manager read every page (R66, R67), a tap
opens CNV and CAL (R31), and ENG, FLT and SPI are served before RS lock (R322). Every function reads FROM and TIM (R53, R365) and
its view of BUD, FLT and RST (R97, R403, R404). -/
def Eng.readDenied (e : Eng) (who : Src) (p off : Nat) : Option Eng :=
  if e.bit Pg.SPI SPI.STS.PRELOCK ∧ p ≠ Pg.ENG ∧ p ≠ Pg.FLT ∧ p ≠ Pg.SPI then some { e with resp := ⟨2, []⟩ }
  else if kindOf p = .none ∨ e.fusedOff p then some { e with resp := ⟨0, [0]⟩ }
  else
    match who with
    | .part n =>
      if p == Pg.ENG || p == Pg.PRT || (e.created n && (sharedPage p || viewWord p off ||
          [Pg.FROM, Pg.TIM, Pg.BUD, Pg.FLT, Pg.RST].contains p || e.owner p == n.val || e.tapOf p n)) then none
      else
        let e1 := e.notOwner who off
        some { e1 with resp := ⟨3, [0]⟩ }
    | _ => none

/-- Pages that take writes before READY (R401). -/
def earlyPage (p : Nat) : Bool :=
  match kindOf p with
  | .flt | .rst | .tim | .usage | .bud | .spi | .key => true
  | _ => false

/-- BUSY that meets every write of a requester: READY is 0 (R401), the requester's partition is RESETTING (R64, R68), or the
page is leased and its lease LAPSED or DRAINING (R37, R70). -/
def Eng.busyFor (e : Eng) (who : Src) (p : Nat) : Bool :=
  (!e.ready && !earlyPage p) ||
  (match who with
   | .part n => e.partState n == 3
   | _ => false) ||
  (match leaseOf p with
   | some r => e.owner p == who.owner && decide (2 ≤ e.leaseState r)
   | none => false)

/-- The requester's partition is SUSPENDED: its arms and enables are refused BUSY (R65). -/
def Eng.suspended (e : Eng) (who : Src) : Bool :=
  match who with
  | .part n => e.partState n == 2
  | _ => false

/-- The frame of a command that a register's command bit gives: refused by the first check it fails in the order of R36,
else taken. -/
def Eng.order (e : Eng) (who : Src) (p off : Nat) (range busy : Bool) (act : Eng → Eng) : Eng :=
  match e.denied who p off false with
  | some e' => e'
  | none =>
    if range then e.refuse who p off .range
    else if busy || e.busyFor who p then e.refuse who p off .busy
    else act { e with resp := ⟨0, []⟩ }

end Sys2Proof.Machine
end

