-- ==== Sys2Proof/Machine/Stage.lean ====
section
/-! DEFINITION. Applying shadows and what a commit leaves behind (R39-R43, R47). -/
namespace Sys2Proof.Machine

/-- Page and offset of a key of the register store. -/
def keyPage (k : Nat) : Nat := k / 524288
def keyOff (k : Nat) : Nat := k / 128 % 4096

/-- The shadow under a key is one of page `p` that an offset test selects; the header below 0x040 stages nothing (R33). -/
def shadSel (p : Nat) (q : Nat → Bool) (k : Nat) : Bool := keyPage k == p && decide (0x40 ≤ keyOff k) && q (keyOff k)

/-- Shadows of a page that an offset test selects. -/
def Eng.shadOf (e : Eng) (p : Nat) (q : Nat → Bool) : Store := e.shad.filter fun x => shadSel p q x.1

/-- Copy the selected shadows of a page to its live values, together. -/
def Eng.applyShad (e : Eng) (p : Nat) (q : Nat → Bool) : Eng :=
  let xs := e.shadOf p q
  { e with
    live := xs.foldr (fun x s => Store.put s x.1 x.2 (resetVal p ⟨keyOff x.1, x.1 % 128, 0⟩)) e.live
    shad := e.shad.filter fun x => !shadSel p q x.1 }

/-- The part of a page that owner `o` stages: all of it, but on WCP and EVR the channels and destinations `o` owns (R47);
`o` = 8 has the rest of those pages. -/
def Eng.partOf (e : Eng) (p o off : Nat) : Bool :=
  if p = Pg.WCP then
    if 0x100 ≤ off ∧ off < 0x200 then e.wcpOwner ((off - 0x100) / 0x20) == o else o == 8
  else if p = Pg.EVR then
    if 0x100 ≤ off ∧ off < 0x300 then e.evrOwner ((off - 0x100) / 8) == o
    else if off = 0x40 then true else o == 8
  else true

/-- DIRTY of a page in a function's view: a shadow differs from its live value (R33, R47). -/
def Eng.dirty (e : Eng) (p o : Nat) : Bool := !(e.shadOf p (e.partOf p o)).isEmpty

/-- PGEN of an owner counts one more commit or group (R43). -/
def Eng.pgen (e : Eng) (o : Nat) : Eng := e.wrap (vw o Pg.ENG) ENG.PGEN.COUNT

/-- What the page shows once a commit of owner `o` has applied: PENDING and GROUPED clear, GEN counts, CMT_DONE (R40, R45). -/
def Eng.commitShown (e : Eng) (p o : Nat) : Eng :=
  let q := hdrPage p o
  (((e.put q HDR.STS.PENDING 0).put q HDR.STS.GROUPED 0).wrap q HDR.GEN.COUNT).ist q HDR.IST.CMT_DONE

/-- The shadows that owner `o` stages on a page apply together, and the page shows it; need that falls returns tickets (R83). -/
def Eng.applied (e : Eng) (p o : Nat) : Eng := ((e.applyShad p (e.partOf p o)).commitShown p o).relax p

/-- A shadow of the page differs from its live value in a word that a test selects. -/
def Eng.shadAt (e : Eng) (p : Nat) (q : Nat → Bool) : Bool := !(e.shadOf p q).isEmpty

end Sys2Proof.Machine
end

