-- ==== Sys2Proof/Machine/Sequence.lean ====
section
/-! DEFINITION. One evaluator of a sequencer (R160-R164, R169): the sync separator, crossings with hysteresis, the gate
types and the branches of a gate. A lead and a check run the same functions on their own points. -/
namespace Sys2Proof.Machine

/-- A point an evaluator takes: the words a rising and a falling test read (both the value, or the maximum and the minimum
of a PEAK pair), VALID, its time in 1/256 channel samples, and how many samples it advances the counts by (R158, R160). -/
structure Pt where
  hi : Int
  lo : Int
  ok : Bool
  t256 : Int
  adv : Nat
  deriving DecidableEq, Repr

/-! ### The sync separator (R164) -/

/-- The settings of a separator. -/
structure SyncCfg where
  per : Nat
  slice : Int
  hyst : Int
  tri : Bool
  lpf : Nat
  two : Bool
  first : Nat
  min : Nat
  deriving DecidableEq, Repr

def Eng.syncCfg (e : Eng) (t : Fin 8) : SyncCfg :=
  let p := Pg.TRG t
  { per := e.get p TRG.SYNC_LINE.PER, slice := e.getI p TRG.SYNC_LVL.SLICE, hyst := e.get p TRG.SYNC_LVL.HYST
    tri := e.bit p TRG.SYNC_FRAME.FMT, lpf := e.get p TRG.SYNC_FRAME.LPF, two := e.bit p TRG.SYNC_FRAME.INTERLACE
    first := e.get p TRG.SYNC_FRAME.FIRST, min := e.get p TRG.SYNC_BROAD.MIN }

/-- `x` lies within 2 % of a line of `c`. -/
def SyncCfg.near (k : SyncCfg) (x c : Nat) : Bool :=
  decide (50 * x ≤ 50 * c + k.per) && decide (50 * c ≤ 50 * x + k.per)

/-- First broad line of field 2. -/
def SyncCfg.first2 (k : SyncCfg) : Nat := (k.first + k.lpf / 2 - 1) % max k.lpf 1 + 1

/-- A line start: the next line of the frame, its field, and whether a field starts there. -/
def SyncRt.newLine (s : SyncRt) (k : SyncCfg) : SyncRt :=
  let ln := if s.line = 0 then 0 else s.line % max k.lpf 1 + 1
  let f1 := ln != 0 && ln == k.first
  let f2 := ln != 0 && k.two && ln == k.first2
  let good := s.good + 1
  { s with
    since := 0, good := good, miss := 0, lock := s.lock || decide (8 ≤ good), line := ln
    field := if f1 then 1 else if f2 then 2 else s.field
    plain := if s.broad then 0 else s.plain + 1, broad := false, start := true, fstart := f1 || f2 }

/-- A broad pulse that began `b` samples after the line start: after eight lines without one it starts a field (R164), which the
line count has announced at the line start or which is found here (log entry 79). -/
def SyncRt.broadAt (s : SyncRt) (k : SyncCfg) (b : Nat) : SyncRt :=
  if s.broad then s
  else
    let s' := { s with broad := true }
    let at' (f ln : Nat) : SyncRt := { s' with field := f, line := ln, fstart := s.fstart || !(s.field == f && s.line == ln) }
    if s.plain < 8 then s'
    else if !k.two ∨ k.near b 0 then at' 1 k.first
    else if k.near b (k.per / 2) then at' 2 k.first2
    else s'

/-- A line start that was due and did not come. -/
def SyncRt.missed (s : SyncRt) (k : SyncCfg) : SyncRt :=
  if k.per + k.per / 50 < s.since ∧ (s.good ≠ 0 ∨ s.lock) then
    let m := s.miss + 1
    let s' := { s with since := s.since - k.per, miss := m, good := 0, line := if s.line = 0 then 0 else s.line % max k.lpf 1 + 1 }
    if 4 ≤ m then { s' with lock := false, line := 0, field := 0, miss := 0, plain := 0 } else s'
  else s

/-- Advance the separator by one point. -/
def SyncRt.step (s : SyncRt) (k : SyncCfg) (p : Pt) : SyncRt :=
  if k.per = 0 then SyncRt.fresh
  else
    let s0 := { s with since := s.since + p.adv, start := false, fstart := false }
    if !p.ok then { s0 with armed := false, inLow := false, low := 0 }.missed k
    else
      let edge := s.armed && (if k.tri then decide (k.slice ≤ p.hi) else decide (p.lo ≤ k.slice))
      let armed := if k.tri then decide (p.hi ≤ k.slice - k.hyst) || (s.armed && !edge)
        else decide (k.slice + k.hyst ≤ p.lo) || (s.armed && !edge)
      let low := if k.tri then (if s.inLow then decide (p.hi < k.slice) else decide (p.hi ≤ k.slice - k.hyst))
        else (if s.inLow then decide (p.lo ≤ k.slice) else edge)
      let w := if s.inLow then s.low + p.adv else 0
      let s1 := { s0 with armed := armed, inLow := low, low := if low then w else 0 }
      let s2 := if edge then
          if s.good = 0 ∧ !s.lock ∧ !k.near s1.since k.per then { s1 with since := 0, good := 0, plain := 0 }
          else if k.near s1.since k.per then s1.newLine k
          else s1
        else s1
      let s3 := if s.inLow ∧ s.low ≤ k.min ∧ k.min < w then s2.broadAt k (s2.since - w) else s2
      s3.missed k

/-- The check of a VSYNC gate: at a line start, and for a field start that no line start announced where it is found (R164;
log entry 79). -/
def SyncRt.matches (s : SyncRt) (vm line field : Nat) : Bool :=
  s.lock &&
  (if vm = 0 then s.start
   else if vm = 1 then s.start && s.line == line && line != 0
   else if vm = 2 then s.start && s.line == line && line != 0 && (field == 0 || s.field == field)
   else s.fstart && (field == 0 || s.field == field))

/-! ### Crossings and gate types (R162, R163) -/

/-- What a gate's condition does with a point: the evaluator's crossing state after it, the level crossed where the condition
occurred (none for an occurrence that is not interpolated), and by how many samples the occurrence precedes the point. -/
structure Occ where
  r : EvRt
  hit : Bool
  lvl : Option Int
  back : Nat
  deriving DecidableEq, Repr

/-- A destination of the event router is 1 in this CKC cycle. -/
def Eng.dst (e : Eng) (d : Nat) : Bool := e.evr.dst.contains d

/-- A destination's value at sample `i` of a channel: that of the latest cycle whose events reach the sequencers at or before it
(R158). -/
def Eng.dstAt (e : Eng) (c : Fin 4) (d : Nat) (i : Int) : Bool :=
  match e.evr.log.find? (fun x => decide ((x.2.getD c 0 : Int) ≤ i)) with
  | some x => x.1.contains d
  | none => e.evr.log.isEmpty && e.dst d

/-- How many samples before sample `i` the destination took the value it has there, up to `m`. -/
def Eng.dstBack (e : Eng) (c : Fin 4) (d : Nat) (i : Int) (m : Nat) : Nat :=
  let now := e.dstAt c d i
  let l := (e.evr.log.filter fun x => decide ((x.2.getD c 0 : Int) ≤ i)).takeWhile fun x => x.1.contains d == now
  match l.getLast? with
  | some x => min (i - (x.2.getD c 0 : Int)).toNat m
  | none => 0

/-- The trigger channel (R158): the input of the sequencer's source chain. -/
def Eng.trgCh (e : Eng) (t : Fin 8) : Fin 4 := fin4 (e.get (Pg.FCH (e.get (Pg.TRG t) TRG.SRC.FCH)) FCH.INPUT.CH)

/-- Test the condition of the evaluator's gate at one valid point. ALWAYS and EVENT occur at a sample of their own among those
that the point stands for (R162); any other condition occurs at the point. -/
def Eng.condition (e : Eng) (t : Fin 8) (r : EvRt) (p : Pt) : Occ :=
  let q := Pg.TRG t
  let g := r.gate
  let ty := e.get q (TRG.GATE_COND.TYPE g)
  let pol := e.get q (TRG.GATE_COND.POL g)
  let a := e.getI q (TRG.GATE_LVL.A g)
  let b := e.getI q (TRG.GATE_LVL.B g)
  let h : Int := e.get q (TRG.GATE_PARAM.HYST g)
  let tmin := e.get q (TRG.GATE_TMIN.SAMPLES g)
  match ty with
  | 1 => ⟨r, decide (tmin ≤ r.tmr), none, min (r.tmr - tmin) (p.adv - 1)⟩
  | 2 =>
    let up := r.armR && decide (a ≤ p.hi)
    let dn := r.armF && decide (p.lo ≤ a)
    let r1 := { r with armR := (r.armR && !up) || decide (p.hi ≤ a - h), armF := (r.armF && !dn) || decide (a + h ≤ p.lo) }
    let hit := if pol = 0 then up else if pol = 1 then dn else up || dn
    ⟨r1, hit, if hit then some a else none, 0⟩
  | 3 =>
    let inside := decide (a ≤ p.hi) && decide (p.hi ≤ b)
    let below := decide (p.hi < a - h)
    let out := below || decide (b + h < p.hi)
    let enter := r.armR && inside
    let leave := r.armF && out
    let r1 := { r with armR := (r.armR && !enter) || out, armF := (r.armF && !leave) || inside }
    if pol = 0 then ⟨r1, enter, if enter then some (if (r.prev.getD (a, a)).1 < a then a else b) else none, 0⟩
    else ⟨r1, leave, if leave then some (if below then a - h else b + h) else none, 0⟩
  | 4 =>
    let up := r.armR && decide (a ≤ p.hi)
    let dn := r.armF && decide (p.lo ≤ a)
    let r1 := { r with armR := (r.armR && !up) || decide (p.hi ≤ a - h), armF := (r.armF && !dn) || decide (a + h ≤ p.lo) }
    let first := if pol = 0 then up else dn
    let last := if pol = 0 then dn else up
    match r.pulse with
    | none => ⟨{ r1 with pulse := if first then some 0 else none }, false, none, 0⟩
    | some w =>
      let w' := w + p.adv
      if last then
        let w1 := e.get q (TRG.GATE_W1.SAMPLES g)
        let w2 := e.get q (TRG.GATE_W2.SAMPLES g)
        let rel := e.get q (TRG.GATE_COND.REL g)
        let hit := if rel = 0 then decide (w' < w1) else if rel = 1 then decide (w1 < w')
          else if rel = 2 then decide (w1 ≤ w' ∧ w' ≤ w2) else decide (w' < w1 ∨ w2 < w')
        ⟨{ r1 with pulse := none }, hit, if hit then some a else none, 0⟩
      else ⟨{ r1 with pulse := some w' }, false, none, 0⟩
  | 5 =>
    let up := r.armR && decide (a ≤ p.hi)
    let dn := r.armF && decide (p.lo ≤ b)
    let r1 := { r with armR := (r.armR && !up) || decide (p.hi ≤ a - h), armF := (r.armF && !dn) || decide (b + h ≤ p.lo) }
    if pol = 0 then
      match r.pulse with
      | none => ⟨{ r1 with pulse := if up && decide (p.hi < b) then some 0 else none }, false, none, 0⟩
      | some w =>
        if b ≤ p.hi then ⟨{ r1 with pulse := none }, false, none, 0⟩
        else if p.hi < a - h then ⟨{ r1 with pulse := none }, true, some (a - h), 0⟩
        else ⟨{ r1 with pulse := some (w + p.adv) }, false, none, 0⟩
    else
      match r.pulse with
      | none => ⟨{ r1 with pulse := if dn && decide (a < p.lo) then some 0 else none }, false, none, 0⟩
      | some w =>
        if p.lo ≤ a then ⟨{ r1 with pulse := none }, false, none, 0⟩
        else if b + h < p.lo then ⟨{ r1 with pulse := none }, true, some (b + h), 0⟩
        else ⟨{ r1 with pulse := some (w + p.adv) }, false, none, 0⟩
  | 6 =>
    let hit := r.sync.matches (e.get q (TRG.GATE_COND.VMATCH g)) (e.get q (TRG.GATE_PARAM.LINE g)) (e.get q (TRG.GATE_PARAM.FIELD g))
    ⟨r, hit, if hit && r.sync.start then some (e.getI q TRG.SYNC_LVL.SLICE) else none, 0⟩
  | 7 =>
    let d := e.get q (TRG.GATE_COND.DEST g)
    let now := e.dstAt (e.trgCh t) d (p.t256 / 256)
    let hit := if pol = 0 then now && !r.evPrev else if pol = 1 then !now && r.evPrev else if pol = 2 then now else !now
    ⟨r, hit, none, e.dstBack (e.trgCh t) d (p.t256 / 256) (p.adv - 1)⟩
  | _ => ⟨r, false, none, 0⟩

/-! ### Branches (R161) -/

/-- Enter a gate after sample `i`, `late` samples before the evaluator's next one: CNT and TMR start, nothing is armed (log
entry 26). -/
def Eng.enterGate (e : Eng) (t : Fin 8) (r : EvRt) (g late : Nat) (i : Int) : EvRt :=
  { r with gate := g % 16, cnt := 0, tmr := late, armR := false, armF := false, pulse := none
           evPrev := e.dstAt (e.trgCh t) (e.get (Pg.TRG t) (TRG.GATE_COND.DEST (g % 16))) i }

/-- A branch target: none (0x1E) leaves the evaluator alone, FIRE (0x1F) completes the sequence, else a gate. -/
inductive Branch where
  | stay
  | fire
  | go (g : Nat)
  deriving DecidableEq, Repr

def branch (code : Nat) : Branch := if code = 0x1F then .fire else if code < 16 then .go code else .stay

/-- The result of one point: the evaluator after it and a completion of the sequence. -/
structure Stepped where
  r : EvRt
  comp : Option Comp
  deriving DecidableEq, Repr

/-- 48-bit and 32-bit saturation of TMR and CNT. -/
def satTmr (n : Nat) : Nat := min n (2 ^ 48 - 1)
def satCnt (n : Nat) : Nat := min n (2 ^ 32 - 1)

/-- The completion at a level crossing or elsewhere (R169): `d` is the distance of outputs in samples; the words are those of the
rising test where the level was approached from below, else of the falling one (R160). One that is not interpolated has the
time of its own sample, `back` before the point. -/
def completion (r : EvRt) (p : Pt) (d : Nat) (lvl : Option Int) (back : Nat) : Comp :=
  match lvl, r.prev with
  | some x, some (h0, l0) =>
    let (w0, w1) := if h0 < x then (h0, p.hi) else (l0, p.lo)
    let f := if w1 = w0 then 0 else (clampI 0 255 (Int.fdiv (256 * (x - w0)) (w1 - w0))).toNat
    ⟨p.t256 - 256 * d + f * d, f, r.gate, false, false⟩
  | _, _ => ⟨if back = 0 then p.t256 else 256 * (p.t256 / 256 - back), 0, r.gate, true, false⟩

/-- Take a branch `back` samples before this point. -/
def Eng.take (e : Eng) (t : Fin 8) (r : EvRt) (p : Pt) (back code : Nat) (c : Comp) : Option Stepped :=
  match branch code with
  | .stay => none
  | .fire => some ⟨e.enterGate t r 0 (p.adv + back) (p.t256 / 256 - back), some c⟩
  | .go g => some ⟨e.enterGate t r g (p.adv + back) (p.t256 / 256 - back), none⟩

/-- One point through the gate, in the order of R161. `d`: distance of outputs; the lead passes 1. -/
def Eng.gateStep (e : Eng) (t : Fin 8) (r0 : EvRt) (d : Nat) (p : Pt) : Stepped :=
  let q := Pg.TRG t
  let g := r0.gate
  let c := e.trgCh t
  let sy := r0.sync.step (e.syncCfg t) p
  let o := if p.ok then e.condition t { r0 with sync := sy } p
    else ⟨{ r0 with sync := sy, armR := false, armF := false, pulse := none }, false, none, 0⟩
  let plain : Comp := ⟨p.t256, 0, g, true, false⟩
  let r := { o.r with
    evPrev := e.dstAt c (e.get q (TRG.GATE_COND.DEST g)) (p.t256 / 256), prev := if p.ok then some (p.hi, p.lo) else none }
  let rd := e.get q (TRG.GATE_BR.RDEST g)
  let rst := if e.bit q (TRG.GATE_BR.RDEST_EN g) && e.dstAt c rd (p.t256 / 256) then
      e.take t r p (e.dstBack c rd (p.t256 / 256) (p.adv - 1)) (e.get q (TRG.GATE_BR.RESET g)) plain else none
  let at' := r.tmr - o.back
  let early := if o.hit && decide (at' < e.get q (TRG.GATE_TMIN.SAMPLES g)) && e.bit q (TRG.GATE_BR.EARLY g) then
      e.take t r p o.back (e.get q (TRG.GATE_BR.RESET g)) plain else none
  let counted := o.hit && decide (e.get q (TRG.GATE_TMIN.SAMPLES g) ≤ at')
  let cnt := if counted then satCnt (r.cnt + 1) else r.cnt
  let next := if counted && decide (max (e.get q (TRG.GATE_COUNT.N g)) 1 ≤ cnt) then
      e.take t r p o.back (e.get q (TRG.GATE_BR.NEXT g)) (completion { r with prev := r0.prev } p d o.lvl o.back) else none
  let tmax := e.get q (TRG.GATE_TMAX.SAMPLES g)
  let past := r.tmr - tmax
  let els := if tmax ≠ 0 ∧ tmax ≤ r.tmr then
      e.take t r p past (e.get q (TRG.GATE_BR.ELSE g)) { plain with t256 := p.t256 - 256 * past } else none
  match rst, early, next, els with
  | some s, _, _, _ => s
  | none, some s, _, _ => s
  | none, none, some s, _ => s
  | none, none, none, some s => s
  | none, none, none, none => ⟨{ r with cnt := cnt, tmr := satTmr (r.tmr + p.adv) }, none⟩

end Sys2Proof.Machine
end

