-- ==== Sys2Proof/Machine/Chain.lean ====
section
/-! DEFINITION. What the chains and the sequencers share (R140-R153, R158, R159): a chain's length, group delay and
latency, the start of its grid, the reach of a sequencer's source, and messages queued for the Miolan link. -/
namespace Sys2Proof.Machine

/-- Span M of a ROM response, in output samples (R144). -/
def romM (r : Nat) : Nat :=
  [12, 16, 22, 28, 6, 8, 10, 12, 16, 8, 6, 4, 12, 16, 22, 28, 6, 8, 10, 12, 16, 8, 6, 8].getD r 0

/-- Minimum-phase responses FR12-FR22 (R144). -/
def romMin (r : Nat) : Bool := decide (12 ≤ r ∧ r ≤ 22)

/-- Group delay of a ROM response at a GD_REF point, 1/256 output samples (R144, R157): M × 128 where it is linear; at DC
the table's figure; elsewhere the directory's, which the manual does not list. -/
def romGd (r pt : Nat) : Nat :=
  if !romMin r then 128 * romM r
  else if pt = 0 then [896, 1088, 1280, 1472, 384, 448, 512, 576, 1024, 512, 256].getD (r - 12) 0
  else Config.romGd r pt % 2 ^ 16

/-- The chain uses its coefficient RAM. -/
def Eng.fchRam (e : Eng) (sh : Bool) (p : Nat) : Bool := e.rd sh p FCH.DEC.MODE == 2 && e.rd sh p FCH.RESP.SRC == 1

def Eng.fchRom (e : Eng) (sh : Bool) (p : Nat) : Bool := e.rd sh p FCH.DEC.MODE == 2 && e.rd sh p FCH.RESP.SRC == 0

/-- Effective length L in input samples (R142, R144, R145). -/
def Eng.fchLen (e : Eng) (sh : Bool) (p : Nat) : Nat :=
  let d := e.rd sh p FCH.DEC.RATIO
  let m := e.rd sh p FCH.DEC.MODE
  if m = 0 then 1
  else if m = 1 then d
  else if e.rd sh p FCH.RESP.SRC = 0 then romM (e.rd sh p FCH.RESP.ROM) * d + 1
  else
    let n := e.get p FCH.COEF_CFG.LEN
    if e.bit p FCH.COEF_CFG.SYM then 2 * n - 1 else n

/-- The timestamp of the response is taken from a reference delay (R151). -/
def Eng.fchGdRef (e : Eng) (sh : Bool) (p : Nat) : Bool :=
  e.rd sh p FCH.GD_OVR.OFF == 0 &&
  ((e.fchRom sh p && romMin (e.rd sh p FCH.RESP.ROM)) ||
   (e.fchRam sh p && !e.bit p FCH.COEF_CFG.SYM && e.bit p FCH.COEF_CFG.PHASE))

/-- The correction G in 1/256 input samples (R151). -/
def Eng.fchG (e : Eng) (sh : Bool) (p : Nat) : Nat :=
  let d := e.rd sh p FCH.DEC.RATIO
  let m := e.rd sh p FCH.DEC.MODE
  if e.rd sh p FCH.GD_OVR.OFF = 1 ∨ m = 0 then 0
  else if m = 1 then 256 * (d - 1)
  else if e.fchGdRef sh p then
    if e.fchRam sh p then e.get p FCH.COEF_GD.G256 else d * romGd (e.rd sh p FCH.RESP.ROM) (e.rd sh p FCH.RESP.GD_REF)
  else 128 * (e.fchLen sh p - 1)

/-- CARVE_LAT in CKD cycles, and the reach RCH (R153, R159). -/
def Eng.carveLat (e : Eng) (sh : Bool) (p : Nat) : Nat :=
  4 + ceilDiv (e.fchG sh p) (256 * e.wordLen (e.rd sh p FCH.INPUT.CH))

def Eng.rch (e : Eng) (sh : Bool) (p : Nat) : Nat :=
  ceilDiv (e.fchG sh p + 256 * e.rd sh p FCH.DEC.RATIO) (256 * e.wordLen (e.rd sh p FCH.INPUT.CH))

/-- TRG_OK: the chain can feed a sequencer (R153). -/
def Eng.trgOk (e : Eng) (sh : Bool) (p : Nat) : Bool := decide (e.carveLat sh p ≤ 22 ∧ e.rch sh p ≤ 21)

/-- Invalid outputs after a grid start (R150). -/
def Eng.fchInvalid (e : Eng) (p : Nat) : Nat := ceilDiv (e.fchLen false p - 1) (max (e.get p FCH.DEC.RATIO) 1)

/-- The page of a sequencer's source chain. -/
def Eng.srcPage (e : Eng) (t : Fin 8) : Nat := Pg.FCH (e.get (Pg.TRG t) TRG.SRC.FCH)

/-- Both evaluators of a sequencer start at gate 0 at a sample (R166, R176); the separators go on. A lead that has passed the
sample starts at its next one with the time that has run (R172). What completes a TENT under way is kept, and so is a forced
completion that waits. -/
def Eng.gate0 (e : Eng) (t : Fin 8) (at' : Nat) : Eng :=
  let p := Pg.TRG t
  let late := e.fch[fin8 (e.get p TRG.SRC.FCH)].sN - at'
  let e1 := e.onTrg t fun r =>
    { r with
      lead := { e.enterGate t EvRt.fresh 0 late ((at' : Int) - 1) with sync := r.lead.sync }
      check := { e.enterGate t EvRt.fresh 0 0 ((at' : Int) - 1) with sync := r.check.sync }
      armAt := at', hold := false, holdLeft := 0, comp := if r.tent.isSome then r.comp else none, rearm := false, start := true
      due := r.due.filter (·.forced) }
  ((((e1.put p TRG.STS.HOLDOFF 0).put p TRG.STATE.GATE 0).put p TRG.CNT.COUNT 0).put p TRG.TMR.SAMPLES 0)

/-- REACH of a sequencer after its source or selection changed: leaving the limits sets LATBAD and raises TRG_REACH;
coming back resumes at gate 0 (R159, R175). -/
def Eng.trgReach (e : Eng) (t : Fin 8) : Eng :=
  let p := Pg.TRG t
  let c := e.srcPage t
  let e1 := (e.put p TRG.REACH.CARVE_LAT (min (e.carveLat false c) 255)).put p TRG.REACH.RCH (min (e.rch false c) 65535)
  if !e.en p then e1
  else if !e.trgOk false c ∧ !e1.bit p TRG.STS.LATBAD then
    (((e1.onTrg t fun r => { r with due := none }).put p TRG.STS.LATBAD 1).ist p TRG.IST.LATBAD).raise p 0 0 (e1.named p)
  else if e.trgOk false c ∧ e1.bit p TRG.STS.LATBAD then
    (e1.put p TRG.STS.LATBAD 0).gate0 t (e1.cnv[e1.trgCh t].idx)
  else e1

/-- Registers that follow a chain's settings: GD, LAT, TRG_OK, GDREF, and the reach of its sequencers (R151-R153). -/
def Eng.fchRefresh (e : Eng) (f : Fin 8) : Eng :=
  let p := Pg.FCH f
  let e1 := ((e.put p FCH.GD.G256 (e.fchG false p)).put p FCH.LAT.CARVE (e.carveLat false p)).putB p FCH.STS.TRG_OK (e.trgOk false p)
  let e2 := e1.putB p FCH.STS.GDREF (e.fchGdRef false p)
  units8.foldl (fun a (t : Fin 8) => if a.get (Pg.TRG t) TRG.SRC.FCH = f then a.trgReach t else a) e2

/-- The Carve grid starts at the channel's next sample (R149, R150). -/
def Eng.gridStart (e : Eng) (f : Fin 8) : Eng :=
  let p := Pg.FCH f
  let c := fin4 (e.get p FCH.INPUT.CH)
  let n := e.fchInvalid p
  let e1 := e.onFch f fun r => { r with run := true, flush := 0, i0 := e.cnv[c].idx, k := 0 }
  ((e1.put p FCH.STS.RUN 1).put p FCH.INVALID.COUNT (min n 65535)).putB p FCH.STS.SETTLING (decide (n ≠ 0))

/-- The chain's channel stands at an output boundary (R42): its latest word holds the last sample of an output, and no flush runs. -/
def Eng.atOutput (e : Eng) (f : Fin 8) : Bool :=
  let p := Pg.FCH f
  let r := e.fch[f]
  let w := e.cnv[fin4 (e.get p FCH.INPUT.CH)]
  let d := max (e.get p FCH.DEC.RATIO) 1
  let from' := max w.wIdx r.i0
  r.run && decide (from' < w.idx) && decide (r.i0 + ceilDiv (from' - r.i0) d * d < w.idx)

/-- A chain starts afresh on its channel: no sample before this cycle is in any window (enable, INPUT commit; R149, R150). -/
def Eng.chainStart (e : Eng) (f : Fin 8) : Eng :=
  let c := fin4 (e.get (Pg.FCH f) FCH.INPUT.CH)
  let i := e.cnv[c].idx
  (e.onFch f fun r => { r with base := i, hist := [], sN := i, schussCut := i }).gridStart f

/-- The named detectors of a chain start again (R154). -/
def Eng.detReset (e : Eng) (f : Fin 8) (pk rms env : Bool) : Eng :=
  let p := Pg.FCH f
  let e1 := if pk then (e.put p FCH.STS.PK_VALID 0).onFch f fun r => { r with pkN := 0, pkExt := none } else e
  let e2 := if rms then (e1.put p FCH.STS.RMS_VALID 0).onFch f fun r => { r with rms := [] } else e1
  if env then (e2.put p FCH.STS.ENV_VALID 0).onFch f fun r => { r with env := [] } else e2

/-- Depth of the Miolan transmit queue (R372). -/
def mlnDepth : Nat := 16

/-- Queue a TRIG for a CONF of a sequencer that TRGMASK selects (R379); nothing while the holder's lease is not ACTIVE or a
follower has no position (R372). -/
def Eng.mlnTrig (e : Eng) (t : Fin 8) (tag tb : Nat) : Eng :=
  if !e.en Pg.MLN1 ∨ !(e.get Pg.MLN1 MLN1.TRGMASK.TRG).testBit t ∨ 2 ≤ e.leaseState 2 ∨
      (e.get Pg.MLN0 MLN0.CFG.ROLE = 2 ∧ !e.bit Pg.MLN0 MLN0.STS.POSITIONED) then e
  else if mlnDepth ≤ e.mln.tx.length then e.inc Pg.MLN1 MLN1.TRIG_DROP_CNT.COUNT
  else
    let w := tb96 tb
    let body := t.val + tag % 256 * 2 ^ 3 + w / 2 ^ 16 % 2 ^ 32 % 2 ^ 30 * 2 ^ 11 + w % 2 ^ 16 / 2 * 2 ^ 41
    { e with mln := { e.mln with tx := e.mln.tx ++ [(7, body)] } }

end Sys2Proof.Machine
end

