-- ==== Sys2Proof/Machine/Trigger.lean ====
section
/-! DEFINITION. The sequencers' commands (R158-R177): points reaching the two evaluators, TENT and its resolution,
holdoff and re-arm, forced triggers, and the sequencer's faults. -/
namespace Sys2Proof.Machine

/-- Sequencers that read chain `f` and are enabled. -/
def Eng.trgsOf (e : Eng) (f : Fin 8) : List (Fin 8) :=
  units8.filter fun t => e.en (Pg.TRG t) && e.get (Pg.TRG t) TRG.SRC.FCH == f

/-- The lead issues no TENT: beyond reach, held by a parity fault, or held for a group (R42, R175). -/
def Eng.leadIdle (e : Eng) (t : Fin 8) : Bool :=
  let r := e.trg[t]
  e.bit (Pg.TRG t) TRG.STS.LATBAD || r.fault || r.held

/-- STATE.PHASE (R177). -/
def Eng.trgPhase (e : Eng) (t : Fin 8) : Nat :=
  let r := e.trg[t]
  if !e.en (Pg.TRG t) then 0 else if r.fault then 6 else if e.bit (Pg.TRG t) TRG.STS.LATBAD then 5
  else if !e.en (e.srcPage t) then 4 else if r.held then 3 else if r.hold then 2 else 1

/-! ### Re-arm (R166) and resynchronisation (R172) -/

/-- The timed sample of the check's next output, in 1/256 samples. -/
def Eng.nextOut (e : Eng) (f : Fin 8) : Int :=
  let r := e.fch[f]
  let p := Pg.FCH f
  256 * ((r.i0 : Int) + r.k * e.get p FCH.DEC.RATIO) - e.get p FCH.GD.G256

/-- The timed sample of the first output of the check at or after a sample. -/
def Eng.nextFrom (e : Eng) (f : Fin 8) (i : Nat) : Int :=
  let x := e.nextOut f / 256
  let d := max (e.get (Pg.FCH f) FCH.DEC.RATIO) 1
  if (i : Int) ≤ x then x else x + ceilDiv ((i : Int) - x).toNat d * d

/-- The lead takes the check's gate, CNT and TMR, the skipped span added, and goes on with its next Schuss sample. -/
def Eng.resync (e : Eng) (t : Fin 8) : Eng :=
  let f := fin8 (e.get (Pg.TRG t) TRG.SRC.FCH)
  let skip := (((e.fch[f].sN : Int) - e.nextOut f / 256)).toNat
  let e1 := e.onTrg t fun r =>
    { r with lead := { e.enterGate t r.lead r.check.gate 0 ((e.fch[f].sN : Int) - 1) with
        cnt := r.check.cnt, tmr := satTmr (r.check.tmr + skip), prev := none } }
  e1.add (Pg.TRG t) TRG.RESYNC_SKIP_CNT.SAMPLES skip

/-- Re-arm at a sample: the commit point of the page (R42). A pending group holds the sequencer before gate 0; a pending
commit applies; then both evaluators enter gate 0. -/
def Eng.trgRearm (e : Eng) (t : Fin 8) (at' : Nat) : Eng :=
  let p := Pg.TRG t
  if (e.grpOf p).isSome then
    (e.gate0 t at').onTrg t fun r => { r with held := true }
  else
    let o := e.owner p
    let e1 := if e.bit p HDR.STS.PENDING then (((e.applyShad p fun _ => true).commitShown p o).pgen o).relax p else e
    let f := fin8 (e1.get p TRG.SRC.FCH)
    let n := e1.fch[f].sN
    ((e1.gate0 t at').trgReach t).add p TRG.RESYNC_SKIP_CNT.SAMPLES (if n ≤ at' then 0 else ((n : Int) - e1.nextFrom f at').toNat)

/-- The first sample timed at or after a reference plus HOLD_PS (R165). -/
def Eng.holdEnd (e : Eng) (t : Fin 8) : Nat :=
  let c := e.trgCh t
  let ps := e.get (Pg.TRG t) TRG.HOLD_PS.PS
  let d256 := ceilDiv (ps * 2 ^ 64 * 256 * max e.cnv[c].spw 1) (1000 * max e.ckdSpan 1)
  ceilDiv (e.trg[t].holdRef + d256).toNat 256

/-- Holdoff begins at a CONF or a lead miss (R165, R171). NONE ends at once, at the present sample (log entry 27). -/
def Eng.startHold (e : Eng) (t : Fin 8) (ref : Int) : Eng :=
  let p := Pg.TRG t
  let m := e.get p TRG.HOLD_MODE.MODE
  if m = 0 then e.trgRearm t (e.cnv[e.trgCh t].idx)
  else
    let n := e.get p TRG.HOLD_CNT.N
    let e1 := (e.onTrg t fun r =>
      { r with
        hold := true, holdRef := ref, holdLeft := if m = 2 then n + 1 else 0, comp := none
        check := { e.enterGate t EvRt.fresh 0 0 (ref / 256) with sync := r.check.sync } }).put p TRG.STS.HOLDOFF 1
    e1

/-- A lead miss (R171): counted; the lead resynchronises; holdoff with the completion as reference. -/
def Eng.leadMiss (e : Eng) (t : Fin 8) (c : Comp) : Eng :=
  let p := Pg.TRG t
  (((e.inc p TRG.LEADMISS_CNT.COUNT).ist p TRG.IST.LEADMISS).resync t).startHold t c.t256

/-! ### The lead (R167) -/

/-- One Schuss value reaches the lead of a sequencer. A lead that has completed, or waits for a resolution or a holdoff,
evaluates nothing; its separator goes on. -/
def Eng.leadPoint (e : Eng) (t : Fin 8) (i : Nat) (v : Int) (ok : Bool) : Eng :=
  let r := e.trg[t]
  let pt : Pt := ⟨v, v, ok, 256 * i, 1⟩
  if r.due.isSome || r.tent.isSome || r.hold || decide (i < r.armAt) || e.leadIdle t then
    e.onTrg t fun r => { r with lead := { r.lead with sync := r.lead.sync.step (e.syncCfg t) pt } }
  else
    let s := e.gateStep t r.lead 1 pt
    e.onTrg t fun r =>
      { r with
        lead := s.r
        due := s.comp.map fun c =>
          if c.nointerp && e.get (Pg.TRG t) (TRG.GATE_COND.TYPE c.gate) != 6 then c else { c with t256 := 256 * i - 896 } }

/-- A forced completion is taken at the first sample of a CKD cycle, `i0` of the trigger channel, whatever the source chain
does (R174). -/
def Eng.forceTake (e : Eng) (t : Fin 8) (i0 : Nat) : Eng :=
  if e.en (Pg.TRG t) && e.trg[t].force && e.trg[t].tent.isNone && !e.leadIdle t then
    e.onTrg t fun r => { r with force := false, due := some ⟨256 * i0, 0, r.check.gate, true, true⟩ }
  else e

/-- The Schuss values of a cycle at one sequencer (R167). -/
def Eng.leadWord (e : Eng) (t : Fin 8) (i0 : Nat) (vs : List Smp) : Eng :=
  (vs.zipIdx).foldl (fun a x => a.leadPoint t (i0 + x.2) x.1.v x.1.ok) e

/-! ### The check (R168, R171) -/

/-- The check's registers (R177): its gate, CNT, TMR, separator, which is not locked while it is off (R164). -/
def Eng.showCheck (e : Eng) (t : Fin 8) (tmr : Nat) : Eng :=
  let p := Pg.TRG t
  let k := e.trg[t].check
  let s := k.sync
  let e1 := ((e.put p TRG.STATE.GATE k.gate).put p TRG.CNT.COUNT k.cnt).put p TRG.TMR.SAMPLES tmr
  let e2 := (e1.put p TRG.VID_POS.LINE (if s.lock then s.line else 0)).put p TRG.VID_POS.FIELD (if s.lock then s.field else 0)
  if s.lock ∧ !e2.bit p TRG.STS.SYNC_LOCK then (e2.put p TRG.STS.SYNC_LOCK 1).ist p TRG.IST.SYNC_LOCK
  else if e.get p TRG.SYNC_LINE.PER = 0 then e2.put p TRG.STS.SYNC_LOCK 0 else e2

/-- Confirmation window of a TENT in 1/256 samples: CONF_WIN.WIN + D − 1 samples (R168). -/
def Eng.confWin (e : Eng) (t : Fin 8) : Int :=
  256 * ((e.get (Pg.TRG t) TRG.CONF_WIN.WIN : Int) + e.get (e.srcPage t) FCH.DEC.RATIO - 1)

/-- INTERP.OFF: FRAC forced to 0, NOINTERP set (R177). -/
def Eng.interp (e : Eng) (t : Fin 8) (d : Nat) (c : Comp) : Comp :=
  if e.bit (Pg.TRG t) TRG.INTERP.OFF ∧ !c.nointerp then { c with t256 := c.t256 - c.frac * d, frac := 0, nointerp := true } else c

/-- One Carve output reaches the check of a sequencer. In gate 0 its TMR counts from the sample at which both evaluators entered
(R166). -/
def Eng.checkPoint (e : Eng) (t : Fin 8) (d : Nat) (pt : Pt) : Eng :=
  let p := Pg.TRG t
  let r := e.trg[t]
  let win := e.confWin t
  let e0 := if pt.ok then e
    else e.onTrg t fun r =>
      { r with
        lastBad := some pt.t256
        inval := r.inval || (match r.tent with
          | some tc => decide ((pt.t256 - tc.t256).natAbs ≤ win)
          | none => false) }
  let idle := r.comp.isSome || r.held || r.fault || (e.bit p TRG.STS.LATBAD && r.tent.isNone) ||
    (r.hold && e.get p TRG.HOLD_MODE.MODE != 2) || (!r.hold && decide (pt.t256 < 256 * (r.armAt : Int)))
  if idle then
    (e0.onTrg t fun r => { r with check := { r.check with sync := r.check.sync.step (e.syncCfg t) pt } }).showCheck t (e0.get p TRG.TMR.SAMPLES)
  else
    let k := if r.start then { r.check with tmr := (pt.t256 / 256 - r.armAt).toNat } else r.check
    let s := e0.gateStep t k d pt
    let stays := s.comp.isNone && decide (k.tmr < s.r.tmr)
    let e1 := (e0.onTrg t fun r => { r with check := s.r, start := false }).showCheck t (if stays then k.tmr else 0)
    match s.comp.map (e.interp t d) with
    | none => e1
    | some c =>
      if r.hold then
        let e2 := e1.inc p TRG.HOLD_SUPP_CNT.COUNT
        if r.holdLeft ≤ 1 then e2.trgRearm t (c.t256 / 256 + 1).toNat
        else e2.onTrg t fun r => { r with holdLeft := r.holdLeft - 1 }
      else if r.tent.isSome || r.due.isSome then e1.onTrg t fun r => { r with comp := some c }
      else e1.leadMiss t c

/-! ### TENT and its resolution (R167-R174) -/

/-- TENT: the tag counts, the units that listen open tentative segments, opted-in destinations see TRGnT and are owed the
resolution (R167, R173, R183, R266). -/
def Eng.tent (e : Eng) (t : Fin 8) : Eng :=
  let p := Pg.TRG t
  match e.trg[t].due with
  | none => e
  | some c =>
    if !e.en p ∨ e.trg[t].tent.isSome ∨ e.leadIdle t then e
    else
      let tag := (e.trg[t].tag + 1) % 256
      let near (b : Option Int) : Bool := b.any fun x => decide ((x - c.t256).natAbs ≤ e.confWin t)
      let e1 := e.onTrg t fun r => { r with due := none, tent := some c, tag := tag, tentTag := tag, inval := near r.lastBad, abort := false }
      let e2 := units8.foldl (fun a u => a.acqTent u t tag c.t256) e1
      let owed := (List.range 64).filter fun d =>
        e2.bit Pg.EVR (EVR.DST_CFG.TENT d) && e2.bit Pg.EVR EVR.STS.PARITY_OK && e2.evrRight (e2.evrOwner d) (0x30 + t) && (List.range 4).any fun k => e2.get Pg.EVR (EVR.DST_SEL.SRC d k) == 0x30 + t
      ({ e2 with evr := { e2.evr with owed := e2.evr.owed ++ owed.map fun d => (d, t.val) } }).pulse (0x30 + t)

/-- The four causes of a VOID, tested from the highest code (R168). -/
def voidWhy (abort inval : Bool) (comp : Option Comp) : Nat :=
  if abort then 3 else if inval then 2 else if comp.isSome then 1 else 0

def voidFld (w : Nat) : Fld :=
  if w = 0 then TRG.VOID_WHY.NOFIRE else if w = 1 then TRG.VOID_WHY.TIME else if w = 2 then TRG.VOID_WHY.INVALID else TRG.VOID_WHY.ABORT

/-- Forget the resolved TENT. -/
def Eng.untent (e : Eng) (t : Fin 8) : Eng :=
  e.onTrg t fun r => { r with tent := none, comp := none, inval := false, abort := false }

/-- What follows a resolution: a re-arm that waited (R166). -/
def Eng.afterResolve (e : Eng) (t : Fin 8) : Eng :=
  if e.trg[t].rearm && e.en (Pg.TRG t) then e.trgRearm t (e.cnv[e.trgCh t].idx) else e

/-- CONF: registers, counters, source TRGnC, segments, records, Miolan, holdoff (R169, R170, R379). -/
def Eng.conf (e : Eng) (t : Fin 8) (c : Comp) : Eng :=
  let p := Pg.TRG t
  let tag := e.trg[t].tentTag
  let tb := roundTb (e.timeOf (e.trgCh t) c.t256)
  let gd := e.bit (e.srcPage t) FCH.STS.GDREF
  let e1 := ((e.put p TRG.LAST_TAG.TAG tag).put p TRG.LAST_T.TB96 (tb96 tb)).put p TRG.LAST_INFO.FRAC c.frac
  let e2 := (((e1.put p TRG.LAST_INFO.GATE c.gate).putB p TRG.LAST_INFO.FORCED c.forced).putB p TRG.LAST_INFO.NOINTERP c.nointerp).putB
    p TRG.LAST_INFO.GDREF gd
  let e3 := ((e2.inc p TRG.TRIG_CNT.COUNT).ist p TRG.IST.TRIG).pulse (0x38 + t)
  let e4 := (e3.confAll ⟨t, tag, tb, c.t256, c.frac, gd, c.nointerp, c.forced⟩).mlnTrig t tag tb
  ((e4.untent t).startHold t c.t256).afterResolve t

/-- VOID: counted by cause, segments released, the lead resynchronised; a completion of the check outside the window is
acted on as a lead miss (R168, R171-R173). -/
def Eng.void (e : Eng) (t : Fin 8) (why : Nat) : Eng :=
  let p := Pg.TRG t
  let comp := e.trg[t].comp
  let tag := e.trg[t].tentTag
  let e1 := ((e.inc p TRG.VOID_CNT.COUNT).inc p (voidFld why)).pulse (0x40 + t)
  let e2 := (units8.foldl (fun a u => a.acqVoid u t tag) e1).untent t
  if !e2.en p then e2
  else match comp with
    | some c => (e2.leadMiss t c).afterResolve t
    | none => (e2.resync t).afterResolve t

/-- The resolution of the TENT, 24 CKD cycles after it. -/
def Eng.tentResolve (e : Eng) (t : Fin 8) : Eng :=
  let r := e.trg[t]
  match r.tent with
  | none => e
  | some tc =>
    let inWin (c : Comp) : Bool := decide ((c.t256 - tc.t256).natAbs ≤ e.confWin t)
    if r.abort then e.void t 3
    else if tc.forced then e.conf t tc
    else match r.comp with
      | some c => if inWin c then e.conf t c else e.void t (voidWhy false r.inval (some c))
      | none => e.void t (voidWhy false r.inval none)

/-! ### The other commands -/

/-- A gate's TMR reaches TMAX: the ELSE branch, timed at that sample (R161). -/
def Eng.tmaxExpiry (e : Eng) (t : Fin 8) (lead : Bool) : Eng :=
  let p := Pg.TRG t
  let r := e.trg[t]
  let k := if lead then r.lead else r.check
  let tmax := e.get p (TRG.GATE_TMAX.SAMPLES k.gate)
  let f := fin8 (e.get p TRG.SRC.FCH)
  let next : Int := if lead then 256 * (e.fch[f].sN : Int) else e.nextOut f
  let at256 := next + 256 * ((tmax : Int) - k.tmr)
  let idle := !e.en p || r.held || r.fault || r.comp.isSome || (lead && (r.due.isSome || r.tent.isSome || r.hold || e.leadIdle t)) || (r.hold && e.get p TRG.HOLD_MODE.MODE != 2)
  if tmax = 0 || idle then e
  else
    let e1 := if lead then e else e.put p TRG.TMR.SAMPLES tmax
    match branch (e.get p (TRG.GATE_BR.ELSE k.gate)) with
    | .stay => if lead then e else e1.onTrg t fun r => { r with check := { r.check with tmr := max r.check.tmr tmax } }
    | .go g =>
      let k' := e.enterGate t k g (k.tmr - tmax) (at256 / 256)
      if lead then e.onTrg t fun r => { r with lead := k' }
      else (e.onTrg t fun r => { r with check := k' }).showCheck t 0
    | .fire =>
      let c : Comp := ⟨at256, 0, k.gate, true, false⟩
      let k' := e.enterGate t k 0 (k.tmr - tmax) (at256 / 256)
      if lead then e.onTrg t fun r => { r with lead := k', due := some c }
      else
        let e2 := (e1.onTrg t fun r => { r with check := k' }).showCheck t 0
        if r.hold then
          let e3 := e2.inc p TRG.HOLD_SUPP_CNT.COUNT
          if r.holdLeft ≤ 1 then e3.trgRearm t (at256 / 256 + 1).toNat else e3.onTrg t fun r => { r with holdLeft := r.holdLeft - 1 }
        else if r.tent.isSome || r.due.isSome then e2.onTrg t fun r => { r with comp := some c }
        else e2.leadMiss t c

/-- A TIME holdoff ends; the re-arm is at the first sample after its end (R165, R166). -/
def Eng.holdoffEnd (e : Eng) (t : Fin 8) : Eng :=
  if e.en (Pg.TRG t) && e.trg[t].hold && e.get (Pg.TRG t) TRG.HOLD_MODE.MODE == 1 then e.trgRearm t (e.holdEnd t + 1) else e

/-- CMD.REARM (R166): at the next sample, after a TENT under way. -/
def Eng.rearm (e : Eng) (t : Fin 8) : Eng :=
  if !e.en (Pg.TRG t) then e
  else if e.trg[t].tent.isSome || e.trg[t].due.isSome then e.onTrg t fun r => { r with rearm := true }
  else e.trgRearm t (e.cnv[e.trgCh t].idx)

/-- The check separator unlocked: a VSYNC gate that is active loses its matches (R164, R175). -/
def Eng.syncLost (e : Eng) (t : Fin 8) : Eng :=
  let p := Pg.TRG t
  if e.bit p TRG.STS.SYNC_LOCK then
    let e1 := e.onTrg t fun r => { r with check := { r.check with sync := { r.check.sync with lock := false, line := 0, field := 0, good := 0 } } }
    let e2 := (((e1.put p TRG.STS.SYNC_LOCK 0).put p TRG.VID_POS.LINE 0).put p TRG.VID_POS.FIELD 0).ist p TRG.IST.SYNC_LOST
    if e2.en p && e2.get p (TRG.GATE_COND.TYPE e2.trg[t].check.gate) == 6 then e2.raise p 1 0 (e2.named p) else e2
  else e

/-- The gate store's parity fails (R175): no TENT any more; a pending one is aborted. -/
def Eng.trgParity (e : Eng) (t : Fin 8) : Eng :=
  (e.onTrg t fun r => { r with fault := true, due := none, abort := r.abort || r.tent.isSome }).raise (Pg.TRG t) 2 1 (e.named (Pg.TRG t))

/-! ### The commands -/

/-- TENT (R167); then what waited for an outrun that it ended. -/
def execTent (t : Fin 8) : State → Host.Outcome State Fault Refusal := onEng fun e => (e.tent t).runDeferred

/-- GATE_TMAX_EXPIRY (R161). -/
def execGateTmaxExpiry (t : Fin 8) (lead : Bool) : State → Host.Outcome State Fault Refusal := onEng fun e => e.tmaxExpiry t lead

/-- HOLDOFF_END (R165). -/
def execHoldoffEnd (t : Fin 8) : State → Host.Outcome State Fault Refusal := onEng fun e => e.holdoffEnd t

/-- TRG_FORCE (R174): CMD.FORCE; nothing on a disabled sequencer. -/
def execTrgForce (who : Src) (t : Fin 8) : State → Host.Outcome State Fault Refusal :=
  onEng fun e => e.order who (Pg.TRG t) 0x68 false false fun e =>
    if e.en (Pg.TRG t) then e.onTrg t fun r => { r with force := true } else e

/-- TRG_REARM (R166): CMD.REARM. -/
def execTrgRearm (who : Src) (t : Fin 8) : State → Host.Outcome State Fault Refusal :=
  onEng fun e => e.order who (Pg.TRG t) 0x68 false false fun e => e.rearm t

/-- SYNC_LOST (R164, R175). -/
def execSyncLost (t : Fin 8) : State → Host.Outcome State Fault Refusal := onEng fun e => e.syncLost t

/-- TRG_PARITY (R175). -/
def execTrgParity (t : Fin 8) : State → Host.Outcome State Fault Refusal := onEng fun e => e.trgParity t

end Sys2Proof.Machine
end

