-- ==== Sys2Proof/Machine/Chains.lean ====
section
/-! DEFINITION. The filter chains' commands (R140-R157): Schuss values, Carve outputs, detectors, the coefficient RAM and
the ROM check. -/
namespace Sys2Proof.Machine

/-! ### Samples in, Schuss out (R141) -/

/-- Samples of a channel reach a chain that reads it; a cycle of the flush passes with them (R149). -/
def Eng.chainTake (e : Eng) (f : Fin 8) (ws : List Smp) : Eng :=
  e.onFch f fun r => { r with hist := r.hist ++ ws, flush := if 1 < r.flush then r.flush - 1 else r.flush }

/-- Samples `n` ending at absolute index `i`, newest first; none where some are not kept. -/
def FchRt.window (r : FchRt) (i n : Nat) : Option (List Smp) :=
  if n ≤ i + 1 ∧ r.base ≤ i + 1 - n ∧ i < r.base + r.hist.length then some ((r.hist.drop (i + 1 - n - r.base)).take n).reverse else none

/-- A free word as a signed 16-bit value, for a value the spec leaves open (an output whose window reaches before the
samples the chain has). -/
def Eng.free16 (e : Eng) (k : Nat) : Int := signed 16 ((Config.freeWord (e.freeCtr + k)).toNat % 65536)

/-- The Schuss value of sample `i`, with VALID (R141, R150). -/
def Eng.schuss (e : Eng) (f : Fin 8) (i : Nat) : Smp :=
  let r := e.fch[f]
  match r.window i 8 with
  | some ws => if r.schussCut + 7 ≤ i then ⟨clampI (-32767) 32767 (2 * ws.foldl (fun a s => a + s.v) 0), ws.all (·.ok)⟩ else ⟨e.free16 (i % 8), false⟩
  | none => ⟨e.free16 (i % 8), false⟩

/-- The Schuss values of one CKD cycle: those of the samples not yet delivered, at most a word of them. -/
def Eng.schussWord (e : Eng) (f : Fin 8) : Eng :=
  let p := Pg.FCH f
  let r := e.fch[f]
  let c := fin4 (e.get p FCH.INPUT.CH)
  let n := min (r.base + r.hist.length - r.sN) (e.wordLen c)
  if n = 0 ∨ !e.en p then e
  else
    let vs := (List.range n).map fun k => e.schuss f (r.sN + k)
    let e1 := { e.onFch f fun r => { r with sN := r.sN + n } with freeCtr := e.freeCtr + 8 }
    let e2 := e1.putI p FCH.LAST.SCHUSS ((vs.getLast?.map (·.v)).getD 0)
    (e.trgsOf f).foldl (fun a t => a.leadWord t r.sN vs) e2

/-! ### Carve outputs (R142-R151) -/

/-- The coefficient c[j], Q1.17 (R145). -/
def Eng.coef (e : Eng) (f : Fin 8) (j : Nat) : Int := signed 18 (Store.get e.fch[f].coef j 0)

/-- The impulse response h[0] to h[L-1] of the coefficient RAM (R145). -/
def Eng.ramTaps (e : Eng) (f : Fin 8) : List Int :=
  let p := Pg.FCH f
  let n := e.get p FCH.COEF_CFG.LEN
  (List.range (e.fchLen false p)).map fun j => e.coef f (if j < n then j else 2 * n - 2 - j)

/-- The taps h[0] to h[L-1] of a ROM response at a ratio (R144): of a linear-phase one the second half mirrors the first. -/
def romTaps (r d : Nat) : List Int :=
  (List.range (romM r * d + 1)).map fun j => Config.romTap r d (if romMin r then j else min j (romM r * d - j))

/-- A weighted sum of 16-bit words of the samples, over the scale of the taps, rounded with ties away from zero (R142). -/
def hires (taps : List Int) (one : Int) (vs : List Int) : Int :=
  rdiv ((List.zipWith (fun h v => h * (16 * v)) taps vs).foldl (· + ·) 0) one

/-- What output `k` holds: one word, or the two of a PEAK pair, whether it is valid, and whether it saturated. -/
structure Carved where
  ws : List Int
  ok : Bool
  sat : Bool
  deriving DecidableEq, Repr

/-- Output `k` of a chain (R142, R150, R155). -/
def Eng.carve (e : Eng) (f : Fin 8) (k : Nat) : Carved :=
  let p := Pg.FCH f
  let r := e.fch[f]
  let d := e.get p FCH.DEC.RATIO
  let l := e.fchLen false p
  let m := e.get p FCH.DEC.MODE
  let bad := e.bit p FCH.STS.COEF_BAD || (e.fchRom false p && !e.bit Pg.FROM FROM.STS.ROM_OK)
  let whole := decide (l ≤ k * d + 1)
  match (if whole then r.window (r.i0 + k * d) l else none) with
  | none => ⟨if m = 1 then [e.free16 0, e.free16 1] else [e.free16 0], false, false⟩
  | some ws =>
    let ok := ws.all (·.ok) && !bad
    let vs := ws.map (·.v)
    if m = 0 then ⟨[16 * vs.headD 0], ok, false⟩
    else if m = 1 then ⟨[16 * vs.foldl min (vs.headD 0), 16 * vs.foldl max (vs.headD 0)], ok, false⟩
    else
      let rom := romTaps (e.get p FCH.RESP.ROM) d
      let y := if e.fchRam false p then hires (e.ramTaps f) 131072 vs else hires rom (rom.foldl (· + ·) 0) vs
      ⟨[clampI (-32767) 32767 y], ok, decide (y < -32767 ∨ 32767 < y)⟩

/-- A saturated output: SAT_CNT, IST.SAT, and FCH_SAT once more than 1000 lie within the last millisecond, which are then counted
anew (R142, R155). -/
def Eng.chainSat (e : Eng) (f : Fin 8) : Eng :=
  let p := Pg.FCH f
  let ts := within e.tb unitsPerMs 1001 e.fch[f].sat
  let many := decide (1000 < ts.length)
  let e1 := ((e.inc p FCH.SAT_CNT.COUNT).ist p FCH.IST.SAT).onFch f fun r => { r with sat := if many then [] else ts }
  if many then e1.raise p 0 0 (e1.named p) else e1

/-! ### Detectors (R154) -/

/-- The peak detector takes a valid output; with N = 0, or before any value since enable or clear, PK_VAL follows at once
(log entry 28). -/
def Eng.peakTake (e : Eng) (f : Fin 8) (ws : List Int) : Eng :=
  let p := Pg.FCH f
  let lo := ws.foldl min (ws.headD 0)
  let hi := ws.foldl max (ws.headD 0)
  let (a, b) := match e.fch[f].pkExt with
    | some (x, y) => (min x lo, max y hi)
    | none => (lo, hi)
  let e1 := e.onFch f fun r => { r with pkExt := some (a, b) }
  if e1.get p FCH.PK_HOLD.N = 0 ∨ !e1.bit p FCH.STS.PK_VALID then
    ((e1.putI p FCH.PK_VAL.MIN (clampI (-32767) 32767 a)).putI p FCH.PK_VAL.MAX (clampI (-32767) 32767 b)).put p FCH.STS.PK_VALID 1
  else e1

/-- The RMS window: the last 2^K valid outputs, restarted by an invalid one. A PEAK pair counts by its maximum (log entry 28). -/
def Eng.rmsTake (e : Eng) (f : Fin 8) (w : Int) (ok : Bool) : Eng :=
  let p := Pg.FCH f
  let n := 2 ^ e.get p FCH.RMS_CFG.K
  if !ok then (e.onFch f fun r => { r with rms := [] }).put p FCH.STS.RMS_VALID 0
  else
    let l := (w :: e.fch[f].rms).take n
    let e1 := e.onFch f fun r => { r with rms := l }
    if l.length = n then
      (e1.put p FCH.RMS_VAL.RMS (min 32767 (isqrt ((l.foldl (fun a x => a + x * x) 0).toNat / n)))).put p FCH.STS.RMS_VALID 1
    else e1.put p FCH.STS.RMS_VALID 0

/-- The envelope of 63 outputs, newest first (R154): the root of the middle one's square and of that of their Hilbert transform,
whose antisymmetric taps are free (`Config.hilbertTap`); rounded down (log entry 20). -/
def envelope (ys : List Int) : Nat :=
  let q := (List.range 31).foldl (fun a j => a + Config.hilbertTap (j + 1) * (ys.getD (32 + j) 0 - ys.getD (30 - j) 0)) 0
  let y := ys.getD 31 0
  isqrt ((y * y * 2 ^ 34 + q * q) / 2 ^ 34).toNat

/-- The envelope of the last 63 valid outputs. -/
def Eng.envTake (e : Eng) (f : Fin 8) (w : Int) (ok : Bool) : Eng :=
  let p := Pg.FCH f
  if !ok then (e.onFch f fun r => { r with env := [] }).put p FCH.STS.ENV_VALID 0
  else
    let l := (w :: e.fch[f].env).take 63
    let e1 := e.onFch f fun r => { r with env := l }
    if l.length = 63 then (e1.put p FCH.ENV_VAL.ENV (min 32767 (envelope l))).put p FCH.STS.ENV_VALID 1
    else e1.put p FCH.STS.ENV_VALID 0

/-- The levels of the detectors' sources after an output, against the thresholds as they stand then (R154). -/
def Eng.showLevels (e : Eng) (f : Fin 8) : Eng :=
  let p := Pg.FCH f
  let b (x : Bool) (i : Nat) : Nat := if x then 2 ^ i else 0
  let l := b (decide (e.getI p FCH.PK_TH.HI ≤ e.getI p FCH.PK_VAL.MAX)) 0 + b (decide (e.getI p FCH.PK_VAL.MIN ≤ e.getI p FCH.PK_TH.LO)) 1 +
    b (decide (e.get p FCH.RMS_CFG.TH ≤ e.get p FCH.RMS_VAL.RMS)) 2 + b (decide (e.get p FCH.ENV_CFG.TH ≤ e.get p FCH.ENV_VAL.ENV)) 3
  e.onFch f fun r => { r with lev := l }

/-- An output at the detectors. A hold counts every output. -/
def Eng.detect (e : Eng) (f : Fin 8) (o : Carved) : Eng :=
  let p := Pg.FCH f
  let w := o.ws.getLastD 0
  let e1 := if e.bit p FCH.DET.PK then
      let e' := e.onFch f fun r => { r with pkN := r.pkN + 1 }
      if o.ok then e'.peakTake f o.ws else e' else e
  let e2 := if e1.bit p FCH.DET.RMS then e1.rmsTake f w o.ok else e1
  (if e2.bit p FCH.DET.ENV then e2.envTake f w o.ok else e2).showLevels f

/-! ### Delivery -/

/-- Drop the samples that no later output or Schuss value reads. -/
def Eng.trimHist (e : Eng) (f : Fin 8) : Eng :=
  let p := Pg.FCH f
  let r := e.fch[f]
  let a := r.i0 + r.k * e.get p FCH.DEC.RATIO + 1 - e.fchLen false p
  let cut := (min a (r.sN - 7)) - r.base
  e.onFch f fun r => { r with hist := r.hist.drop cut, base := r.base + min cut r.hist.length }

/-- One Carve output of a chain, if its last sample has come: its counts, its detectors, the checks of its sequencers,
capture, accumulation and streams (R142, R149-R151, R158, R178, R192). -/
def Eng.carveOutput (e : Eng) (f : Fin 8) : Eng :=
  let p := Pg.FCH f
  let r := e.fch[f]
  let d := e.get p FCH.DEC.RATIO
  if !e.en p ∨ !r.run ∨ r.base + r.hist.length ≤ r.i0 + r.k * d then e
  else
    let o := e.carve f r.k
    let pair := e.fchPair f
    let t256 : Int := e.nextOut f
    let e1 := { e.onFch f fun r => { r with k := r.k + 1 } with freeCtr := e.freeCtr + 2 }
    let e2 := (e1.putI p FCH.LAST.CARVE (o.ws.getLastD 0)).inc p FCH.OUT_CNT.COUNT
    let e3 := if o.ok then e2 else e2.inc p FCH.INVALID_CNT.COUNT
    let left : Nat := e3.get p FCH.INVALID.COUNT
    let e4 : Eng := if left = 0 then e3
      else if left = 1 then ((e3.put p FCH.INVALID.COUNT 0).put p FCH.STS.SETTLING 0).ist p FCH.IST.SETTLE_END
      else e3.put p FCH.INVALID.COUNT (left - 1)
    let e5 := (if o.sat then e4.chainSat f else e4).detect f o
    let pt : Pt := ⟨o.ws.getLastD 0, o.ws.headD 0, o.ok, t256, d⟩
    let e6 := (e.trgsOf f).foldl (fun a t => a.checkPoint t d pt) e5
    let ws := o.ws.map fun w => (⟨w, o.ok⟩ : Smp)
    let e7 := units8.foldl (fun a (u : Fin 8) =>
      let q := Pg.ACQ u
      let a1 := if a.bit q ACQ.SRC.KIND && a.get q ACQ.SRC.FCH == f.val && (a.bit q ACQ.MODE.CAP || a.bit q ACQ.MODE.ACC) then
          a.acqStore u pair t256 (256 * d) ws else a
      if a1.streams u f then a1.accept u (Eng.strTake u f (256 * d) pair (ws.length + 1) t256 ws) else a1) e6
    e7.trimHist f

/-! ### Coefficient RAM and the other commands -/

/-- The coefficient at COEF_ADDR, which counts on (R146). -/
def Eng.coefRead (e : Eng) (f : Fin 8) : Eng :=
  let c := Store.get e.fch[f].coef (e.get (Pg.FCH f) FCH.COEF_ADDR.ADDR) 0
  { e.wrap (Pg.FCH f) FCH.COEF_ADDR.ADDR with resp := ⟨0, [c]⟩ }

/-- COEF_DATA written: the coefficient goes to COEF_ADDR, which counts on; a load clears COEF_BAD (R146, R155). -/
def Eng.coefWrite (e : Eng) (f : Fin 8) (c : Nat) : Eng :=
  let p := Pg.FCH f
  let a := e.get p FCH.COEF_ADDR.ADDR
  let e1 := e.onFch f fun r => { r with coef := Store.put r.coef a (c % 2 ^ 18) 0 }
  (e1.put p FCH.STS.COEF_BAD 0).wrap p FCH.COEF_ADDR.ADDR

/-- The peak values and their hold start again (R154). -/
def Eng.pkClear (e : Eng) (f : Fin 8) : Eng :=
  let p := Pg.FCH f
  (((e.put p FCH.STS.PK_VALID 0).put p FCH.PK_VAL.MIN 0).put p FCH.PK_VAL.MAX 0).onFch f fun r => { r with pkN := 0, pkExt := none }

/-- A hold of N outputs has ended: its extremes replace the values (R154). -/
def Eng.pkHoldEnd (e : Eng) (f : Fin 8) : Eng :=
  let p := Pg.FCH f
  let n := e.get p FCH.PK_HOLD.N
  if e.en p && e.bit p FCH.DET.PK && n != 0 && decide (n ≤ e.fch[f].pkN) then
    let e1 := match e.fch[f].pkExt with
      | some (a, b) => ((e.putI p FCH.PK_VAL.MIN (clampI (-32767) 32767 a)).putI p FCH.PK_VAL.MAX (clampI (-32767) 32767 b)).put p FCH.STS.PK_VALID 1
      | none => e
    ((e1.onFch f fun r => { r with pkN := r.pkN - n, pkExt := none }).showLevels f).ist p FCH.IST.PK_HOLD_END
  else e

/-- Parity of the coefficient RAM fails in use (R155). -/
def Eng.coefFault (e : Eng) (f : Fin 8) : Eng :=
  let p := Pg.FCH f
  if e.en p && e.fchRam false p then
    (((e.put p FCH.STS.COEF_BAD 1).inc p FCH.COEF_FAULT_CNT.COUNT).ist p FCH.IST.COEF_FAULT).raise p 1 1 (e.named p)
  else e

/-- A ROM check ran (R155). -/
def Eng.romCheck (e : Eng) (ok : Bool) : Eng :=
  let e1 := (e.inc Pg.FROM FROM.CHECK_CNT.COUNT).putB Pg.FROM FROM.STS.ROM_OK ok
  if ok then e1 else e1.raise Pg.FROM 2 3 8

/-! ### The commands -/

/-- SCHUSS_VALUE (R141): the values of one CKD cycle. -/
def execSchussValue (f : Fin 8) : State → Host.Outcome State Fault Refusal := onEng fun e => e.schussWord f

/-- FCH_GRID_START (R149): the grid of a chain starts after its four cycles of flush. -/
def execFchGridStart (f : Fin 8) : State → Host.Outcome State Fault Refusal :=
  onEng fun e => if e.en (Pg.FCH f) && !e.fch[f].run && e.fch[f].flush == 1 then e.gridStart f else e

/-- COEF_DATA_WRITE (R146): refused BUSY while the chain is enabled. -/
def execCoefDataWrite (who : Src) (f : Fin 8) (data : Word) : State → Host.Outcome State Fault Refusal :=
  onEng fun e => e.order who (Pg.FCH f) 0x58 false (e.en (Pg.FCH f)) fun e => e.coefWrite f data.toNat

/-- COEF_DATA_READ (R146): the coefficient at COEF_ADDR, which counts on. -/
def execCoefDataRead (who : Src) (f : Fin 8) : State → Host.Outcome State Fault Refusal :=
  onEng fun e =>
    match e.readDenied who (Pg.FCH f) 0x58 with
    | some e' => e'
    | none => e.coefRead f

/-- PK_HOLD_CLR (R154). -/
def execPkHoldClr (who : Src) (f : Fin 8) : State → Host.Outcome State Fault Refusal :=
  onEng fun e => e.order who (Pg.FCH f) 0x84 false false fun e => e.pkClear f

/-- PK_HOLD_END (R154). -/
def execPkHoldEnd (f : Fin 8) : State → Host.Outcome State Fault Refusal := onEng fun e => e.pkHoldEnd f

/-- FCH_COEF (R155). -/
def execFchCoef (f : Fin 8) : State → Host.Outcome State Fault Refusal := onEng fun e => e.coefFault f

/-- FROM_CHECK (R155). -/
def execFromCheck (ok : Bool) : State → Host.Outcome State Fault Refusal := onEng fun e => e.romCheck ok

end Sys2Proof.Machine
end

