-- ==== Sys2Proof/Machine/Converter.lean ====
section
/-! DEFINITION. Converter channels (R9-R12, R98-R118): one datapath word to every consumer, invalid spans, power-up and the
core map. -/
namespace Sys2Proof.Machine

/-- Words of the channel carry VALID = 1 (R27, R100, R109, R111, R115). -/
def Eng.wordOk (e : Eng) (c : Fin 4) : Bool :=
  let p := Pg.CNV c
  presentIn e.arr c && e.en p && e.bit p CNV.STS.UP && e.cnv[c].left == 0 && e.lock && e.bit Pg.ARR ARR.STS.MAP_OK

/-- Clips of a valid word (R112), and CNV_CLIP once LIMIT is passed within a window (R115). A window starts at the first clip
after the last one has elapsed, and raises CNV_CLIP once (DESIGN CHOICE: the rule places no window; log entry 73). -/
def Eng.clips (e : Eng) (c : Fin 4) (n : Nat) : Eng :=
  let p := Pg.CNV c
  let r := e.cnv[c]
  if n = 0 then e.put p CNV.STS.CLIP 0
  else
    let new := e.get p CNV.CLIP_CFG.WIN * 1000 * unitsPerNs ≤ e.tb - r.clipT
    let was := if new then 0 else r.clipN
    let e1 := (((e.put p CNV.STS.CLIP 1).add p CNV.CLIP_CNT.COUNT n).ist p CNV.IST.CLIP).onCnv c fun r =>
      { r with clipN := was + n, clipT := if new then e.tb else r.clipT }
    let lim := e.get p CNV.CLIP_CFG.LIMIT
    if was ≤ lim ∧ lim < was + n then e1.raise p 0 0 (e1.named p) else e1

/-- The tracer takes slot (c mod N) of the word of CKD cycle c (R135). -/
def Eng.traceTake (e : Eng) (c : Fin 4) (vs : List Int) : Eng :=
  let p := Pg.CAL c
  let st := e.get p CAL.DECL_STS.STATE
  if st = 0 ∨ st = 4 then e
  else
    let r := e.cal[c]
    let n := max (coresIn e.dev.ly6440 e.arr c).length 1
    let b := (vs.getD (r.cyc % n) 0 + 2048).toNat
    e.onCal c fun r => { r with bins := Store.put r.bins b (Store.get r.bins b 0 + 1) 0, binN := r.binN + 1 }

/-- The bandwidth limit (R103): a linear-phase low-pass filter over the corrected samples, `past` being those before them,
newest first. Its coefficients are free (`Config.bwlTap`; log entry 77). -/
def bandLimit (sel : Nat) (past vs : List Int) : List Int :=
  if sel = 0 then vs
  else
    let h := Config.bwlHalf sel
    let all := past.reverse ++ vs
    (List.range vs.length).map fun i =>
      let i' := past.length + i
      clampI (-2048) 2047 (rdiv ((List.range (2 * h + 1)).foldl
        (fun a j => a + Config.bwlTap sel (if j ≤ h then h - j else j - h) * (if j ≤ i' then all.getD (i' - j) 0 else 0)) 0) 131072)

/-- One datapath word of channel `c` in CKD cycle `ph` of the present CKC cycle (R9, R99, R103, R105, R109, R111). The corrected
words are limited to 12 bits; a channel that is absent, disabled or not valid delivers them with VALID = 0. The time is
that of the first sample at the AIN balls, the bandwidth limit's delay removed (R12). -/
def Eng.dataWord (e : Eng) (c : Fin 4) (ph : Nat) (samples : List Int) (clips : Nat) : Eng :=
  let p := Pg.CNV c
  let n := e.wordLen c
  let ok := e.wordOk c
  let vs := (List.range n).map fun i => clampI (-2048) 2047 (samples.getD i 0)
  let i0 := e.cnv[c].idx
  let sel := e.get p CNV.BWL.SEL
  let half := if sel = 0 then 0 else Config.bwlHalf sel
  let out := bandLimit sel e.cnv[c].past vs
  let left := e.cnv[c].left - 1
  let e1 := e.onCnv c fun r =>
    { r with
      idx := i0 + n, wIdx := i0, wTb := e.tb + ph * e.ckdSpan - half * e.ckdSpan / max n 1, spw := n, wOk := ok, left := left
      past := if sel = 0 then [] else (vs.reverse ++ r.past).take (2 * half) }
  let e2 := if ok then e1.clips c clips else e1.put p CNV.STS.CLIP 0
  let run := e2.bit (Pg.CAL c) CAL.STS.RUN
  let e3 := e2.onCal c fun r => { r with dirty := r.dirty || (run && !ok), cyc := r.cyc + 1 }
  let e4 := if ok then e3.traceTake c vs else e3
  let e5 := e4.put p CNV.SETTLE.CYCLES (left - 1)
  let ws := out.map fun v => (⟨v, ok⟩ : Smp)
  let e5 := units8.foldl (fun a (t : Fin 8) => if a.trgCh t = c then a.forceTake t i0 else a) (e5.tileTick c)
  let e6 := units8.foldl (fun a (f : Fin 8) =>
    if a.en (Pg.FCH f) && a.get (Pg.FCH f) FCH.INPUT.CH == c.val then a.chainTake f ws else a) e5
  units8.foldl (fun a (u : Fin 8) =>
    if !a.bit (Pg.ACQ u) ACQ.SRC.KIND && a.get (Pg.ACQ u) ACQ.SRC.CH == c.val then
      a.acqStore u false (256 * ((i0 + n : Nat) - 1 : Int)) 256 (out.map fun v => ⟨16 * v, ok⟩) else a) e6

/-- The VALID = 0 span ends, once its last word is past (R109, R110). -/
def Eng.settleEnd (e : Eng) (c : Fin 4) : Eng :=
  let p := Pg.CNV c
  if e.bit p CNV.STS.SETTLING && e.cnv[c].left == 0 then (e.put p CNV.STS.SETTLING 0).ist p CNV.IST.SETTLE_END else e

/-- STS.CALSTARVED follows CONVERGED, STARVED and BAD (R127). -/
def Eng.showCal (e : Eng) (c : Nat) : Eng :=
  let p := Pg.CAL c
  e.putB p CAL.STS.CALSTARVED (!e.bit p CAL.STS.CONVERGED || e.bit p CAL.STS.STARVED || e.bit p CAL.STS.BAD)

def loopSts (m : Nat) : Fld :=
  if m = 0 then CAL.LOOPSTS.OFS else if m = 1 then CAL.LOOPSTS.GAIN else if m = 2 then CAL.LOOPSTS.BW else CAL.LOOPSTS.SKEW

def Eng.frozen (e : Eng) (c : Fin 4) (m : Nat) : Bool := (e.get (Pg.CAL c) CAL.FREEZE.LOOP).testBit m

/-- LOOPSTS: FROZEN where FREEZE says so or the calibration is disabled, else STARVED, CONVERGED or CONVERGING (R123, R124,
R132). -/
def Eng.showLoops (e : Eng) (c : Fin 4) : Eng :=
  let l (m : Nat) : LoopRt := e.cal[c].loops.getD m LoopRt.fresh
  (List.range 4).foldl (fun a m => a.put (Pg.CAL c) (loopSts m)
    (if !e.en (Pg.CAL c) || e.frozen c m then 3 else if (l m).starved then 2 else if (l m).ok then 1 else 0)) e

/-- CAL_Q from the spur bound in 1/4 dB (R128). -/
def calQ (spur : Int) (converged : Bool) : Nat := (clampI 0 (if converged then 255 else 127) (-spur - 20)).toNat

/-- The timeout restarts (R126). -/
def Eng.tmoRestart (e : Eng) (c : Fin 4) : Eng :=
  (e.onCal c fun r => { r with tmoT := 0 }).put (Pg.CAL c) CAL.TMO_ELAPSED.MS 0

/-- STS.CONVERGED takes a value: rising clears BAD and sets IST.CONV (R123, R126), falling restarts the timeout; CAL_Q and
CALSTARVED follow (R127, R128). -/
def Eng.converge (e : Eng) (c : Fin 4) (now : Bool) : Eng :=
  let p := Pg.CAL c
  let was := e.bit p CAL.STS.CONVERGED
  let e1 := (e.putB p CAL.STS.CONVERGED now).put p CAL.QUAL.CAL_Q (calQ (e.getI p CAL.QUAL.SPUR) now)
  let e2 := if now && !was then (e1.put p CAL.STS.BAD 0).ist p CAL.IST.CONV else if was && !now then e1.tmoRestart c else e1
  e2.showCal c

/-- The loops start to converge anew: no block counted, none CONVERGED. -/
def Eng.loopsAnew (e : Eng) (c : Fin 4) : Eng :=
  (e.onCal c fun r => { r with loops := r.loops.map fun l => { l with conv := 0, ok := false } }).showLoops c

/-- Estimation blocks run back to back from here, or stop (R120): the first starts clean. -/
def Eng.calRun (e : Eng) (c : Fin 4) (on : Bool) : Eng :=
  (e.putB (Pg.CAL c) CAL.STS.RUN on).onCal c fun r => { r with dirty := false, pend := none }

/-- An enabled channel starts to power up: its words are invalid until UP, and its loops rest (R111, R120). -/
def Eng.powerUp (e : Eng) (c : Fin 4) : Eng :=
  ((e.put (Pg.CNV c) CNV.STS.UP 0).onCnv c fun r => { r with upWait := true }).calRun c false

/-- STS.UP, 1024 CKD cycles after the grant (R111); a power-up clears CONVERGED, since the cores may have drifted (R132), and
enabled loops run. -/
def Eng.powerUpDone (e : Eng) (c : Fin 4) : Eng :=
  let p := Pg.CNV c
  if e.en p && e.cnv[c].upWait && !e.bud.powerWait.contains p then
    let e1 := ((e.onCnv c fun r => { r with upWait := false }).put p CNV.STS.UP 1).ist p CNV.IST.UP_DONE
    let e2 := ((e1.onCal c fun r => { r with powered := true }).loopsAnew c).converge c false
    e2.calRun c (e2.en (Pg.CAL c))
  else e

/-- STS.UP did not come (R115): EN and the tickets stay, words stay invalid. -/
def Eng.powerTimeout (e : Eng) (c : Fin 4) : Eng :=
  let p := Pg.CNV c
  if e.en p && e.cnv[c].upWait then
    (((e.onCnv c fun r => { r with upWait := false }).inc p CNV.PWR_FAIL_CNT.COUNT).ist p CNV.IST.PWR_FAIL).raise p 1 1 (e.named p)
  else e

/-- The core map's parity fails (R115): no word is valid, running acquisitions end FAULT. -/
def Eng.arrMap (e : Eng) : Eng :=
  let e1 := ((e.put Pg.ARR ARR.STS.MAP_OK 0).ist Pg.ARR ARR.IST.MAP_FAULT).raise Pg.ARR 2 3 8
  e1.endWhere (fun _ => true) 7

/-! ### The commands -/

/-- SETTLE_END (R109). -/
def execSettleEnd (ch : Fin 4) : State → Host.Outcome State Fault Refusal := onEng fun e => e.settleEnd ch

/-- CNV_POWER_UP_DONE (R111). -/
def execCnvPowerUpDone (ch : Fin 4) : State → Host.Outcome State Fault Refusal := onEng fun e => e.powerUpDone ch

/-- CNV_PWR_TIMEOUT (R115). -/
def execCnvPwrTimeout (ch : Fin 4) : State → Host.Outcome State Fault Refusal := onEng fun e => e.powerTimeout ch

/-- ARR_MAP (R115). -/
def execArrMap : State → Host.Outcome State Fault Refusal := onEng fun e => e.arrMap.runDeferred

end Sys2Proof.Machine
end

