-- ==== Sys2Proof/Machine/Calibration.lean ====
section
/-! DEFINITION. Background calibration (R119-R139): estimation blocks and the loops' corrections, starvation and time-out,
resets, warm-up and the declared-level tracer. -/
namespace Sys2Proof.Machine

/-- Length of an estimation block (R120). -/
def Eng.blockSpan (e : Eng) : Nat := 4096 * e.ckdSpan

/-- The detectors that fire on a block: bit 0 LOWACT, 1 PERIODIC, 2 GUARD, 3 NOHF (R124). -/
def Eng.detectors (e : Eng) (c : Fin 4) (s : BlockStats) : Nat :=
  let p := Pg.CAL c
  let n := max (coresIn e.dev.ly6440 e.arr c).length 1
  let low := decide (100 * e.get p CAL.ACTIVITY.ACT_MIN < s.rms)
  let per := s.period != 0 && decide (s.period / Nat.gcd s.period n < e.get p CAL.ACTIVITY.PHASE_MIN)
  let hit (k : Nat) : Bool := (e.get p CAL.GUARD.KMASK).testBit k && decide (s.guard.getD k 100000 < 100 * e.get p CAL.GUARD.TH)
  let hf := decide (100 * e.get p CAL.ACTIVITY.HF_MIN < s.hf)
  low.toNat + 2 * per.toNat + 4 * ((List.range 8).any hit).toNat + 8 * hf.toNat

/-- Guard point of the strongest GUARD hit, 0 for none (R124). -/
def Eng.guardK (e : Eng) (c : Fin 4) (s : BlockStats) : Nat :=
  let p := Pg.CAL c
  (List.range 8).foldl (fun b k =>
    let x := s.guard.getD k 100000
    if (e.get p CAL.GUARD.KMASK).testBit k ∧ x < 100 * e.get p CAL.GUARD.TH ∧ (b = 0 ∨ x < s.guard.getD (b - 1) 100000) then k + 1 else b) 0

/-- Detectors marked for a loop (0 OFS, 1 GAIN, 2 BW, 3 SKEW) in the table of R124. -/
def marked (m : Nat) : Nat := if m = 0 then 6 else if m = 2 then 15 else 7

def loopRange (m : Nat) : Int := if m = 0 then 2048 else if m = 1 then 60000 else if m = 2 then 500 else 1500

def stepMax (m : Nat) : Fld :=
  if m = 0 then CAL.STEP_MAX.OFS else if m = 1 then CAL.STEP_MAX.GAIN else if m = 2 then CAL.STEP_MAX.BW else CAL.STEP_MAX.SKEW

def coreFld (m k : Nat) : Fld :=
  if m = 0 then CAL.CORE.OFS k else if m = 1 then CAL.CORE.GAIN k else if m = 2 then CAL.CORE.BW k else CAL.CORE.SKEW k

/-- A loop after a qualifying block (R123-R125): `err` is its largest error. -/
def Eng.loopStep (e : Eng) (c : Fin 4) (m det : Nat) (err : Int) (l : LoopRt) : LoopRt :=
  if e.frozen c m then { l with starved := false, starveT := 0, limited := false }
  else if det &&& marked m ≠ 0 then { l with starved := true, starveT := l.starveT + e.blockSpan }
  else
    let th := Config.convThreshold m
    let n := if err < th then l.conv + 1 else 0
    let ok := if l.ok then decide (err ≤ 4 * th) else decide (16 ≤ n)
    { conv := if l.ok && !ok then 0 else min n 16, ok := ok, starved := false, starveT := 0, limited := false }

/-- A correction after a block: moved by the error times 2^-(K+4), at most STEP_MAX, within the range (R119, R122). -/
def Eng.corrected (e : Eng) (c : Fin 4) (m : Nat) (v err : Int) : Int × Bool :=
  let p := Pg.CAL c
  let s : Int := e.get p (stepMax m)
  let x := v + clampI (-s) s (rdiv err (2 ^ (e.get p (CAL.LOOP_GAIN.K m) + 4)))
  (clampI (-(loopRange m)) (loopRange m) x, decide (loopRange m < x.natAbs))

/-- Take `s` back, in proportion, from the positive moves of a list; `p` is what they sum to. -/
def takeBack : Int → Int → List Int → List Int
  | _, _, [] => []
  | s, p, d :: r =>
    let t := if 0 < d ∧ 0 < p then (s * d + p - 1) / p else 0
    (d - t) :: takeBack (s - t) (p - max d 0) r

/-- Moves of a channel's cores whose sum is 0: the surplus is taken back, in proportion, from those that made it, so that no
move grows and none changes its sign (R119: no loop changes the channel's mean; DESIGN CHOICE how it is kept, log entry 75). -/
def balanced (ds : List Int) : List Int :=
  let s := ds.foldl (· + ·) 0
  let pos (l : List Int) : Int := l.foldl (fun a d => a + max d 0) 0
  if 0 ≤ s then takeBack s (pos ds) ds
  else
    let ns := ds.map fun d => -d
    (takeBack (-s) (pos ns) ns).map fun d => -d

/-- Block end (R120-R126): a block with an invalid word is discarded; otherwise the detectors and the loops, whose corrections and
status wait for cycle 16 of the next block. The offset and gain corrections keep their mean over the channel. -/
def Eng.calBlockEnd (e : Eng) (c : Fin 4) (s : BlockStats) : Eng :=
  let p := Pg.CAL c
  if !e.bit p CAL.STS.RUN then e
  else if e.cal[c].dirty then (e.onCal c fun r => { r with dirty := false, pend := none }).inc p CAL.DISCARD_CNT.COUNT
  else
    let det := e.detectors c s
    let cores := coresIn e.dev.ly6440 e.arr c
    let old := e.cal[c].loops
    let worst (m : Nat) : Int := s.err.foldl (fun a r => max a ((r.getD m 0).natAbs : Int)) 0
    let new := (List.range 4).map fun m => e.loopStep c m det (worst m) (old.getD m LoopRt.fresh)
    let moves (m : Nat) : Bool := !e.frozen c m && !(new.getD m LoopRt.fresh).starved
    let v (m k : Nat) : Int := e.getI p (coreFld m k)
    let out (m : Nat) : List (Int × Bool) := cores.zipIdx.map fun x =>
      if moves m then e.corrected c m (v m x.1) ((s.err.getD x.2 []).getD m 0) else (v m x.1, false)
    let col (m : Nat) : List Int :=
      let ds := List.zipWith (fun (x : Int × Bool) k => x.1 - v m k) (out m) cores
      List.zipWith (fun d k => v m k + d) (if m < 2 then balanced ds else ds) cores
    let rows := (List.range 16).map fun k =>
      match cores.idxOf? k with
      | some j => (List.range 4).map fun m => (col m).getD j 0
      | none => []
    let range := (List.range 4).any fun m => (out m).any (·.2)
    let took := (List.range 4).any fun m => moves m && !(old.getD m LoopRt.fresh).ok
    let e1 := e.onCal c fun r => { r with pend := some ⟨rows, range, s.spur, new, det, e.guardK c s, took⟩ }
    e1.inc p CAL.BLOCK_CNT.COUNT

/-- Loop status, CONVERGED, STARVED and what follows them, as the loops stand (R123-R128). -/
def Eng.calStatus (e : Eng) (c : Fin 4) : Eng :=
  let p := Pg.CAL c
  let l (m : Nat) : LoopRt := e.cal[c].loops.getD m LoopRt.fresh
  let enter := (List.range 4).any fun m => (l m).starved && e.get p (loopSts m) != 2
  let e1 := (e.showLoops c).putB p CAL.STS.STARVED ((List.range 4).any fun m => (l m).starved)
  let e2 := if enter then e1.ist p CAL.IST.STARVED else e1
  e2.converge c ((List.range 4).all fun m => e.frozen c m || (l m).ok)

/-- Cycle 16 of the next block: corrections, SPUR, CAL_Q and status in force together (R120), with the timeout's count (R126). A
loop that was frozen meanwhile keeps its correction. -/
def Eng.calUpdate (e : Eng) (c : Fin 4) : Eng :=
  let p := Pg.CAL c
  match e.cal[c].pend with
  | none => e
  | some q =>
    let rows := (List.range 16).map fun k =>
      (List.range 4).map fun m => if e.frozen c m then e.getI p (coreFld m k) else (q.cores.getD k []).getD m 0
    let t := if q.took && !e.bit p CAL.STS.CONVERGED then e.cal[c].tmoT + e.blockSpan else e.cal[c].tmoT
    let e1 := (e.putCores c rows).onCal c fun r => { r with pend := none, loops := q.loops, tmoT := t }
    let e2 := ((e1.put p CAL.STARVE_WHY.DET q.det).put p CAL.STARVE_WHY.K q.k).put p CAL.TMO_ELAPSED.MS (min (t / unitsPerMs) 65535)
    let e3 := if q.loops.any (·.starved) then e2.inc p CAL.STARVE_CNT.COUNT else e2
    let e4 := ((e3.putB p CAL.STS.RANGE q.range).putI p CAL.QUAL.SPUR (clampI (-2048) 2047 q.spur)).calStatus c
    if q.range then (e4.ist p CAL.IST.RANGE).raise p 2 1 (e4.named p) else e4

/-- A loop has starved for STARVE_MS (R125): once for the run. -/
def Eng.starveLimit (e : Eng) (c m : Fin 4) : Eng :=
  let p := Pg.CAL c
  let l := e.cal[c].loops.getD m LoopRt.fresh
  if l.starved && !l.limited && decide (e.get p CAL.LIMITS.STARVE_MS * unitsPerMs ≤ l.starveT) then
    let e1 := e.onCal c fun r => { r with loops := r.loops.set m { l with limited := true } }
    (e1.ist p CAL.IST.STARVE_LIM).raise p 0 1 (e1.named p)
  else e

/-- TMO_ELAPSED reaches TMO_MS without convergence (R126). -/
def Eng.calTmo (e : Eng) (c : Fin 4) : Eng :=
  let p := Pg.CAL c
  if !e.bit p CAL.STS.CONVERGED && !e.bit p CAL.STS.BAD && decide (e.get p CAL.LIMITS.TMO_MS * unitsPerMs ≤ e.cal[c].tmoT) then
    let e1 := ((e.put p CAL.STS.BAD 1).ist p CAL.IST.BAD).showCal c
    e1.raise p 1 1 (e1.named p)
  else e

/-- Calibration reset (R131): snapshot and skew trim, convergence and timeout start again. -/
def Eng.calReset (e : Eng) (c : Fin 4) : Eng :=
  let p := Pg.CAL c
  let cores := coresIn e.dev.ly6440 e.arr c
  let row (k : Nat) : List Int :=
    let s := e.cal[c].snap.getD k []
    if cores.contains k then [s.getD 0 0, s.getD 1 0, s.getD 2 0, Config.coreTrim 3 k] else []
  let e1 := ((e.putCores c ((List.range 16).map row)).onCal c fun r => { r with pend := none }).loopsAnew c
  (((e1.put p CAL.STS.BAD 0).put p CAL.STS.RANGE 0).tmoRestart c).converge c false

/-- The scale returns to factory trim, the tracer to OFF (R133). -/
def Eng.declReset (e : Eng) (c : Fin 4) : Eng :=
  let p := Pg.CAL c
  let e1 := ((e.put p CAL.STS.SCALE 0).put p CAL.DECL_SCALE.PPM 0).put p CAL.DECL_OFFS.CODE16 0
  ((e1.put p CAL.DECL_STS.STATE 0).put p CAL.DECL_STS.FOUND 0).onCal c fun r => { r with bins := [], binN := 0, good := 0, lost := 0, locked := false }

/-- The tracer starts seeking afresh (R134, R137). -/
def Eng.seek (e : Eng) (c : Fin 4) : Eng :=
  let p := Pg.CAL c
  ((e.put p CAL.DECL_STS.STATE 1).put p CAL.DECL_STS.FOUND 0).onCal c fun r => { r with bins := [], binN := 0, good := 0, lost := 0, locked := false }

/-- The four factory trims of a core (R129). -/
def trimRow (k : Nat) : List Int := (List.range 4).map fun m => Config.coreTrim m k

/-- CMD.REWARM (R130): the tickets of the noise source are one more request of the page; the loops start from factory trim
(R129). -/
def Eng.rewarm (e : Eng) (who : Src) (c : Fin 4) : Eng :=
  let p := Pg.CAL c
  let e1 := e.put p CAL.STS.REWARM 1
  let r := e1.reqFor false p
  match e1.tixCause r with
  | some k => (e.tixRefused who r k).refuse who p 0x40 .noCredit
  | none => (e1.putCores c ((List.range 16).map trimRow)).grantTix r

/-- The snapshot of the cores named is renewed, for every channel they may serve. -/
def Eng.putSnap (e : Eng) (cores : List Nat) (rows : List (List Int)) : Eng :=
  let new (old : List (List Int)) : List (List Int) := (List.range 16).map fun k =>
    match cores.idxOf? k with
    | some j => rows.getD j []
    | none => old.getD k []
  { e with cal := e.cal.map fun r => { r with snap := new r.snap } }

/-- Warm-up of a channel's cores ends (R129, R130): the cores it has at ARR = S, in which a start-up runs, or at a rewarm its
present ones (log entry 78). `ok`: all loops converged within 120 ms. `rows`: the corrections the loops reached, core by core;
a core whose row is missing did not converge, and starts from factory trim (CAL_WARM, R138). -/
def Eng.warmEnd (e : Eng) (c : Fin 4) (ok : Bool) (rows : List (List Int)) : Eng :=
  let p := Pg.CAL c
  let start := e.cal[c].warming
  if !start && !e.bit p CAL.STS.REWARM then e
  else
    let cores := coresIn e.dev.ly6440 (if start then 2 else e.arr) c
    let got := cores.zipIdx.map fun x =>
      let r := rows.getD x.2 []
      if r = [] then trimRow x.1 else (List.range 4).map fun m => clampI (-(loopRange m)) (loopRange m) (r.getD m 0)
    let e1 := (e.putSnap cores got).putB p CAL.STS.WARM_OK ok
    let e2 := if ok then e1 else e1.raise p 3 1 (e1.named p)
    let e3 := [0, 1, 2, 3].foldl (fun a (k : Fin 4) => a.putCores k ((List.range 16).map fun j =>
      match cores.idxOf? j with
      | some i => got.getD i []
      | none => (List.range 4).map fun m => a.getI (Pg.CAL k) (coreFld m j))) e2
    let e4 := ((e3.put p CAL.STS.REWARM 0).relax p).onCal c fun r =>
      { r with warming := false, loops := r.loops.map fun l => { l with conv := if ok then 16 else 0, ok := ok } }
    (whenB start (fun a => a.relax (Pg.CNV c)) (e4.showLoops c)).converge c ok

/-! ### Declared levels (R133-R137) -/

/-- Full scale in mVppd by gain step (R102). -/
def fsMv (gain : Nat) : Nat := if gain = 0 then 1000 else if gain = 1 then 500 else if gain = 2 then 250 else 125

/-- The declared levels in µV, ascending: sync and blanking, and the positive pulse of tri-level (R133). -/
def Eng.declared (e : Eng) (sh : Bool) (p : Nat) : List Int :=
  let v (f : Fld) : Int := signed 24 (e.rd sh p f)
  if e.rd sh p CAL.DECL_CFG.MODE = 2 then [v CAL.DECL_LO.UV, v CAL.DECL_HI.UV, v CAL.DECL_TOP.UV]
  else [v CAL.DECL_LO.UV, v CAL.DECL_HI.UV]

/-- A declared level as a code, in 1/65536 (R105): FS/2 is 500 µV times the full scale in mV. -/
def codeOf (mv : Nat) (uv : Int) : Int := uv * (2048 * 65536) / (500 * (max mv 1 : Nat))

/-- The measured level for a code: the centroid, in 1/65536, around the highest bin in search range that holds PEAK_MIN % of
the samples; the lowest such bin where several are equal (R135). -/
def Eng.measured (e : Eng) (c : Fin 4) (code : Int) : Option Int :=
  let p := Pg.CAL c
  let r := e.cal[c]
  let range := 4096 * e.get p CAL.DECL_CFG.SEARCH
  let best := r.bins.foldl (fun (b : Option (Nat × Nat)) x =>
    let d := ((x.1 : Int) - 2048) * 65536 - code
    if 100 * d.natAbs ≤ range * 65536 ∧ e.get p CAL.DECL_CFG.PEAK_MIN * r.binN ≤ 100 * x.2 then
      match b with
      | some y => if y.2 < x.2 then some x else b
      | none => some x
    else b) none
  best.map fun x =>
    let near := r.bins.filter fun y => decide (y.1 ≤ x.1 + 8 ∧ x.1 ≤ y.1 + 8)
    let n := near.foldl (fun a y => a + y.2) 0
    near.foldl (fun a y => a + ((y.1 : Int) - 2048) * 65536 * y.2) 0 / (max n 1 : Nat)

/-- The scale that maps measured levels to declared codes, in ppm: two levels, or the least-squares fit of three (R136). -/
def fitPpm (d m : List Int) : Int :=
  let n : Int := max d.length 1
  let sd := d.foldl (· + ·) 0
  let sm := m.foldl (· + ·) 0
  let sxy := (List.zipWith (fun a b => a * b) d m).foldl (· + ·) 0 * n - sd * sm
  let sxx := (m.map fun b => b * b).foldl (· + ·) 0 * n - sm * sm
  rdiv (1000000 * sxy) sxx

/-- A tracer window ends (R135, R136). Changes are limited to 0.5 % and 4 codes; a change counts as below 0.05 % where the
scale moves by less than 500 ppm and the offset by less than 0.05 % of FS/2 (log entry 30). -/
def Eng.declWindow (e : Eng) (c : Fin 4) : Eng :=
  let p := Pg.CAL c
  let st := e.get p CAL.DECL_STS.STATE
  if st = 0 ∨ st = 4 then e
  else
    let mv := fsMv (e.get (Pg.CNV c) CNV.INPUT.GAIN)
    let ds := (e.declared false p).map (codeOf mv)
    let ms := ds.map (e.measured c)
    let e0 := e.onCal c fun r => { r with bins := [], binN := 0 }
    if ms.all (·.isSome) then
      let m := ms.map fun x => x.getD 0
      let s := clampI 995000 1005000 (fitPpm ds m)
      let want := ds.getD 1 0 - rdiv (m.getD 1 0 * s) 1000000
      let o := clampI (-4 * 65536) (4 * 65536) want
      let small := decide ((s - 1000000).natAbs < 500) && decide (o.natAbs * 10000 < 5 * 2048 * 65536)
      let ppm := rdiv ((1000000 + e.getI p CAL.DECL_SCALE.PPM) * s) 1000000 - 1000000
      let offs := rdiv (e.getI p CAL.DECL_OFFS.CODE16 * s) 1000000 + rdiv o 4096
      let good := if small then e.cal[c].good + 1 else 0
      let lock := decide (3 ≤ good)
      let e1 := ((e0.putI p CAL.DECL_SCALE.PPM ppm).putI p CAL.DECL_OFFS.CODE16 offs).put p CAL.STS.SCALE 1
      let e2 := (e1.inc p CAL.DECL_STS.FOUND).onCal c fun r => { r with good := min good 3, lost := 0, locked := r.locked || lock }
      if st = 2 then e2
      else if lock then (e2.put p CAL.DECL_STS.STATE 2).ist p CAL.IST.DECL_LOCK
      else e2.put p CAL.DECL_STS.STATE 1
    else
      let lost := if st = 2 then e.cal[c].lost + 1 else 0
      let e1 := (e0.put p CAL.DECL_STS.FOUND 0).onCal c fun r => { r with good := 0, lost := lost }
      if lost = 3 then ((e1.put p CAL.DECL_STS.STATE 3).ist p CAL.IST.DECL_LOST).raise p 4 0 (e1.named p) else e1

/-- After a change of gain: a declared level outside the new full scale stops the tracer; otherwise it seeks again (R137). -/
def Eng.gainChanged (e : Eng) (c : Fin 4) : Eng :=
  let p := Pg.CAL c
  let st := e.get p CAL.DECL_STS.STATE
  let half : Int := 500 * fsMv (e.get (Pg.CNV c) CNV.INPUT.GAIN)
  if st = 0 ∨ st = 4 then e
  else if (e.declared false p).any (fun v => decide (v < -half ∨ half < v)) then e.put p CAL.DECL_STS.STATE 4
  else e.seek c

/-! ### The commands -/

/-- CAL_BLOCK_END (R120). -/
def execCalBlockEnd (ch : Fin 4) (stats : BlockStats) : State → Host.Outcome State Fault Refusal :=
  onEng fun e => e.calBlockEnd ch stats

/-- CAL_UPDATE_APPLY (R120): cycle 16 of the next block. -/
def execCalUpdateApply (ch : Fin 4) : State → Host.Outcome State Fault Refusal := onEng fun e => e.calUpdate ch

/-- STARVE_LIMIT (R125). -/
def execStarveLimit (ch loop : Fin 4) : State → Host.Outcome State Fault Refusal := onEng fun e => e.starveLimit ch loop

/-- CAL_TMO (R126). -/
def execCalTmo (ch : Fin 4) : State → Host.Outcome State Fault Refusal := onEng fun e => e.calTmo ch

/-- CAL_RESET (R131): CMD.RESET. -/
def execCalReset (who : Src) (ch : Fin 4) : State → Host.Outcome State Fault Refusal :=
  onEng fun e => e.order who (Pg.CAL ch) 0x40 false false fun e => e.calReset ch

/-- CAL_DECL_RESET (R133): CMD.DECL_RESET. -/
def execCalDeclReset (who : Src) (ch : Fin 4) : State → Host.Outcome State Fault Refusal :=
  onEng fun e => e.order who (Pg.CAL ch) 0x40 false false fun e => e.declReset ch

/-- CAL_REWARM (R130): CMD.REWARM, while the converter is off and the calibration on. -/
def execCalRewarm (who : Src) (ch : Fin 4) : State → Host.Outcome State Fault Refusal :=
  onEng fun e => e.order who (Pg.CAL ch) 0x40 false (e.en (Pg.CNV ch) || !e.en (Pg.CAL ch)) fun e => e.rewarm who ch

/-- DECL_WINDOW_END (R135). -/
def execDeclWindowEnd (ch : Fin 4) : State → Host.Outcome State Fault Refusal := onEng fun e => e.declWindow ch

end Sys2Proof.Machine
end

