-- ==== Sys2Proof/Machine/Map.lean ====
section
/-! DEFINITION. The DRAM address map (R220-R224), reads and writes of DRAM through it, and the map switch (R239-R241). -/
namespace Sys2Proof.Machine

/-- Bytes of a granule (R57). -/
def granule : Nat := 2 ^ 28

/-- P_K: units of 256 B that a granule takes on each of `k` channels (R222). -/
def unitsPerChan (k : Nat) : Nat := ceilDiv (2 ^ 20) k

/-- Channel capacity in bytes: the die density by ranks in use (R219). -/
def Eng.chanBytes (e : Eng) : Nat :=
  2 ^ (30 + e.get (Pg.DMC 0) DMC.DEV.DENS) * (if e.bit (Pg.DMC 0) DMC.DEV.RANKS2 then 2 else 1)

/-- Usable bytes of a channel: 1/8 less under inline ECC (R222, R224). -/
def Eng.usable (e : Eng) : Nat :=
  if e.bit Pg.DMX DMX.STS.IECC then e.chanBytes - e.chanBytes / 8 else e.chanBytes

/-- GRAN for `k` channels in service (R222). -/
def Eng.granFor (e : Eng) (k : Nat) : Nat := if k = 0 then 0 else e.usable / (256 * unitsPerChan k)

def Eng.gran (e : Eng) : Nat := e.get Pg.DMX DMX.CAP.GRAN

/-- The channel of a DRAM byte address under the map in force, and the byte address on it (R222). -/
def Eng.place (e : Eng) (a : Nat) : Nat × Nat :=
  let k := max e.mapGood.length 1
  let u := a % granule / 256
  (e.mapGood.getD (u % k) 0, 256 * (a / granule * unitsPerChan k + u / k) + a % 256)

/-- Bank (rank, bank group, bank) and row of a channel byte address (R223). -/
def Eng.bankRow (e : Eng) (a : Nat) : Nat × Nat :=
  let r := 15 + e.get (Pg.DMC 0) DMC.DEV.DENS
  let row := a / 2 ^ 15 % 2 ^ r
  let bg := (a / 2 ^ 11 % 4) ^^^ (row % 4)
  let bk := (a / 2 ^ 13 % 4) ^^^ (row / 4 % 4)
  (a / 2 ^ (15 + r) % 2 * 16 + bg * 4 + bk, row)

def Eng.dmcState (e : Eng) (d : Nat) : Nat := e.get (Pg.DMC d) DMC.STS.STATE

/-- A channel passes its training: the least eye of its DQs, in 1/256 UI, reaches MIN_EYE (R235). `eyes` lists them by channel. -/
def Eng.passes (e : Eng) (eyes : List Nat) (d : Nat) : Bool := decide (e.get Pg.DMX DMX.RETRAIN2.MIN_EYE ≤ eyes.getD d 0)

/-- DRAM takes no accesses: a channel of the map is in self-refresh or initialisation (R22, R93, R235). -/
def Eng.dramShut (e : Eng) : Bool := e.mapGood.any fun d => e.dmcState d == 5 || e.dmcState d == 1

/-- The unit that holds a byte lies on a degraded channel (R240). -/
def Eng.degradedAt (e : Eng) (a : Nat) : Bool := e.dmcState (e.place a).1 == 4

/-- A write to this byte lands: inside GRAN, and its channel is written to (R222, R239). -/
def Eng.takesWrite (e : Eng) (a : Nat) : Bool := decide (a / granule < e.gran) && !e.degradedAt a

/-- The byte that a read returns: all ones beyond GRAN (R222); what was written; else a free value of the contents that
the last initialisation or map switch left (log entry 2). -/
def Eng.readByte (e : Eng) (m : Mem) (a : Nat) : Byte :=
  if e.gran ≤ a / granule then 0xFF
  else
    match m.get? a with
    | some b => b
    | none => Config.freeByte (a + 2 ^ 40 * e.epoch)

def Eng.readBytes (e : Eng) (m : Mem) (a n : Nat) : List Byte := (List.range n).map fun i => e.readByte m (a + i)

/-- The bytes that an engine-internal read gets: it is never issued to a degraded channel (R240), so what stands there is free. -/
def Eng.fetchBytes (e : Eng) (m : Mem) (a n : Nat) : List Byte :=
  (List.range n).map fun i => if e.degradedAt (a + i) then Config.freeByte (a + i + 2 ^ 40 * e.epoch) else e.readByte m (a + i)

/-- Write bytes where they land. -/
def Eng.writeBytes (e : Eng) (m : Mem) (a : Nat) : List Byte → Mem
  | [] => m
  | b :: r => e.writeBytes (if e.takesWrite a then m.set a b else m) (a + 1) r

/-- Units of 256 B that a range touches. -/
def unitsOf (a n : Nat) : List Nat := (List.range (if n = 0 then 0 else (a + n - 1) / 256 - a / 256 + 1)).map fun i => (a / 256 + i) * 256

/-- Bytes of a range that lie on degraded channels. -/
def Eng.lostBytes (e : Eng) (a n : Nat) : Nat :=
  (unitsOf a n).foldl (fun s x => if e.degradedAt x then s + (min (a + n) (x + 256) - max a x) else s) 0

/-- The partition drains. -/
def Eng.drains? (e : Eng) (n : Nat) : Bool := decide (n < 8) && e.drains.any fun d => d.part == n

/-- Bytes that partition `n` writes while it drains, as far as DRAIN.BUDGET allows (R73). -/
def Eng.drainRoom (e : Eng) (n bytes : Nat) : Bool :=
  !e.drains? n || decide (Store.get e.drainB n 0 + bytes ≤ 2 ^ 20 * e.get Pg.PRT (PRT.P_DRAIN.BUDGET n))

def Eng.drainWrote (e : Eng) (n bytes : Nat) : Eng :=
  if e.drains? n then { e with drainB := Store.put e.drainB n (Store.get e.drainB n 0 + bytes) 0 } else e

/-- Data of a drain that was bound for a degraded channel counts as discarded (R73, R239 step 3). -/
def Eng.dropLost (e : Eng) (n bytes : Nat) : Eng :=
  if bytes = 0 ∨ !e.drains? n then e
  else ((e.add Pg.PRT (PRT.DRAIN_DROP.KIB n) (ceilDiv bytes 1024)).prtIst n PRT.IST.DRAIN_DROP).raise Pg.PRT 1 1 n

/-- Reads of units on degraded channels are counted (R240), accesses beyond GRAN too (R222). -/
def Eng.countReads (e : Eng) (a n : Nat) : Eng :=
  (unitsOf a n).foldl (fun b x =>
    if b.gran ≤ x / granule then b.inc Pg.DMX DMX.BEYOND_CNT.COUNT
    else if b.degradedAt x then b.inc Pg.DMX DMX.DEGRADED_READ_CNT.COUNT else b) e

def Eng.countWrites (e : Eng) (a n : Nat) : Eng :=
  (unitsOf a n).foldl (fun b x => if b.gran ≤ x / granule then b.inc Pg.DMX DMX.BEYOND_CNT.COUNT else b) e

/-! ### Regions and areas -/

/-- Two areas share a unit. -/
def overlaps (a n b m : Nat) : Bool := decide (0 < n ∧ 0 < m ∧ a < b + m ∧ b < a + n)

/-- An area, in 256 B units, lies in the owner's region (R57): within the partition's granules; or, for the supervisor, whose offsets
are DRAM addresses (log entry 23), in granules outside every partition's region. -/
def Eng.inRegion (e : Eng) (o base size : Nat) : Bool :=
  let reg (n : Nat) : Nat × Nat := (2 ^ 20 * e.get Pg.PRT (PRT.P_REGION.BASE n), 2 ^ 20 * e.get Pg.PRT (PRT.P_REGION.COUNT n))
  if o < 8 then decide (base + size ≤ (reg o).2)
  else decide (base + size ≤ 2 ^ 20 * e.gran) && (List.range 8).all fun n => !overlaps base size (reg n).1 (reg n).2

/-! ### The map switch (R241) -/

/-- Channels of a list as the mask of POP.GOOD. -/
def maskOf (l : List Nat) : Nat := l.foldl (fun a i => a ||| 2 ^ i) 0

/-- The contents of all DRAM become unspecified. -/
def Eng.unspecified (e : Eng) : Eng := { e with epoch := e.epoch + 1 }

/-- The pending map applies to all of DRAM in one cycle. -/
def Eng.mapSwitch (e : Eng) : Eng :=
  let e1 := { e with mapGood := e.mapNext }
  let e2 := ((e1.put Pg.DMX DMX.CAP.GRAN (e.get Pg.DMX DMX.CAP.GRAN_NEXT)).wrap Pg.DMX DMX.MAP_GEN.COUNT).inc Pg.DMX DMX.REMAP_CNT.COUNT
  ((e2.put Pg.DMX DMX.STS.SWITCH_PENDING 0).ist Pg.DMX DMX.IST.REMAPPED).unspecified

/-- Channel `d` leaves service: the next map is computed and waits for its switch (R239 step 5). -/
def Eng.nextMap (e : Eng) : Eng :=
  let l := (List.range 8).filter fun d => decide (d < e.get Pg.DMX DMX.POP.N) && e.dmcState d != 4 && e.dmcState d != 0
  let e1 := { e with mapNext := l }
  ((((e1.put Pg.DMX DMX.CAP.GRAN_NEXT (e1.granFor l.length)).put Pg.DMX DMX.POP.K l.length).put Pg.DMX DMX.POP.GOOD (maskOf l)).put
    Pg.DMX DMX.STS.SWITCH_PENDING 1)

end Sys2Proof.Machine
end

