-- ==== Sys2Proof/Machine/Capture.lean ====
section
/-! DEFINITION. Acquisition units (R178-R195): layout, the checks of an arm with those of its accumulation units and of an
outrun, segments and stream blocks written to DRAM, and the unit's commands. -/
namespace Sys2Proof.Machine

/-! ### Layout (R179, R180, R193, R283) -/

/-- Header table of the capture area in 256 B units. -/
def Eng.hdrUnits (e : Eng) (u : Fin 8) : Nat := ceilDiv (e.get (Pg.ACQ u) ACQ.SEG_COUNT.COUNT) 4

/-- OUT_SLOTS: the most slots that fit with their header table in OUT_SIZE (R283). -/
def Eng.outSlots (e : Eng) : Nat :=
  let s := e.stride (fin8 (e.get Pg.XPT XPT.OUT_CFG.ACQ))
  let size := e.get Pg.XPT XPT.OUT_SIZE.U256
  let n := 4 * size / max (4 * s + 1) 1
  let n := if ceilDiv n 4 + n * s ≤ size then n else n - 1
  min n (2 ^ 21 - 1)

def Eng.showSlots (e : Eng) : Eng := e.put Pg.XPT XPT.OUT_SLOTS.N e.outSlots

/-- Stream rate in bytes per second times the denominator of RS (R181). -/
def Eng.strRateNum (e : Eng) (u : Fin 8) : Nat :=
  let f := e.get (Pg.ACQ u) ACQ.SRC.FCH
  let c := e.get (Pg.FCH f) FCH.INPUT.CH
  e.rsNum * e.spw c * (if e.fchPair f then 2 else 1) * e.acqBits u

def Eng.strRateDen (e : Eng) (u : Fin 8) : Nat :=
  e.rsDen * 32 * 8 * max (e.get (Pg.FCH (e.get (Pg.ACQ u) ACQ.SRC.FCH)) FCH.DEC.RATIO) 1

/-- The stored-sample rate of a unit's Capture source, as a fraction per second (R106, R178, R280). -/
def Eng.acqRate (e : Eng) (u : Fin 8) : Nat × Nat :=
  let p := Pg.ACQ u
  let f := e.get p ACQ.SRC.FCH
  let k := e.bit p ACQ.SRC.KIND
  (e.rsNum * e.spw (e.acqCh u) * (if e.acqPair u then 2 else 1),
   e.rsDen * 32 * if k then max (e.get (Pg.FCH f) FCH.DEC.RATIO) 1 else 1)

/-- The margined T_out at the present velocity, as a fraction of a second (R280). -/
def Eng.tOut (e : Eng) : Nat × Nat :=
  let a := max (e.get Pg.XPT XPT.DECEL_A.A) 1
  let v := (e.getI Pg.XPT XPT.VEL.CPS).natAbs - e.get Pg.XPT XPT.STOP_VEL.VEL
  ((e.get Pg.XPT XPT.DECEL_T.TR * a + 10000 * v + 100 * a) * (100 + e.get Pg.XPT XPT.OUT_CFG.MARGIN), 10000 * a * 100)

/-- N_pred of the outrun acquisition (R280). -/
def Eng.nPred (e : Eng) : Nat :=
  let u := fin8 (e.get Pg.XPT XPT.OUT_CFG.ACQ)
  ceilDiv (e.tOut.1 * (e.acqRate u).1) (max (e.tOut.2 * (e.acqRate u).2 * e.segLen u) 1) + 1

/-- The unit has a bound, enabled accumulation unit with an enabled zone that stops the transport, and fails the outrun
size check (R288). -/
def Eng.outTooLong (e : Eng) (u : Fin 8) : Bool :=
  let x := units8.any fun h => e.bound u h && e.en (Pg.HIS h) && (List.range 4).any fun k =>
    (e.get (Pg.HIS h) HIS.MASK_CTL.ZEN).testBit k && e.bit (Pg.HIS h) (HIS.ZACT.XSTOP k)
  x && (!e.en Pg.XPT || !e.bit Pg.XPT XPT.OUT_CFG.ACQ_EN || e.get Pg.XPT XPT.OUT_CFG.ACQ != u.val ||
    !e.bit (Pg.ACQ u) ACQ.MODE.CAP || decide (e.get Pg.XPT XPT.OUT_SLOTS.N < e.nPred))

/-- DATA_BASE, STRIDE and STR_RATE follow the live configuration (R180, R181). -/
def Eng.acqRefresh (e : Eng) (u : Fin 8) : Eng :=
  let p := Pg.ACQ u
  let e1 := (e.put p ACQ.DATA_BASE.U256 (e.get p ACQ.MEM_BASE.U256 + e.hdrUnits u)).put p ACQ.STRIDE.U256 (e.stride u)
  (e1.put p ACQ.STR_RATE.MBS (min 65535 (e.strRateNum u / (e.strRateDen u * 10 ^ 6)))).showSlots

/-- Blocks of the DRAM ring. -/
def Eng.ringBlocks (e : Eng) (u : Fin 8) : Nat :=
  256 * e.get (Pg.ACQ u) ACQ.STR_SIZE.U256 / 2 ^ e.get (Pg.ACQ u) ACQ.STR_CFG.BLK

/-- The ring is a whole number of blocks, at least two (R195). -/
def Eng.ringOk (e : Eng) (u : Fin 8) : Bool :=
  256 * e.get (Pg.ACQ u) ACQ.STR_SIZE.U256 % 2 ^ e.get (Pg.ACQ u) ACQ.STR_CFG.BLK == 0 && decide (2 ≤ e.ringBlocks u)

/-! ### Writing what waits (R183, R184, R189, R192, R193) -/

/-- Stored words of samples; the content of an invalid one is a free value (R190). -/
def Eng.wordsOf (e : Eng) (ss : List Smp) : List Int :=
  ss.zipIdx.map fun x => if x.1.ok then x.1.v else e.free16 x.2

/-- Index from which every sample is valid, index of the last valid one, and how many are invalid. -/
def firstValid (ss : List Smp) : Nat := ss.length - (ss.reverse.takeWhile (·.ok)).length
def lastValid (ss : List Smp) : Nat :=
  let tail := (ss.reverse.takeWhile fun s => !s.ok).length
  if tail = ss.length then 0xFFFFFFFF else ss.length - 1 - tail
def invCount (ss : List Smp) : Nat := (ss.filter fun s => !s.ok).length

/-- The 64-byte header of a segment (R189). -/
def Eng.segHeader (e : Eng) (u : Fin 8) (g : Seg) : List Byte :=
  let p := Pg.ACQ u
  let o := e.owner p
  let c : Conf := g.conf.getD ⟨0, 0, 0, 0, 0, false, false, false⟩
  let flag (b : Bool) (i : Nat) : Nat := if b then 2 ^ i else 0
  let flags := flag (invCount g.data != 0) 0 + flag g.ovf 1 + flag g.runout 2 + flag g.memf 3 + flag g.calstv 4 + flag g.gdref 5 +
    flag g.early 6 + flag c.nointerp 7 + flag c.forced 8 + flag g.trunc 9 + flag g.mposOk 10
  let src := c.trg % 8 + 8 * e.get p ACQ.SRC.KIND + 16 * e.get p ACQ.SRC.FMT
  let body := leBytes 2 0x5347 ++ leBytes 1 1 ++ leBytes 1 (u.val + 16 * (o % 8)) ++ leBytes 4 g.seq ++ leBytes 12 (tb96 c.tb) ++
    leBytes 1 c.frac ++ leBytes 1 c.tag ++ leBytes 1 g.calq ++ leBytes 1 src ++ leBytes 4 g.pgen ++ leBytes 4 g.preAct ++
    leBytes 4 (firstValid g.data) ++ leBytes 4 (lastValid g.data) ++ leBytes 4 g.data.length ++ leBytes 4 (invCount g.data) ++
    leBytes 6 (unsigned 48 g.mpos) ++ leBytes 2 flags ++ leBytes 2 (min g.missedD 0xFFFF) ++ leBytes 2 (min g.earlyD 0xFFFF)
  body ++ leBytes 4 (crc32 body)

/-- Where a segment's header and data lie: its capture-area slot, or its outrun slot (R180, R285). -/
def Eng.segAt (e : Eng) (u : Fin 8) (g : Seg) : Nat × Nat :=
  let p := Pg.ACQ u
  let o := e.owner p
  match g.outSlot with
  | none => (e.regionAddr o (e.get p ACQ.MEM_BASE.U256) + 64 * g.slot,
      e.regionAddr o (e.get p ACQ.MEM_BASE.U256 + e.hdrUnits u + g.slot * e.stride u))
  | some r =>
    let b := e.get Pg.XPT XPT.OUT_BASE.U256
    (e.regionAddr o b + 64 * r, e.regionAddr o (b + ceilDiv (e.get Pg.XPT XPT.OUT_SLOTS.N) 4 + r * e.stride u))

/-- The oldest SEQ whose slot is still its own (R187). -/
def Eng.oldest (e : Eng) (u : Fin 8) (count : Nat) : Nat :=
  if e.bit (Pg.ACQ u) ACQ.SEG_COUNT.WRAP then count - e.get (Pg.ACQ u) ACQ.SEG_COUNT.COUNT else 0

/-- A header whose write met an uncorrectable error: its CRC fails on read (R194); the bits that are wrong are free. -/
def Eng.spoiled (e : Eng) (hd : List Byte) : List Byte :=
  let body := hd.take 60
  body ++ leBytes 4 ((crc32 body + 1 + (Config.freeWord e.freeCtr).toNat % (2 ^ 32 - 1)) % 2 ^ 32)

/-- A write of `n` bytes by a unit that runs no more is a drain write, if its owner drains (R72); any other is not limited. -/
def Eng.mayWrite (e : Eng) (o : Nat) (runs : Bool) (n : Nat) : Bool := runs || e.drainRoom o n
def Eng.wrote (e : Eng) (o : Nat) (runs : Bool) (n : Nat) : Eng := if runs then e else e.drainWrote o n

/-- Bytes that the oldest closed segment and the oldest closed block of a DRAM ring take; none where nothing waits. -/
def Eng.segBytes (e : Eng) (u : Fin 8) : Option Nat := e.acq[u].done.head?.map fun g => ceilDiv (g.data.length * e.acqBits u) 8 + 64
def Eng.blkBytes (e : Eng) (u : Fin 8) : Option Nat :=
  if e.bit (Pg.ACQ u) ACQ.STR_CFG.DEST then none else e.acq[u].blks.head?.map fun b => ceilDiv (b.data.length * e.acqBits u) 8 + 32

/-- Write the oldest closed segment: data, then header, then SEG_DONE (R183, R184); `hdrUe`: the header's write met an uncorrectable
error. One whose header falls on a channel out of service is discarded and never counted (R239, R73). -/
def Eng.writeSeg (e : Eng) (m : Mem) (u : Fin 8) (hdrUe : Bool) : Eng × Mem :=
  match e.acq[u].done with
  | [] => (e, m)
  | g :: rest =>
    let p := Pg.ACQ u
    let (ha, da) := e.segAt u g
    let o := e.owner p
    let e0 := e.onAcq u fun a => { a with done := rest, drained := 0 }
    let bs := packed (e.get p ACQ.SRC.FMT) (e.wordsOf g.data)
    let lost := if e.drains? o then e.lostBytes da bs.length + e.lostBytes ha 64 else 0
    let size := (e.segBytes u).getD 0
    if !e.mayWrite o (e.armed u) size then (e, m)
    else if e.degradedAt ha ∨ (lost ≠ 0 ∧ !g.memf) then ((e0.showFill u).dropLost o lost, m)
    else
      let hd := if hdrUe then e.spoiled (e.segHeader u g) else e.segHeader u g
      let m1 := e.writeBytes (e.writeBytes m da bs) ha hd
      let n := g.seq + 1
      let e1 := ({ e0 with freeCtr := e0.freeCtr + g.data.length }.wrote o (e.armed u) size).countWrites da bs.length |>.countWrites ha 64
      let e2 := ((e1.put p ACQ.SEG_DONE.COUNT n).put p ACQ.SEG_OLDEST.SEQ (e1.oldest u n)).inc p ACQ.SEG_TOTAL.COUNT
      let e3 := if g.outSlot.isSome then e2.inc Pg.XPT XPT.OUT_DONE.COUNT else e2
      ((((e3.ist p ACQ.IST.SEG).pulse (0x48 + u)).showFill u).dropLost o lost, m1)

/-- The 32-byte header of a stream block (R193). -/
def blkHeader (b : Blk) : List Byte :=
  let inv := invCount b.data
  let flags := (inv != 0).toNat + 2 * b.ovf.toNat + 4 * b.gdref.toNat + 8 * (decide (0xFFFF < inv)).toNat
  leBytes 6 b.bseq ++ leBytes 2 (min inv 0xFFFF) ++ leBytes 12 (tb96 b.tfirst) ++ leBytes 4 (firstValid b.data) ++
    leBytes 4 b.data.length ++ leBytes 1 flags ++ leBytes 1 b.calq ++ leBytes 2 b.pgen

/-- The ring has room for one more block (R192). -/
def Eng.ringRoom (e : Eng) (u : Fin 8) : Bool :=
  let n := e.ringBlocks u
  n != 0 && (e.get (Pg.ACQ u) ACQ.STR_WR.BLOCK + 1) % n != e.get (Pg.ACQ u) ACQ.STR_RD.BLOCK

/-- Write the oldest closed block of a DRAM-ring stream, if the ring has room. -/
def Eng.writeBlk (e : Eng) (m : Mem) (u : Fin 8) : Eng × Mem :=
  match e.acq[u].blks with
  | [] => (e, m)
  | b :: rest =>
    let p := Pg.ACQ u
    let size := (e.blkBytes u).getD 0
    if e.bit p ACQ.STR_CFG.DEST ∨ !e.ringRoom u ∨ !e.mayWrite (e.owner p) (e.armed u) size then (e, m)
    else
      let w := e.get p ACQ.STR_WR.BLOCK
      let a := e.regionAddr (e.owner p) (e.get p ACQ.STR_BASE.U256) + w * 2 ^ e.get p ACQ.STR_CFG.BLK
      let bs := blkHeader b ++ packed (e.get p ACQ.SRC.FMT) (e.wordsOf b.data)
      let m1 := e.writeBytes m a bs
      let lost := if e.drains? (e.owner p) then e.lostBytes a bs.length else 0
      let e1 := e.onAcq u fun r => { r with blks := rest }
      let e2 := ({ e1 with freeCtr := e1.freeCtr + b.data.length }.wrote (e.owner p) (e.armed u) size).countWrites a bs.length
      let e3 := e2.meterM4 (e.owner p) (32 + (b.data.length * e.acqBits u + 7) / 8)
      ((((e3.put p ACQ.STR_WR.BLOCK ((w + 1) % max (e.ringBlocks u) 1)).ist p ACQ.IST.BLOCK).showFill u).dropLost (e.owner p) lost, m1)

/-- Write everything of a unit that waits and can be written. -/
def Eng.flushAcq (e : Eng) (m : Mem) (u : Fin 8) : Eng × Mem :=
  let n := e.acq[u].done.length
  let k := e.acq[u].blks.length
  let (e1, m1) := (List.range n).foldl (fun (x : Eng × Mem) _ => x.1.writeSeg x.2 u false) (e, m)
  (List.range k).foldl (fun (x : Eng × Mem) _ => x.1.writeBlk x.2 u) (e1, m1)

/-! ### Snapshots of accumulation units (R205, R206) -/

/-- A unit's area fits its data and lies in its owner's region. -/
def Eng.hisAreaOk (e : Eng) (h : Fin 8) : Bool :=
  let p := Pg.HIS h
  e.inRegion (e.owner p) (e.get p HIS.MEM_BASE.U256) (e.get p HIS.MEM_SIZE.U256) &&
  decide (1 + ceilDiv (e.hisBytes h) 256 ≤ e.get p HIS.MEM_SIZE.U256)

/-- The data a unit goes on from with KEEP = 1: the words of its DRAM image (R205). -/
def Eng.loadBins (e : Eng) (m : Mem) (h : Fin 8) : Store × Store :=
  let p := Pg.HIS h
  let a := e.regionAddr (e.owner p) (e.get p HIS.MEM_BASE.U256) + 256
  (List.range (e.hisX h * e.hisY h)).foldl (fun (s : Store × Store) k =>
    let w := ofLE (e.fetchBytes m (a + 4 * k) 4)
    if e.get p HIS.CFG.TYPE = 3 then (Store.put s.1 k (w % 65536) 0x7FFF, Store.put s.2 k (w / 65536) 0x8000)
    else (Store.put s.1 k w 0, s.2)) ([], [])

/-- A unit with KEEP = 1 goes on from its DRAM image: it is fetched before its first words and before a snapshot. -/
def Eng.loadUnit (e : Eng) (m : Mem) (h : Fin 8) : Eng :=
  if e.his[h].load then
    let b := e.loadBins m h
    e.onHis h fun r => { r with load := false, bins := b.1, mx := b.2 }
  else e
def Eng.loadKept (e : Eng) (m : Mem) : Eng := units8.foldl (fun a h => a.loadUnit m h) e

/-- A snapshot finishes: data, then the summary block (R205). One whose area is not the owner's writes nothing. -/
def Eng.snapDone (e : Eng) (m : Mem) (h : Fin 8) : Eng × Mem :=
  if !e.his[h].snapping || !e.mayWrite (e.owner (Pg.HIS h)) e.his[h].on (e.hisBytes h + 256) then (e, m)
  else
    let p := Pg.HIS h
    let e1 := (e.loadUnit m h).wrote (e.owner p) e.his[h].on (e.hisBytes h + 256)
    let a := e1.regionAddr (e1.owner p) (e1.get p HIS.MEM_BASE.U256)
    let m1 := if e1.hisAreaOk h then
        e1.writeBytes (e1.writeBytes m (a + 256) (e1.hisData h)) a (e1.summary h ++ List.replicate 192 0) else m
    let lost := if e1.drains? (e1.owner p) ∧ e1.hisAreaOk h then e1.lostBytes (a + 256) (e1.hisBytes h) + e1.lostBytes a 256 else 0
    let e2 := if e1.hisAreaOk h then (e1.countWrites (a + 256) (e1.hisBytes h)).countWrites a 256 else e1
    (((e2.onHis h fun r => { r with snapping := false }).ist p HIS.IST.SNAP_DONE).dropLost (e1.owner p) lost, m1)

/-- A drain's budget is spent: something waits that it has no room for (R73). -/
def Eng.budgetSpent (e : Eng) (n : Nat) : Bool :=
  units8.any fun u =>
    let o := e.owner (Pg.ACQ u)
    (o == n && ([e.segBytes u, e.blkBytes u].any fun b => match b with | some k => !e.mayWrite o (e.armed u) k | none => false)) ||
    (e.owner (Pg.HIS u) == n && e.his[u].snapping && !e.mayWrite n e.his[u].on (e.hisBytes u + 256))

/-! ### Arming (R181, R184, R196, R198, R201, R205, R214, R215, R241, R283) -/

/-- The acquisition has an area in DRAM. -/
def Eng.hasArea (e : Eng) (u : Fin 8) : Bool :=
  let p := Pg.ACQ u
  e.bit p ACQ.MODE.CAP || e.bit p ACQ.MODE.ACC || (e.bit p ACQ.MODE.STR && !e.bit p ACQ.STR_CFG.DEST)

/-- Enabled units bound to an acquisition. -/
def Eng.boundTo (e : Eng) (u : Fin 8) : List (Fin 8) := units8.filter fun h => e.bound u h

/-- Areas of the acquisition itself, in 256 B units. -/
def Eng.acqAreas (e : Eng) (u : Fin 8) : List (Nat × Nat) :=
  let p := Pg.ACQ u
  (if e.bit p ACQ.MODE.CAP then [(e.get p ACQ.MEM_BASE.U256, e.get p ACQ.MEM_SIZE.U256)] else []) ++
  (if e.bit p ACQ.MODE.STR && !e.bit p ACQ.STR_CFG.DEST then [(e.get p ACQ.STR_BASE.U256, e.get p ACQ.STR_SIZE.U256)] else [])

/-- Areas of its accumulation units. -/
def Eng.hisAreas (e : Eng) (u : Fin 8) : List (Nat × Nat) :=
  if e.bit (Pg.ACQ u) ACQ.MODE.ACC then
    (e.boundTo u).map fun (h : Fin 8) => (e.get (Pg.HIS h) HIS.MEM_BASE.U256, e.get (Pg.HIS h) HIS.MEM_SIZE.U256)
  else []

/-- Some two areas of a list share a unit. -/
def anyOverlap : List (Nat × Nat) → Bool
  | [] => false
  | a :: r => r.any (fun b => overlaps a.1 a.2 b.1 b.2) || anyOverlap r

/-- OWNER of an arm: a channel, chain, sequencer, HIS unit or ring that the owner may not use. -/
def Eng.armOwner (e : Eng) (u : Fin 8) : Bool :=
  let p := Pg.ACQ u
  let o := e.owner p
  let cap := e.bit p ACQ.MODE.CAP
  let acc := e.bit p ACQ.MODE.ACC
  let str := e.bit p ACQ.MODE.STR
  (!e.bit p ACQ.SRC.KIND && (cap || acc) && !e.mayUse o (e.get p ACQ.SRC.CH)) ||
  ((e.bit p ACQ.SRC.KIND || str) && e.owner (Pg.FCH (e.get p ACQ.SRC.FCH)) != o) ||
  (e.bit p ACQ.TRIG.TRG_EN && e.owner (Pg.TRG (e.get p ACQ.TRIG.TRG)) != o) ||
  (acc && (e.boundTo u).any fun h => e.owner (Pg.HIS h) != o) ||
  (str && e.bit p ACQ.STR_CFG.DEST && (o == 8 || e.owner (Pg.DMQ (2 * o + e.get p ACQ.STR_CFG.RING)) != o))

/-- W16 without a decimating chain as the source that is stored (R107). -/
def Eng.badFmt (e : Eng) (u : Fin 8) : Bool :=
  let p := Pg.ACQ u
  let raw := !e.bit p ACQ.SRC.KIND && (e.bit p ACQ.MODE.CAP || e.bit p ACQ.MODE.ACC)
  let chain := e.bit p ACQ.SRC.KIND || e.bit p ACQ.MODE.STR
  e.get p ACQ.SRC.FMT == 3 ||
  (e.get p ACQ.SRC.FMT == 2 && (raw || (chain && decide (e.get (Pg.FCH (e.get p ACQ.SRC.FCH)) FCH.DEC.RATIO < 2))))

/-- RANGE of an arm on account of one accumulation unit. -/
def Eng.hisRange (e : Eng) (u h : Fin 8) : Bool :=
  let t := e.get (Pg.HIS h) HIS.CFG.TYPE
  (e.trigd h && !e.bit (Pg.ACQ u) ACQ.TRIG.TRG_EN) || ((t == 1 || t == 2) && e.acqPair u) || !e.hisAreaOk h

/-- The outrun region of an outrun acquisition fails its check (R283). -/
def Eng.outRange (e : Eng) (u : Fin 8) : Bool :=
  let base := e.get Pg.XPT XPT.OUT_BASE.U256
  let size := e.get Pg.XPT XPT.OUT_SIZE.U256
  let o := e.owner (Pg.ACQ u)
  e.bit Pg.XPT XPT.OUT_CFG.ACQ_EN && e.get Pg.XPT XPT.OUT_CFG.ACQ == u && e.owner Pg.XPT == o &&
  (!e.inRegion o base size || (e.acqAreas u ++ e.hisAreas u).any fun a => overlaps a.1 a.2 base size)

/-- The map under which an arm is checked: the pending one where the arm carries the switch. -/
def Eng.carries (e : Eng) (u : Fin 8) : Bool := e.bit Pg.DMX DMX.STS.SWITCH_PENDING && e.hasArea u

def Eng.armRange (e : Eng) (u : Fin 8) : Bool :=
  let p := Pg.ACQ u
  let o := e.owner p
  let cap := e.bit p ACQ.MODE.CAP
  let acc := e.bit p ACQ.MODE.ACC
  let str := e.bit p ACQ.MODE.STR
  let ring := str && !e.bit p ACQ.STR_CFG.DEST
  let g := if e.carries u then e.get Pg.DMX DMX.CAP.GRAN_NEXT else e.gran
  let fits := o == 8 || decide (e.get Pg.PRT (PRT.P_REGION.BASE o) + e.get Pg.PRT (PRT.P_REGION.COUNT o) ≤ g)
  let quota := e.get p ACQ.PRE.SAMPLES * e.acqBits u +
    (if acc then ((e.boundTo u).filter fun h => e.trigd h).foldl (fun n h => n + 16 * e.recLen h) 0 else 0)
  (!cap && !acc && !str) || e.badFmt u ||
  (cap && (!e.bit p ACQ.TRIG.TRG_EN || decide (e.segLen u < e.get p ACQ.PRE.SAMPLES) || decide (e.get p ACQ.BUF.MIB < 2) ||
    decide (e.get p ACQ.MEM_SIZE.U256 < e.hdrUnits u + e.get p ACQ.SEG_COUNT.COUNT * e.stride u))) ||
  (str && !e.bit p ACQ.SRC.KIND && !e.en (Pg.FCH (e.get p ACQ.SRC.FCH))) ||
  (ring && !e.ringOk u) || (e.acqAreas u).any (fun a => !e.inRegion o a.1 a.2) || anyOverlap (e.acqAreas u ++ e.hisAreas u) ||
  decide (8 * 2 ^ 20 * (e.get p ACQ.BUF.MIB - 1) < quota) ||
  (acc && ((e.boundTo u).isEmpty || (e.boundTo u).any fun h => e.hisRange u h)) ||
  (e.hasArea u && (!fits || g == 0)) || e.outRange u || e.outTooLong u

/-- The sum of stream rates with this one, in bytes per second (R181). -/
def Eng.strSum (e : Eng) (u : Fin 8) : Nat :=
  units8.foldl (fun n v => if v = u ∨ (e.armed v ∧ e.bit (Pg.ACQ v) ACQ.MODE.STR) then n + ceilDiv (e.strRateNum v) (e.strRateDen v) else n) 0

def Eng.armBusy (e : Eng) (u : Fin 8) : Bool :=
  let p := Pg.ACQ u
  let o := e.owner p
  let st := e.partState o
  let sum := units8.foldl (fun n v => if v = u ∨ e.armed v then n + e.get (Pg.ACQ v) ACQ.BUF.MIB else n) 0
  !e.en p || e.armed u || e.bit p HDR.STS.PENDING || e.retune || e.bit Pg.ARR HDR.STS.PENDING || !e.ready ||
  (decide (o < 8) && (st == 2 || st == 3 || st == 4)) || decide (32 < sum) ||
  (e.bit p ACQ.MODE.STR && decide (24 * 10 ^ 9 < e.strSum u)) ||
  (e.hasArea u && e.mapBad) ||
  (e.carries u && (e.bit Pg.DMX DMX.CFG.REMAP || !e.drains.isEmpty))

/-- The code an arm is refused with (R36, R181); none where it is accepted. -/
def Eng.armCode (e : Eng) (u : Fin 8) : Option Code :=
  if e.armOwner u then some .owner else if e.armRange u then some .range else if e.armBusy u then some .busy else none

/-- The acquisition is armed, in PREFILL; `m` is DRAM with what waited already written. -/
def Eng.armed' (e : Eng) (m : Mem) (u : Fin 8) : Eng × Mem :=
  let p := Pg.ACQ u
  let (e0, m0) := if e.carries u then (e.mapSwitch, []) else (e, m)
  let e1 := [ACQ.MISSED.COUNT, ACQ.EARLY_CNT.COUNT, ACQ.SEG_DONE.COUNT, ACQ.SEG_OLDEST.SEQ, ACQ.BUF_PEAK.BYTES, ACQ.STR_WR.BLOCK,
    ACQ.STR_RD.BLOCK, ACQ.STATE.END].foldl (fun a f => a.put p f 0) (e0.acqRefresh u)
  let e2 := (e1.onAcq u fun _ => AcqRt.fresh).put p ACQ.STS.ARMED 1
  let e3 := e2.put p ACQ.STATE.STATE 1
  let e4 := if e3.bit p ACQ.MODE.ACC then (e3.boundTo u).foldl (fun a h => a.hisStart u h) e3 else e3
  ((e4.loadKept m0).showFill u, m0)

/-- CMD.ARM: what still waits of earlier runs is written first. -/
def Eng.arm (e : Eng) (m : Mem) (u : Fin 8) : Eng × Mem :=
  let (e1, m1) := e.flushAcq m u
  let (e2, m2) := (e1.boundTo u).foldl (fun (x : Eng × Mem) h => x.1.snapDone x.2 h) (e1, m1)
  e2.armed' m2 u

/-! ### The other commands -/

/-- DATAPATH_WORD (R9, R99): the word, then what waited for an outrun that it ended. -/
def execDatapathWord (ch ph : Fin 4) (samples : List Int) (clips : Nat) : State → Host.Outcome State Fault Refusal := fun s =>
  onEng (fun e => ((e.loadKept s.mem).dataWord ch ph samples clips).runDeferred) s

/-- CARVE_OUTPUT (R142). -/
def execCarveOutput (f : Fin 8) : State → Host.Outcome State Fault Refusal := fun s =>
  onEng (fun e => ((e.loadKept s.mem).carveOutput f).runDeferred) s

/-- TENT_RESOLVE (R168). -/
def execTentResolve (t : Fin 8) : State → Host.Outcome State Fault Refusal := fun s =>
  onEng (fun e => ((e.loadKept s.mem).tentResolve t).runDeferred) s

/-- The unit's staged registers apply (R182). -/
def Eng.acqApply (e : Eng) (u : Fin 8) : Eng :=
  let p := Pg.ACQ u
  let o := e.owner p
  (((((e.applyShad p fun _ => true).commitShown p o).pgen o).relax p).acqRefresh u).hisRuns u

/-- Re-arm is complete (R185): a pending commit applies; a pending group holds the unit (R42). -/
def Eng.rearmDone (e : Eng) (u : Fin 8) : Eng :=
  let p := Pg.ACQ u
  if !e.armed u ∨ !e.acq[u].rearm then e
  else if (e.grpOf p).isSome then (e.onAcq u fun a => { a with rearm := false, held := true }).showAcq u
  else
    let e1 := if e.bit p HDR.STS.PENDING then e.acqApply u else e
    (e1.onAcq u fun a => { a with rearm := false }).showAcq u

/-- The open segment has its last sample and its CONF (R183). -/
def Eng.segReady (e : Eng) (u : Fin 8) : Bool :=
  match e.acq[u].seg with
  | some g => g.conf.isSome && decide (g.len ≤ g.data.length)
  | none => false

/-- POST of a STOP zone ran out in this CKC cycle: the STOP makes that end STOPPED (R210). -/
def Eng.stopMask (e : Eng) (u : Fin 8) : Eng :=
  let p := Pg.ACQ u
  if e.armed u then e.onAcq u fun a => { a with ending := 2, postAt := none }
  else units8.foldl (fun a h => if a.bound u h && a.bit p ACQ.MODE.ACC then a.onHis h fun r => { r with partialEnd := false } else a)
    ((e.put p ACQ.STATE.END 2).onAcq u fun a => { a with postAt := none })

/-- CMD.STOP (R188); in an outrun it takes effect at its end (R287). -/
def Eng.stop (e : Eng) (u : Fin 8) : Eng :=
  if e.acq[u].postAt = some e.cyc then e.stopMask u
  else if !e.armed u ∨ e.get (Pg.ACQ u) ACQ.STATE.STATE = 7 ∨ (e.acq[u].ending ≠ 0 ∧ e.acq[u].ending ≠ 6) then e else e.orderEnd u 2

/-- An overflowed acquisition whose buffered data is written, to DRAM or by DMA (R191). -/
def Eng.overDone (e : Eng) (u : Fin 8) : Bool :=
  let a := e.acq[u]
  a.overrun && a.seg.isNone && a.done.isEmpty && a.blks.isEmpty

/-- A suspended stream stops at the end of its block (R65). -/
def Eng.strSuspend (e : Eng) (u : Fin 8) : Eng :=
  if e.armed u ∧ e.acq[u].ending = 6 ∧ e.acq[u].seg = none ∧ e.acq[u].cur = none then e.endAcq u 6 else e

/-- CMD.ARM by a requester: refused, or the acquisition arms. -/
def Eng.armCmd (e : Eng) (m : Mem) (who : Src) (u : Fin 8) : Eng × Mem :=
  let p := Pg.ACQ u
  match e.denied who p 0x60 false with
  | some e' => (e', m)
  | none =>
    match e.armCode u with
    | some c => (e.refuse who p 0x60 c, m)
    | none => if e.busyFor who p then (e.refuse who p 0x60 .busy, m) else { e with resp := ⟨0, []⟩ }.arm m u

/-- ACQ_ARM (R181). -/
def execAcqArm (who : Src) (u : Fin 8) : State → Host.Outcome State Fault Refusal := onBoth fun e m => e.armCmd m who u

/-- SEGMENT_CLOSE (R183). -/
def execSegmentClose (u : Fin 8) : State → Host.Outcome State Fault Refusal :=
  onEng fun e => if e.segReady u then (e.closeDone u).runDeferred else e

/-- SEGMENT_WRITTEN (R184): what waits stays while DRAM takes no accesses. `hdrUe`: the header write met an uncorrectable error (ACQ_HDR, R194). -/
def execSegmentWritten (u : Fin 8) (hdrUe : Bool) : State → Host.Outcome State Fault Refusal :=
  onBoth fun e m =>
    let x := e.writeSeg m u hdrUe
    if e.dramShut then (e, m)
    else if hdrUe && !e.acq[u].done.isEmpty then (x.1.raise (Pg.ACQ u) 2 1 (x.1.named (Pg.ACQ u)), x.2) else x

/-- ACQ_REARM_DONE (R185). Before a pending commit applies, what waits is written under the configuration it was stored in. -/
def execAcqRearmDone (u : Fin 8) : State → Host.Outcome State Fault Refusal :=
  onBoth fun e m =>
    let x := if e.bit (Pg.ACQ u) HDR.STS.PENDING then e.flushAcq m u else (e, m)
    (x.1.rearmDone u, x.2)

/-- ACQ_STOP (R188). -/
def execAcqStop (who : Src) (u : Fin 8) : State → Host.Outcome State Fault Refusal :=
  onEng fun e => e.order who (Pg.ACQ u) 0x60 false false fun e => e.stop u

/-- ACQ_OVERFLOW_END (R191). -/
def execAcqOverflowEnd (u : Fin 8) : State → Host.Outcome State Fault Refusal :=
  onEng fun e => if e.overDone u then (e.endAcq u 3).runDeferred else e

/-- STREAM_BLOCK_CLOSE (R192). -/
def execStreamBlockClose (u : Fin 8) : State → Host.Outcome State Fault Refusal :=
  onBoth fun e m =>
    let x := if e.dramShut then (e, m) else e.writeBlk m u
    if e.acq[u].blks.isEmpty then x else (x.1.strSuspend u, x.2)

/-- STR_RD_WRITE (R192): refused RANGE beyond STR_WR. -/
def execStrRdWrite (who : Src) (u : Fin 8) (data : Word) : State → Host.Outcome State Fault Refusal :=
  onEng fun e =>
    let p := Pg.ACQ u
    let n := e.ringBlocks u
    let rd := e.get p ACQ.STR_RD.BLOCK
    let v := data.toNat
    let beyond := decide (n ≤ v) || decide ((e.get p ACQ.STR_WR.BLOCK + n - rd) % n < (v + n - rd) % n)
    e.order who p 0x84 (n != 0 && beyond) false fun e => e.put p ACQ.STR_RD.BLOCK v

end Sys2Proof.Machine
end

