-- ==== Sys2Proof/Machine/Accumulation.lean ====
section
/-! DEFINITION. The accumulation units' commands (R196-R218): records and folds, completion, masks, snapshots. -/
namespace Sys2Proof.Machine

/-- The acquisition a unit serves. -/
def Eng.acqOf (e : Eng) (h : Fin 8) : Fin 8 := fin8 (e.get (Pg.HIS h) HIS.CFG.ACQ)

/-! ### Records (R198, R199, R201, R202, R212) -/

/-- The data return to their start values, and a snapshot follows (R205). -/
def Eng.zeroData (e : Eng) (h : Fin 8) : Eng :=
  e.onHis h fun r => { r with bins := [], mx := [], load := false, clear := false, snapping := true }

/-- A unit that has become complete with CONT = 0 ends its acquisition DONE, unless an end is ordered already (R212). -/
def Eng.hisComplete (e : Eng) (h : Fin 8) : Eng :=
  let u := e.acqOf h
  if e.armed u ∧ (e.acq[u].ending = 0 ∨ e.acq[u].ending = 6) ∧ !e.bit (Pg.HIS h) HIS.CFG.CONT then e.orderEnd u 1 else e

/-- The fold of a record completes (R198, R201): an AVG or ENV record once all its updates have had a slot (R203). -/
def Eng.foldDone (e : Eng) (h : Fin 8) : Eng :=
  if e.his[h].fold = none ∨ (2 ≤ e.get (Pg.HIS h) HIS.CFG.TYPE ∧ e.his[h].queue ≠ 0) then e
  else
    let was := e.his[h].complete
    let e1 := e.foldClosed h (e.acqPair (e.acqOf h))
    if !was ∧ e1.his[h].complete then e1.hisComplete h else e1

/-- A record is skipped whole (R201, R202). -/
def Eng.skipRecord (e : Eng) (h : Fin 8) (words : Nat) : Eng :=
  ((e.onHis h fun r => { r with cur := none }).inc (Pg.HIS h) HIS.REC_SKIPPED.COUNT).add (Pg.HIS h) HIS.SKIP.COUNT words

/-- A unit folds no updates: NOCOUNT, or complete (R212, R214). -/
def Eng.noUpdates (e : Eng) (h : Fin 8) : Bool := e.bit (Pg.HIS h) HIS.CFG.NOCOUNT || e.bit (Pg.HIS h) HIS.STS.DONE

/-- A triggered record closes, and folds unless the fold before it has ended the acquisition: HIST has folded its words already; AVG and ENV hand theirs over, their valid words being the updates
that now wait for slots. A unit without updates is never still folding. -/
def Eng.closeRec (e : Eng) (h : Fin 8) (c : Rec) : Eng :=
  let t := e.get (Pg.HIS h) HIS.CFG.TYPE
  if t = 0 then (e.foldDone h).onHis h fun r => { r with cur := none, fold := if r.on then some { c with words := [] } else none }
  else if t = 2 ∧ c.inval then e.skipRecord h 0
  else
    let e1 := if e.noUpdates h then e.foldDone h else e
    if e1.his[h].fold.isSome then e1.skipRecord h c.len
    else e1.onHis h fun r =>
      { r with cur := none, fold := if r.on then some c else none, queue := if e.noUpdates h then 0 else (c.words.filter (·.ok)).length }

/-- A run of 65,536 words of a free type ends, and the next begins with the marks of its channel (R199, R206). -/
def Eng.closeRun (e : Eng) (h : Fin 8) : Eng :=
  let u := e.acqOf h
  let c := e.acqCh u
  let cal := e.bit (Pg.CAL c) CAL.STS.CALSTARVED
  let gd := e.srcGdref u
  let q := e.get (Pg.CAL c) CAL.QUAL.CAL_Q
  (e.foldDone h).onHis h fun r =>
    { r with
      recW := r.recW - 65536, fold := if r.on then some ⟨0, 65536, 65536, [], 0, false⟩ else none, fCal := r.fCal || cal, fGd := r.fGd || gd
      calqMin := min r.calqMin q }

/-- HIS_RECORD_CLOSE: the record boundary, where a CLEAR that waits takes effect. -/
def Eng.recordClose (e : Eng) (h : Fin 8) : Eng :=
  let r := e.his[h]
  if !r.on then e
  else if e.freeRun h then
    if r.recW < 65536 then e
    else
      let e1 := e.closeRun h
      if e1.his[h].clear then e1.zeroData h else e1
  else
    match r.cur with
    | none => e
    | some c =>
      if c.got < c.len then e
      else
        let e1 := e.closeRec h c
        if e1.his[h].clear then e1.zeroData h else e1

/-- CMD.CLEAR: at once where no record is open (R205). -/
def Eng.hisClear (e : Eng) (h : Fin 8) : Eng :=
  let r := e.his[h]
  if r.on && (e.freeRun h || r.cur.isSome) then e.onHis h fun r => { r with clear := true } else e.zeroData h

/-! ### Masks (R207-R210) -/

/-- Bytes of one zone's bitmap, rounded up to 256 B. -/
def Eng.zoneBytes (e : Eng) (h : Fin 8) : Nat := 256 * ceilDiv (e.hisX h * e.maskY h) 2048

/-- The bitmaps lie in the owner's region. -/
def Eng.masksIn (e : Eng) (h : Fin 8) : Bool :=
  e.inRegion (e.owner (Pg.HIS h)) (e.get (Pg.HIS h) HIS.MASK_BASE.U256) (4 * (e.zoneBytes h / 256))

/-- Runs of set rows in one column of a bitmap. -/
def zoneRuns (z : List Byte) (xb yb x : Nat) : Nat :=
  ((List.range yb).foldl (fun (s : Nat × Bool) y =>
    let b := zoneBit z (y * xb + x)
    (if b && !s.2 then s.1 + 1 else s.1, b)) (0, false)).1

/-- The first zone and column with more than four runs. -/
def badColumn (zs : List (List Byte)) (xb yb : Nat) : Option (Nat × Nat) :=
  (zs.zipIdx.flatMap fun z => (List.range xb).map fun x => (z.1, z.2, x)).findSome? fun q =>
    if 4 < zoneRuns q.1 xb yb q.2.2 then some (q.2.1, q.2.2) else none

/-- CMD.MLOAD reads the four bitmaps and compiles them over the unit's grid (R207): what it has read is what the load's end stores. -/
def Eng.mload (e : Eng) (m : Mem) (h : Fin 8) : Eng :=
  let p := Pg.HIS h
  let z := e.zoneBytes h
  let a := e.regionAddr (e.owner p) (e.get p HIS.MASK_BASE.U256)
  let zs := (List.range 4).map fun k => e.fetchBytes m (a + k * z) z
  (e.onHis h fun r => { r with loading := true, image := zs, badCol := badColumn zs (e.hisX h) (e.maskY h) }).put p HIS.STS.MLOAD_BUSY 1

/-- A mask load ends (R207). -/
def Eng.mloadDone (e : Eng) (h : Fin 8) : Eng :=
  let p := Pg.HIS h
  let r := e.his[h]
  if !r.loading then e
  else
    let e1 := ((e.onHis h fun r => { r with loading := false, image := [], badCol := none }).put p HIS.STS.MLOAD_BUSY 0).ist p HIS.IST.MLOAD_DONE
    match r.badCol with
    | some (k, x) => ((e1.put p HIS.MASK_STS.LOAD_ERR 1).put p HIS.MASK_STS.ERR_ZONE k).put p HIS.MASK_STS.ERR_COL x
    | none => ((e1.put p HIS.MASK_STS.LOAD_ERR 0).put p HIS.MASK_STS.LOADED 15).onHis h fun q => { q with shad := r.image }

/-- POST words have passed after a STOP zone's first violation (R210); in an outrun the STOP is ignored (R211). -/
def Eng.postExpiry (e : Eng) (u : Fin 8) : Eng :=
  let a := e.acq[u]
  if e.armed u ∧ (a.post.map fun l => decide (l ≤ a.n)) = some true then
    if e.get (Pg.ACQ u) ACQ.STATE.STATE = 7 then e.onAcq u fun a => { a with post := none }
    else if a.ending ≠ 0 ∧ a.ending ≠ 6 then e
    else (e.onAcq u fun a => { a with post := none, postAt := some e.cyc }).orderEnd u 11
  else e

/-- An error in a unit's own stores ends its acquisition FAULT (R216). -/
def Eng.hisFault (e : Eng) (h : Fin 8) (index : Nat) : Eng :=
  let e1 := e.raise (Pg.HIS h) index 1 (e.named (Pg.HIS h))
  if e1.his[h].on then e1.endAcq (e1.acqOf h) 7 else e1

/-! ### The commands -/

/-- HIS_RECORD_CLOSE (R198). -/
def execHisRecordClose (h : Fin 8) : State → Host.Outcome State Fault Refusal := onEng fun e => (e.recordClose h).runDeferred

/-- HIS_FOLD_DONE (R201). -/
def execHisFoldDone (h : Fin 8) : State → Host.Outcome State Fault Refusal := onEng fun e => (e.foldDone h).runDeferred

/-- MASK_POST_EXPIRY (R210). -/
def execMaskPostExpiry (u : Fin 8) : State → Host.Outcome State Fault Refusal := onEng fun e => e.postExpiry u

/-- HIS_SNAP (R205): absorbed by a running snapshot. -/
def execHisSnap (who : Src) (h : Fin 8) : State → Host.Outcome State Fault Refusal :=
  onEng fun e => e.order who (Pg.HIS h) 0x70 false false fun e => e.onHis h fun r => { r with snapping := true }

/-- SNAPSHOT_DONE (R205). -/
def execSnapshotDone (h : Fin 8) : State → Host.Outcome State Fault Refusal := 
  onBoth fun e m => if e.dramShut then (e, m) else e.snapDone m h

/-- HIS_CLEAR (R205). -/
def execHisClear (who : Src) (h : Fin 8) : State → Host.Outcome State Fault Refusal :=
  onEng fun e => e.order who (Pg.HIS h) 0x70 false false fun e => e.hisClear h

/-- HIS_MLOAD (R207). -/
def execHisMload (who : Src) (h : Fin 8) : State → Host.Outcome State Fault Refusal :=
  fun s => onEng (fun e => e.order who (Pg.HIS h) 0x70 (!e.masksIn h) e.his[h].loading fun e => e.mload s.mem h) s

/-- MLOAD_DONE (R207). -/
def execMloadDone (h : Fin 8) : State → Host.Outcome State Fault Refusal := onEng fun e => e.mloadDone h

/-- HIS_TILE (R216). -/
def execHisTile (h : Fin 8) : State → Host.Outcome State Fault Refusal := onEng fun e => (e.hisFault h 2).runDeferred

/-- HIS_MASK (R216). -/
def execHisMask (h : Fin 8) : State → Host.Outcome State Fault Refusal := onEng fun e => (e.hisFault h 3).runDeferred

end Sys2Proof.Machine
end

