-- ==== Sys2Proof/Machine/Dram.lean ====
section
/-! DEFINITION. The DRAM channels (R219-R248): queues and the order of service, page policy, refresh and RFM, the snowplough,
training and its failure, the map's own commands. -/
namespace Sys2Proof.Machine

def Eng.onDmc (e : Eng) (d : Fin 8) (f : DmcRt → DmcRt) : Eng := { e with dmc := upd e.dmc d f }

/-- The channel is populated (R220). -/
def Eng.populated (e : Eng) (d : Nat) : Bool := decide (d < e.get Pg.DMX DMX.POP.N)

/-- A channel in service, a degraded one that still serves reads, or one that trains and queues (R237, R240). -/
def Eng.queues (e : Eng) (d : Nat) : Bool :=
  e.populated d && (e.dmcState d == 2 || e.dmcState d == 3 || e.dmcState d == 4)

/-- The open row of a bank. -/
def DmcRt.openRow (r : DmcRt) (bank : Nat) : Option Nat :=
  match Store.get r.rows bank 0 with
  | 0 => none
  | n + 1 => some n

def DmcRt.setRow (r : DmcRt) (bank : Nat) (row : Option Nat) : DmcRt :=
  { r with rows := Store.put r.rows bank (match row with | some n => n + 1 | none => 0) 0 }

/-! ### Requests (R224, R225) -/

/-- Class of traffic: 0 CAPTURE, 1 STREAM, 2 ACCUM, 3 HOST. -/
def trafficClass : Traffic → Nat
  | .segment _ => 0
  | .stream _ => 1
  | .tile _ | .snapshot _ | .masks _ => 2
  | .bar2 _ | .dma _ => 3

/-- The requester: the function that caused the traffic. -/
def Eng.requester (e : Eng) : Traffic → Nat
  | .segment u | .stream u => e.owner (Pg.ACQ u)
  | .tile h | .snapshot h | .masks h => e.owner (Pg.HIS h)
  | .bar2 fn => fn
  | .dma r => e.owner (Pg.DMQ r)

/-- The unit behind the traffic still runs: what it writes after its end, while its owner drains, the drain writes (R72). -/
def Eng.stillRuns (e : Eng) : Traffic → Bool
  | .segment u | .stream u => e.armed u
  | .tile h | .snapshot h | .masks h => e.his[h].on
  | .bar2 _ | .dma _ => true

/-- The engine itself reads (R240, R243): no host and no DMA engine waits for the data. -/
def ownRead : Traffic → Bool
  | .bar2 _ | .dma _ => false
  | _ => true

/-- The acquisition that an engine-internal read serves. -/
def Eng.servedAcq (e : Eng) : Traffic → Option (Fin 8)
  | .segment u | .stream u => if e.armed u then some u else none
  | .tile h | .snapshot h | .masks h => if e.his[h].on then some (e.acqOf h) else none
  | .bar2 _ | .dma _ => none

/-- Channel byte address of the check bytes of the unit at channel address `a` (R224). -/
def Eng.checkAddr (e : Eng) (a : Nat) : Nat := 7 * e.chanBytes / 8 + 32 * (a / 256)

/-- A request enters its channel's queue of 64 reads and 64 writes at a channel address (R225); a degraded channel takes no writes
and no engine-internal reads (R239, R240). -/
def Eng.enqueue (e : Eng) (d : Fin 8) (ck : Nat) (q : DramReq) (wr : Bool) (a : Nat) : Eng :=
  let n := (e.dmc[d].queue.filter fun x => x.wr == wr).length
  let who := e.requester q.src
  let drain := q.wr && !e.stillRuns q.src && e.drains.any fun x => x.part == who
  if !e.queues d ∨ 64 ≤ n ∨ (e.dmcState d = 4 ∧ (wr ∨ ownRead q.src)) then e
  else e.onDmc d fun r => { r with queue := r.queue ++
    [⟨who, trafficClass q.src, wr, (e.bankRow a).1, (e.bankRow a).2, ck, drain, q.src⟩] }

/-- A request to the channel that the map gives its address (R222); none beyond GRAN. Under inline ECC a write of part of a 64-bit
word reads first, with the write's class, and a miss of the check-byte cache adds a request for the unit's check bytes (R224; log
entry 83). -/
def Eng.request (e : Eng) (ck : Nat) (q : DramReq) : Eng :=
  if e.gran ≤ q.addr / granule then e
  else
    let d := fin8 (e.place q.addr).1
    let a := (e.place q.addr).2
    if e.bit Pg.DMX DMX.STS.IECC then
      let e1 := if q.wr && (a % 8 != 0 || (a + q.len) % 8 != 0) then e.enqueue d ck q false a else e
      let e2 := if Config.checkMiss e1.freeCtr then e1.enqueue d ck q q.wr (e.checkAddr a) else e1
      { e2.enqueue d ck q q.wr a with freeCtr := e2.freeCtr + 1 }
    else e.enqueue d ck q q.wr a

/-! ### Share buckets (R228) -/

/-- A bucket in quarter bytes, offset by 2^32. -/
def Eng.bucketOf (e : Eng) (n : Nat) : Nat := Store.get e.bucket n (2 ^ 32)

/-- Every bucket gains MAX_SHARE × K / 4 bytes for each CK cycle, up to 64 KiB. -/
def Eng.gain (e : Eng) (ck : Nat) : Eng :=
  let dt := ck - e.ckT
  let k := e.get Pg.DMX DMX.POP.K
  let b := (List.range 8).foldl (fun s n =>
    Store.put s n (min (Store.get s n (2 ^ 32) + dt * e.get Pg.PRT (PRT.P_QOS.MAX_SHARE n) * k) (2 ^ 32 + 4 * 65536)) (2 ^ 32)) e.bucket
  { e with bucket := b, ckT := max ck e.ckT }

/-- A unit served takes 256 bytes from its partition's bucket. -/
def Eng.spend (e : Eng) (who : Nat) : Eng :=
  if who < 8 then { e with bucket := Store.put e.bucket who (e.bucketOf who - 1024) (2 ^ 32) } else e

/-! ### Eligibility (R226, R231, R233, R234) -/

/-- CK cycles of a delay in microseconds (CK is RS/20). -/
def Eng.ckOfUs (e : Eng) (us : Nat) : Nat := ceilDiv (us * e.rsNum) (max (e.rsDen * 20 * 10 ^ 6) 1)

def DReq.code (q : DReq) : Nat := 4 * q.who + q.cls

/-- A throttle holds the request's activation at `ck`. -/
def Eng.throttled (e : Eng) (d : Fin 8) (q : DReq) (ck : Nat) : Bool :=
  let r := e.dmc[d]
  let here := r.thr.filter fun t => t.bank == q.bank
  if q.drain ∨ r.openRow q.bank = some q.row then false
  else if r.wide.contains q.bank then
    let dm := here.foldl (fun a t => max a t.d) 0
    let last := here.foldl (fun a t => max a t.last) 0
    decide (ck < last + e.ckOfUs dm)
  else here.any fun t => t.who == q.code && decide (ck < t.last + e.ckOfUs t.d)

/-- The request may be served: its bank's timing is met (`blocked` lists the others), no throttle holds it, its bucket is not
negative, RAA allows its activation, and the channel serves it. -/
def Eng.eligible (e : Eng) (d : Fin 8) (ck : Nat) (blocked : List Nat) (q : DReq) : Bool :=
  let r := e.dmc[d]
  !blocked.contains q.bank && !e.throttled d q ck &&
  (q.drain || decide (8 ≤ q.who) || decide (2 ^ 32 ≤ e.bucketOf q.who)) &&
  (!e.dev.rfm || r.openRow q.bank == some q.row || decide (Store.get r.raa q.bank 0 < Config.raaMmt)) &&
  !(q.wr && e.dmcState d == 4)

/-! ### Order of service (R226, R227) -/

/-- The age limit of a class. -/
def Eng.ageLimit (e : Eng) (cls : Nat) : Nat :=
  if cls = 0 then e.get Pg.DMX DMX.AGE0.C0 else if cls = 1 then e.get Pg.DMX DMX.AGE0.C1
  else if cls = 2 then e.get Pg.DMX DMX.AGE1.C2 else e.get Pg.DMX DMX.AGE1.C3

/-- The oldest request of a list; the earlier in the queue on a tie. -/
def oldestOf : List DReq → Option DReq
  | [] => none
  | q :: r =>
    match oldestOf r with
    | some x => if x.t < q.t then some x else some q
    | none => some q

/-- Row hits first, then the oldest. -/
def DmcRt.hitFirst (r : DmcRt) (qs : List DReq) : Option DReq :=
  match oldestOf (qs.filter fun q => r.openRow q.bank == some q.row) with
  | some q => some q
  | none => oldestOf qs

/-- The weight of a requester in a class: 15 for the supervisor (R227). -/
def Eng.weight (e : Eng) (who cls : Nat) : Nat := if who < 8 then e.get Pg.PRT (PRT.P_QOS.W who cls) else 15

/-- Deficit round robin among the requesters of a class: the one at the pointer while its quantum lasts, else the next in
rising order with a full quantum (log entry 32). Answers the requester and the channel with its quantum taken. -/
def Eng.robin (e : Eng) (r : DmcRt) (cls : Nat) (ws : List Nat) : Nat × DmcRt :=
  let p := r.rr.getD cls 8
  let left := Store.get r.deficit (16 * cls + p) 0
  if ws.contains p ∧ left ≠ 0 then (p, { r with deficit := Store.put r.deficit (16 * cls + p) (left - 1) 0 })
  else
    let q := (((List.range 9).map fun i => (p + 1 + i) % 9).find? fun w => ws.contains w).getD 8
    let rr := (List.range 4).map fun c => if c = cls then q else r.rr.getD c 8
    let d := if ws.contains p then r.deficit else Store.put r.deficit (16 * cls + p) 0 0
    (q, { r with rr := rr, deficit := Store.put d (16 * cls + q) (e.weight q cls - 1) 0 })

/-- The request served next among eligible ones, whether it was promoted, and the channel's round-robin state. -/
def Eng.choose (e : Eng) (d : Fin 8) (ck : Nat) (qs : List DReq) : Option (DReq × Bool × DmcRt) :=
  let r := e.dmc[d]
  match oldestOf (qs.filter fun q => decide (e.ageLimit q.cls < ck - q.t)) with
  | some q => some (q, true, r)
  | none =>
    let same := qs.filter fun q => q.wr == r.runWr
    let pool := if r.run < 16 ∧ same ≠ [] then same else
      match qs.filter fun q => q.wr != r.runWr with
      | [] => same
      | x => x
    if e.bit (Pg.DMC d) DMC.SCHED.MODE then (r.hitFirst pool).map fun q => (q, false, r)
    else
      match (List.range 4).find? fun c => pool.any fun q => q.cls == c with
      | none => none
      | some c =>
        let cl := pool.filter fun q => q.cls == c
        let (w, r1) := e.robin r c (cl.map (·.who))
        (r.hitFirst (cl.filter fun q => q.who == w)).map fun q => (q, false, r1)

/-! ### Trackers (R232) -/

/-- The lowest count of a bank's entries, the first on a tie. -/
def lowest : List Track → Nat → Option Nat
  | [], _ => none
  | t :: r, i =>
    match lowest r (i + 1) with
    | some j => if (r.getD (j - i - 1) t).cnt < t.cnt then some j else some i
    | none => some i

/-- A bank's tracker after an activation. -/
def trackStep (l : List Track) (row code : Nat) : List Track :=
  if l.any fun t => t.row == row then
    l.map fun t =>
      if t.row = row then
        if t.cand = code then { t with cnt := t.cnt + 1, wt := t.wt + 1 }
        else if t.wt = 0 then { t with cnt := t.cnt + 1, cand := code, wt := 1 }
        else { t with cnt := t.cnt + 1, wt := t.wt - 1 }
      else t
  else if l.length < 16 then l ++ [⟨row, 1, code, 1, false⟩]
  else
    match lowest l 0 with
    | some i => l.set i ⟨row, (l.getD i ⟨0, 0, 0, 0, false⟩).cnt + 1, code, 1, false⟩
    | none => l

def DmcRt.tracker (r : DmcRt) (bank : Nat) : List Track := (r.track.filter fun x => x.1 == bank).map (·.2)

def DmcRt.setTracker (r : DmcRt) (bank : Nat) (l : List Track) : DmcRt :=
  { r with track := (r.track.filter fun x => x.1 != bank) ++ l.map fun t => (bank, t) }

/-! ### One command slot -/

/-- An activation: the tracker, the marks of throttles on the bank, and RAA (R231-R234). -/
def Eng.activate (e : Eng) (d : Fin 8) (q : DReq) (ck : Nat) : Eng :=
  (e.onDmc d fun r =>
    let r1 := r.setTracker q.bank (trackStep (r.tracker q.bank) q.row q.code)
    { r1 with
      thr := r1.thr.map fun t => if t.bank == q.bank && !q.drain && (t.who == q.code || r1.wide.contains q.bank) then { t with last := ck } else t
      raa := if e.dev.rfm then Store.put r1.raa q.bank (Store.get r1.raa q.bank 0 + 1) 0 else r1.raa }).inc (Pg.DMC d) DMC.ACT_CNT.COUNT

/-- The RFM that a bank's RAA makes due is issued after the access and closes its row (R229, R231). -/
def Eng.manage (e : Eng) (d : Fin 8) (bank : Nat) : Eng :=
  if e.dev.rfm ∧ Config.raaImt ≤ Store.get e.dmc[d].raa bank 0 then
    (e.onDmc d fun r => { r.setRow bank none with
      raa := Store.put r.raa bank (Store.get r.raa bank 0 - Config.raaImt) 0 }).inc (Pg.DMC d) DMC.RFM_CNT.COUNT
  else e

/-- The first queue entry equal to a request leaves the queue. -/
def DmcRt.remove (r : DmcRt) (q : DReq) : DmcRt := { r with queue := r.queue.erase q }

/-- The bank after the access: the predictor counts a hit or not, and the row stays open or is precharged (R229). -/
def Eng.afterAccess (e : Eng) (d : Fin 8) (q : DReq) (hit : Bool) (ck : Nat) : Eng :=
  let p := Pg.DMC d
  e.onDmc d fun r =>
    let c := Store.get r.pred q.bank 2
    let c' := if hit then min (c + 1) 3 else c - 1
    let pol := e.get p DMC.PAGE.POLICY
    let more := r.queue.any fun x => x.bank == q.bank && x.row == q.row
    let stay := more || pol == 1 || (pol == 0 && decide (2 ≤ c'))
    ({ r with pred := Store.put r.pred q.bank c' 2, used := Store.put r.used q.bank ck 0 }).setRow q.bank (if stay then some q.row else none)

/-- Uncorrectable data reach their requester (R242, R243): a partition's fault record; an engine-internal read ends its
acquisition FAULT. -/
def Eng.eccUe (e : Eng) (d : Fin 8) (q : DReq) : Eng :=
  let p := Pg.DMC d
  let e1 := (e.ist p DMC.IST.ECC_UE).raise p 5 1 (if q.who < 8 then q.who else 8)
  match e1.servedAcq q.src with
  | some u => e1.endAcq u 7
  | none => e1

/-- The ECC events of a read (R242, R243): 1 link corrected, 2 link uncorrectable, 3 inline corrected, 4 inline uncorrectable. -/
def Eng.eccEvent (e : Eng) (d : Fin 8) (q : DReq) (ecc : Nat) : Eng :=
  let p := Pg.DMC d
  if q.wr then e
  else if ecc = 1 then (e.inc p DMC.LECC_CE_CNT.COUNT).onDmc d fun r =>
    { r with lecc := within e.tb unitsPerMs 65536 r.lecc }
  else if ecc = 2 then (e.inc p DMC.LECC_UE_CNT.COUNT).eccUe d q
  else if ecc = 3 ∧ e.bit Pg.DMX DMX.STS.IECC then e.inc p DMC.IECC_CE_CNT.COUNT
  else if ecc = 4 ∧ e.bit Pg.DMX DMX.STS.IECC then (e.inc p DMC.IECC_UE_CNT.COUNT).eccUe d q
  else e

/-- One command slot of a channel (R226): the first eligible request is served. -/
def Eng.issue (e : Eng) (d : Fin 8) (ck : Nat) (blocked : List Nat) (ecc : Nat) : Eng :=
  let p := Pg.DMC d
  let e0 := e.gain ck
  if !e.queues d ∨ e.dmcState d = 3 then e0
  else
    match e0.choose d ck (e0.dmc[d].queue.filter fun q => e0.eligible d ck blocked q) with
    | none => e0
    | some (q, promoted, r1) =>
      let hit := r1.openRow q.bank == some q.row
      let run := if promoted || r1.runWr != q.wr then 1 else r1.run + 1
      let e1 := e0.onDmc d fun _ => { r1.remove q with run := run, runWr := q.wr }
      let e2 := if hit then e1.inc p DMC.HIT_CNT.COUNT else e1.activate d q ck
      let e3 := ((e2.afterAccess d q hit ck).manage d q.bank).spend q.who
      let e4 := if promoted then e3.inc p DMC.PROMOTE_CNT.COUNT else e3
      e4.eccEvent d q ecc

/-! ### Page policy and refresh (R229-R231) -/

/-- A row that no request has used for PAGE.IDLE CK cycles, and none waits for, is precharged under PRED. -/
def Eng.idleClose (e : Eng) (d : Fin 8) (bank ck : Nat) : Eng :=
  let r := e.dmc[d]
  match r.openRow bank with
  | none => e
  | some row =>
    if e.get (Pg.DMC d) DMC.PAGE.POLICY = 0 ∧ Store.get r.used bank 0 + e.get (Pg.DMC d) DMC.PAGE.IDLE ≤ ck ∧ !r.queue.any (fun q => q.bank == bank && q.row == row) then
      e.onDmc d fun r => r.setRow bank none
    else e

/-- Refreshes of a bank are issued, those owed among them: the row closes, RAA falls. -/
def Eng.refresh (e : Eng) (d : Fin 8) (bank n : Nat) : Eng :=
  (e.onDmc d fun r =>
    { r.setRow bank none with
      owed := Store.put r.owed bank 0 0, raa := Store.put r.raa bank (Store.get r.raa bank 0 - n * Config.raaRefresh) 0 }).add
    (Pg.DMC d) DMC.REFPB_CNT.COUNT n

/-- A per-bank refresh falls due (R230). While the bank has requests or its channel trains, one pulled in earlier stands for it, or
it is postponed as far as JEDEC allows (R237: during a retraining it is). An idle bank takes what it owes and, as far as JEDEC allows,
pulls the next one in (log entry 82). -/
def Eng.refreshDue (e : Eng) (d : Fin 8) (bank : Nat) : Eng :=
  let r := e.dmc[d]
  let n := Store.get r.owed bank 0
  let a := Store.get r.ahead bank 0
  let busy := r.queue.any fun q => q.bank == bank
  if !e.queues d then e
  else if (e.dmcState d = 3 ∨ busy) ∧ a ≠ 0 then e.onDmc d fun r => { r with ahead := Store.put r.ahead bank (a - 1) 0 }
  else if e.dmcState d = 3 ∨ (busy ∧ n < Config.refPostpone) then e.onDmc d fun r => { r with owed := Store.put r.owed bank (n + 1) 0 }
  else if !busy ∧ a < Config.refPullIn then
    (e.onDmc d fun r => { r with ahead := Store.put r.ahead bank (a + 1) 0 }).refresh d bank (n + 2)
  else e.refresh d bank (n + 1)

/-! ### The snowplough (R232-R234) -/

/-- THROTTLE shows the busiest bank. -/
def Eng.showThrottle (e : Eng) (d : Fin 8) : Eng :=
  let r := e.dmc[d]
  let n := (List.range 32).foldl (fun a b => max a (r.thr.filter fun t => t.bank == b).length) 0
  (e.put (Pg.DMC d) DMC.THROTTLE.ACTIVE n).putB (Pg.DMC d) DMC.THROTTLE.BANKWIDE (!r.wide.isEmpty)

/-- What a new throttle shows and raises. -/
def Eng.throttleSeen (e : Eng) (d : Fin 8) (bank row who dUs : Nat) : Eng :=
  let x := Pg.DMX
  let e1 := ((((e.put x DMX.SNOW_LOG.DMC d).put x DMX.SNOW_LOG.RANK (bank / 16)).put x DMX.SNOW_LOG.BANK (bank % 16)).put
    x DMX.SNOW_LOG.FUNC (who / 4)).put x DMX.SNOW_LOG.CLASS (who % 4)
  let e2 := ((e1.put x DMX.SNOW_LOG.D_US dUs).put x DMX.SNOW_ROW.ROW row).inc x DMX.THROTTLE_CNT.COUNT
  let e3 := (((e2.inc (Pg.DMC d) DMC.THROTTLE_CNT.COUNT).showThrottle d).ist (Pg.DMC d) DMC.IST.THROTTLE).ist x DMX.IST.SNOW
  e3.raise (Pg.DMC d) 4 0 (if who / 4 < 8 then who / 4 else 8)

/-- A tracked row has reached HAMMER_TH: its candidate is throttled on the bank, once for the row. -/
def Eng.snowplough (e : Eng) (d : Fin 8) (bank row : Nat) : Eng :=
  let r := e.dmc[d]
  let th := e.get Pg.DMX DMX.SNOW.HAMMER_TH
  match (r.tracker bank).find? fun t => t.row == row && decide (th ≤ t.cnt) && !t.hit with
  | none => e
  | some t =>
    let mark (x : DmcRt) : DmcRt := x.setTracker bank ((x.tracker bank).map fun y => if y.row = row then { y with hit := true } else y)
    let e1 := e.onDmc d mark
    match r.thr.find? fun x => x.bank == bank && x.who == t.cand with
    | some old =>
      if old.other then e1
      else (e1.onDmc d fun x => { x with thr := x.thr.map fun y =>
        if y = old then { y with d := min (2 * y.d) (e.get Pg.DMX DMX.THR.MAX), other := true } else y }).showThrottle d
    | none =>
      let n := (r.thr.filter fun x => x.bank == bank).length
      if 4 ≤ n then
        let dm := (r.thr.filter fun x => x.bank == bank).foldl (fun a x => max a x.d) 0
        (e1.onDmc d fun x => { x with wide := if x.wide.contains bank then x.wide else bank :: x.wide }).throttleSeen d bank row t.cand dm
      else
        let d0 := e.get Pg.DMX DMX.THR.START
        (e1.onDmc d fun x => { x with thr := x.thr ++ [⟨bank, row, t.cand, d0, th + th / 4, false, e.ckT⟩] }).throttleSeen d bank row t.cand d0

/-- A further HAMMER_TH/4 activations of the row double its throttle's delay. -/
def Eng.throttleDouble (e : Eng) (d : Fin 8) (bank row : Nat) : Eng :=
  let r := e.dmc[d]
  let x := Pg.DMX
  match (r.tracker bank).find? (fun t => t.row == row), r.thr.find? (fun t => t.bank == bank && t.row == row) with
  | some t, some h =>
    if h.dbl ≤ t.cnt then
      let d' := min (2 * h.d) (e.get x DMX.THR.MAX)
      let e1 := e.onDmc d fun y => { y with thr := y.thr.map fun z =>
        if z = h then { z with d := d', dbl := z.dbl + e.get x DMX.SNOW.HAMMER_TH / 4 } else z }
      if e.get x DMX.SNOW_LOG.DMC = d ∧ e.get x DMX.SNOW_LOG.RANK * 16 + e.get x DMX.SNOW_LOG.BANK = bank ∧
          e.get x DMX.SNOW_LOG.FUNC * 4 + e.get x DMX.SNOW_LOG.CLASS = h.who then e1.put x DMX.SNOW_LOG.D_US d' else e1
    else e
  | _, _ => e

/-- The window boundary clears every tracker and throttle of the channel. -/
def Eng.windowEnd (e : Eng) (d : Fin 8) : Eng :=
  (e.onDmc d fun r => { r with track := [], thr := [], wide := [] }).showThrottle d

/-! ### Training (R235-R239) -/

/-- A channel is queued for retraining; a further trigger is merged (R236). -/
def Eng.queueTrain (e : Eng) (d : Fin 8) (cause : Option Nat) : Eng :=
  let p := Pg.DMC d
  if e.dmcState d = 2 ∧ !e.bit p DMC.STS.QUEUED then
    let e1 := { e.put p DMC.STS.QUEUED 1 with retrainQ := e.retrainQ ++ [d.val] }
    match cause with
    | some c => e1.put p DMC.TRAIN_STS.CAUSE c
    | none => e1
  else e

/-- The channel's turn: nothing new is issued, all banks are precharged (R237). One channel trains at a time. -/
def Eng.trainStart (e : Eng) (d : Fin 8) : Eng :=
  let p := Pg.DMC d
  if e.retrainQ.head? = some d.val ∧ e.dmcState d = 2 ∧ !e.bit Pg.DMX DMX.STS.RETRAINING then
    let e1 := { (e.put p DMC.STS.STATE 3).put p DMC.STS.QUEUED 0 with retrainQ := e.retrainQ.drop 1 }
    (e1.onDmc d fun r => { r with rows := [], trainT := e.tb }).put Pg.DMX DMX.STS.RETRAINING 1
  else e

/-- A retraining ends: its duration and result, and the refreshes owed are issued at once. -/
def Eng.trainEnd (e : Eng) (d : Fin 8) (result : Nat) : Eng :=
  let p := Pg.DMC d
  let dur := (e.tb - e.dmc[d].trainT) / (100 * unitsPerNs)
  let e1 := ((e.put p DMC.TRAIN_STS.RESULT result).put p DMC.TRAIN_STS.DUR (min dur 65535)).inc p DMC.RETRAIN_CNT.COUNT
  let e2 := (e1.put Pg.DMX DMX.STS.RETRAINING 0).put p DMC.TEMP.AT_TRAIN (e1.get p DMC.TEMP.NOW)
  let owed := e2.dmc[d].owed.foldl (fun n x => n + x.2) 0
  (e2.onDmc d fun r => { r with owed := [], lecc := [] }).add p DMC.REFPB_CNT.COUNT owed

/-- What happens to one armed acquisition when a channel it touches degrades (R239 step 2). -/
def Eng.memFault (e : Eng) (u : Fin 8) : Eng :=
  if e.armed u ∧ e.hasArea u then
    let p := Pg.ACQ u
    let e0 := if e.bit p ACQ.STR_CFG.DEST then e else e.onAcq u fun a => { a with cur := none }
    let e1 := match e0.acq[u].seg with
      | some g => if g.conf.isSome then e0.closeSeg u false false true else e0
      | none => e0
    e1.endAcq u 10
  else e

/-- The channel becomes DEGRADED (R239): acquisitions with a DRAM area end MEMFAULT, each segment cut so raises ACQ_MEMFAULT,
and the next map is computed. -/
def Eng.degrade (e : Eng) (d : Fin 8) : Eng :=
  let p := Pg.DMC d
  let cut := units8.filter fun u => e.armed u && e.hasArea u && (e.acq[u].seg.any fun g => g.conf.isSome)
  let e1 := ((e.put p DMC.STS.STATE 4).put p DMC.STS.QUEUED 0).put p DMC.STS.MARGINAL 0
  let e2 := { e1.onDmc d (fun r => { r with queue := r.queue.filter fun q => !q.wr }) with retrainQ := e1.retrainQ.filter fun x => x != d.val }
  let e3 := units8.foldl (fun a u => a.memFault u) e2
  let e4 := cut.foldl (fun a u => a.raise (Pg.ACQ u) 1 2 (a.named (Pg.ACQ u))) e3
  let e5 := ((e4.ist p DMC.IST.DEGRADED).ist Pg.DMX DMX.IST.DEGRADED).raise p 3 1 8
  (cut.foldl (fun a u => if a.named (Pg.ACQ u) < 8 then a.partFault (a.named (Pg.ACQ u)) else a) e5).nextMap

/-- A retraining passes (R237). -/
def Eng.trainPass (e : Eng) (d : Fin 8) : Eng :=
  let p := Pg.DMC d
  if e.dmcState d = 3 then
    ((((e.put p DMC.STS.STATE 2).put p DMC.STS.MARGINAL 0).trainEnd d 0).ist p DMC.IST.RETRAIN_DONE)
  else e

/-- The short check of the previous setting ends (R238). -/
def Eng.shortCheck (e : Eng) (d : Fin 8) (ok : Bool) : Eng :=
  let p := Pg.DMC d
  if e.dmcState d ≠ 3 then e
  else if ok then
    ((((e.put p DMC.STS.STATE 2).put p DMC.STS.MARGINAL 1).trainEnd d 1).ist p DMC.IST.MARGIN).raise p 2 1 8
  else (e.trainEnd d 2).degrade d

/-- Populated channels by the strap and the variant (R220); none for the invalid code. -/
def channelsOf (ly6440 : Bool) (dpop : Nat) : Nat :=
  if ly6440 then (if dpop ≤ 1 then 4 else if dpop = 2 then 2 else 1)
  else (if dpop = 0 then 8 else if dpop = 1 then 4 else if dpop = 2 then 2 else 0)

/-- Present data rate in MT/s: 2·RS/5 (R219). -/
def Eng.dataRate (e : Eng) : Nat := 2 * e.rsNum / (5 * e.rsDen * 10 ^ 6)

/-- One channel after a full training: in service, or DEGRADED with no setting to fall back on (R235). -/
def Eng.trained (e : Eng) (eyes : List Nat) (d : Fin 8) : Eng :=
  let p := Pg.DMC d
  let e0 := (((e.put p DMC.DEV.DENS e.dev.dens).putB p DMC.DEV.RANKS2 e.dev.ranks2).putB p DMC.DEV.RFM e.dev.rfm).put
    p DMC.TEMP.AT_TRAIN (e.get p DMC.TEMP.NOW)
  let e1 := (({ e0 with dmc := upd e0.dmc d fun _ => DmcRt.fresh }).setTix p 20 0).put p DMC.TRAIN_STS.CAUSE 0
  if e.passes eyes d then (e1.put p DMC.STS.STATE 2).put p DMC.TRAIN_STS.RESULT 0
  else (((e1.put p DMC.STS.STATE 4).put p DMC.TRAIN_STS.RESULT 2).raise p 1 1 8)

/-- The map over the channels in service (R222). -/
def Eng.buildMap (e : Eng) : Eng :=
  let l := (List.range 8).filter fun d => e.populated d && e.dmcState d == 2
  let e1 := { e with mapGood := l, mapNext := l, mapBad := false }
  let g := e1.granFor l.length
  ((((e1.put Pg.DMX DMX.CAP.GRAN g).put Pg.DMX DMX.CAP.GRAN_NEXT g).put Pg.DMX DMX.POP.K l.length).put Pg.DMX DMX.POP.GOOD (maskOf l)).put
    Pg.DMX DMX.STS.SWITCH_PENDING 0

/-- All populated channels are initialised (R221, R235), with the least eye that each showed. -/
def Eng.dramUp (e : Eng) (eyes : List Nat) : Eng :=
  let e1 := (units8.filter fun (d : Fin 8) => e.populated d).foldl (fun a d => a.trained eyes d) e
  let e2 := ((e1.buildMap).setTix Pg.DMX 4 0).unspecified
  let e3 := (e2.put Pg.DMX DMX.RATE.MTS e2.dataRate).put Pg.DMX DMX.RATE.BIN (Config.speedBin e2.dataRate)
  let e4 := if e.dev.mixed then e3.raise Pg.DMX 0 1 8 else e3
  (e4.put Pg.DMX DMX.STS.INIT_DONE 1).ist Pg.DMX DMX.IST.INIT_DONE

/-- DRAM initialisation of start-up or of a PERST# reset ends; it does not begin during a thermal wait (R93). -/
def Eng.dramInit (e : Eng) (eyes : List Nat) : Eng :=
  if !e.lock ∨ e.bit Pg.DMX DMX.STS.INIT_DONE ∨ e.get Pg.DMX DMX.POP.N = 0 ∨ e.rst.wait then e else e.dramUp eyes

/-! ### The commands -/

/-- DRAM_REQUEST (R225). -/
def execDramRequest (ck : Nat) (req : DramReq) : State → Host.Outcome State Fault Refusal := onEng fun e => e.request ck req

/-- DRAM_COMMAND_ISSUE (R226). -/
def execDramCommandIssue (dmc : Fin 8) (ck : Nat) (blocked : List Nat) (ecc : Fin 5) : State → Host.Outcome State Fault Refusal :=
  onEng fun e => (e.issue dmc ck blocked ecc).runDeferred

/-- PAGE_IDLE_CLOSE (R229). -/
def execPageIdleClose (dmc : Fin 8) (bank : BankAt) : State → Host.Outcome State Fault Refusal :=
  onEng fun e => e.idleClose dmc bank.bank bank.ck

/-- REFRESH_DUE (R230). -/
def execRefreshDue (dmc : Fin 8) (bank : Fin 32) : State → Host.Outcome State Fault Refusal := onEng fun e => e.refreshDue dmc bank

/-- MR4_READ (R230): the refresh rate code of a populated rank. -/
def execMr4Read (dmc : Fin 8) (rank : Bool) (code : Fin 16) : State → Host.Outcome State Fault Refusal :=
  onEng fun e => if e.queues dmc && (!rank || e.bit (Pg.DMC dmc) DMC.DEV.RANKS2) then e.put (Pg.DMC dmc) DMC.TEMP.MR4 code else e

/-- SNOWPLOUGH (R233). -/
def execSnowplough (dmc : Fin 8) (bank : Fin 32) (row : Nat) : State → Host.Outcome State Fault Refusal :=
  onEng fun e => e.snowplough dmc bank row

/-- THROTTLE_DOUBLE (R233). -/
def execThrottleDouble (dmc : Fin 8) (bank : Fin 32) (row : Nat) : State → Host.Outcome State Fault Refusal :=
  onEng fun e => e.throttleDouble dmc bank row

/-- REFRESH_WINDOW_BOUNDARY (R232). -/
def execRefreshWindowBoundary (dmc : Fin 8) : State → Host.Outcome State Fault Refusal := onEng fun e => e.windowEnd dmc

/-- WCK2DQ_OSC_READ (R236): a drift beyond OSC_TH, in ps. -/
def execWck2dqOscRead (dmc : Fin 8) (drift : Nat) : State → Host.Outcome State Fault Refusal :=
  onEng fun e => if e.get Pg.DMX DMX.RETRAIN.OSC_TH < drift then e.queueTrain dmc (some 2) else e

/-- RETRAIN_PERIOD (R236). -/
def execRetrainPeriod (dmc : Fin 8) : State → Host.Outcome State Fault Refusal := onEng fun e => e.queueTrain dmc (some 3)

/-- LECC_RETRAIN_TRIGGER (R236). -/
def execLeccRetrainTrigger (dmc : Fin 8) : State → Host.Outcome State Fault Refusal :=
  onEng fun e => if e.get Pg.DMX DMX.RETRAIN2.LECC_TH < e.dmc[dmc].lecc.length then
    (e.queueTrain dmc (some 4)).onDmc dmc fun r => { r with lecc := [] } else e

/-- DMC_RETRAIN (R236): refused BUSY unless the channel is READY. -/
def execDmcRetrain (who : Src) (dmc : Fin 8) : State → Host.Outcome State Fault Refusal :=
  onEng fun e => e.order who (Pg.DMC dmc) 0x44 false (e.dmcState dmc != 2) fun e => e.queueTrain dmc (some 5)

/-- RETRAIN_START (R237). -/
def execRetrainStart (dmc : Fin 8) : State → Host.Outcome State Fault Refusal := onEng fun e => e.trainStart dmc

/-- RETRAIN_PASS (R237). -/
def execRetrainPass (dmc : Fin 8) : State → Host.Outcome State Fault Refusal := onEng fun e => e.trainPass dmc

/-- SHORT_CHECK_DONE (R238, R239). -/
def execShortCheckDone (dmc : Fin 8) (ok : Bool) : State → Host.Outcome State Fault Refusal :=
  onEng fun e => (e.shortCheck dmc ok).runDeferred

/-- MARGINAL_RETRAIN (R238): 100 ms later; the recorded cause stays. -/
def execMarginalRetrain (dmc : Fin 8) : State → Host.Outcome State Fault Refusal :=
  onEng fun e => if e.bit (Pg.DMC dmc) DMC.STS.MARGINAL then e.queueTrain dmc none else e

/-- DMX_REMAP (R241): no effect with no switch pending; refused BUSY during a drain or with a DRAM acquisition armed. -/
def execDmxRemap (who : Src) : State → Host.Outcome State Fault Refusal :=
  onBoth fun e m =>
    let pend := e.bit Pg.DMX DMX.STS.SWITCH_PENDING
    let busy := !e.drains.isEmpty || units8.any fun u => e.armed u && e.hasArea u
    let e1 := e.order who Pg.DMX 0x4C false (pend && busy) fun e => if pend then e.mapSwitch else e
    (e1, if e1.epoch = e.epoch then m else [])

/-- DMX_MAP (R244). -/
def execDmxMap : State → Host.Outcome State Fault Refusal :=
  onEng fun e =>
    let e1 := { e.raise Pg.DMX 6 3 8 with mapBad := true }
    (e1.endWhere (fun u => e1.hasArea u) 7).runDeferred

end Sys2Proof.Machine
end

