-- ==== Sys2Proof/Machine/Events.lean ====
section
/-! DEFINITION. The monitor converter, the window comparators and the event router (R249-R273), with the verdicts that a
conversion carries: the budget cross-check (R94), a comparator's DAC check (R262) and a sensor's excitation (R300). -/
namespace Sys2Proof.Machine

/-! ### Accumulator banks (R252) -/

def Acc1.empty : Acc1 := ⟨0, 0, 8388607, -8388608, false⟩

/-- A result enters a bank; a bank whose COUNT is at its maximum is FULL and takes none. -/
def Acc1.add (a : Acc1) (v : Int) : Acc1 :=
  if a.full then a else ⟨a.sum + v, a.cnt + 1, min a.mn v, max a.mx v, decide (a.cnt + 1 = 2 ^ 32 - 1)⟩

/-- The bank of an input: the host's at the input's number, the manager's at 40 above. -/
def McvRt.bank (m : McvRt) (k : Nat) : Acc1 := (m.acc.lookup k).getD Acc1.empty

/-- Set a bank; an empty one is not listed, and keys rise. -/
def McvRt.setBank (m : McvRt) (k : Nat) (a : Acc1) : McvRt :=
  let r := m.acc.filter fun x => x.1 != k
  { m with acc := if a = Acc1.empty then r else (r.takeWhile fun x => x.1 < k) ++ (k, a) :: r.dropWhile fun x => x.1 < k }

/-! ### The converter's order of work (R251, R254-R256) -/

def Eng.onMcv (e : Eng) (f : McvRt → McvRt) : Eng := { e with mcv := f e.mcv }

/-- SCANNING, URGENT and STARVED (R271). -/
def Eng.mcvShow (e : Eng) : Eng :=
  let scan := match e.mcv.run with | some c => c.src == 5 | none => false
  let urg := (match e.mcv.run with | some c => c.src != 5 | none => false) || !e.mcv.wait.isEmpty
  ((e.putB Pg.MCV MCV.STS.SCANNING scan).putB Pg.MCV MCV.STS.URGENT urg).putB Pg.MCV MCV.STS.STARVED
    (e.get Pg.MCV MCV.STARVE.ENTRY != 0)

/-- The place of a source in the order of service (R254). -/
def Conv.rank (c : Conv) : Nat := if c.src = 0 then 0 else if c.src ≤ 2 then 1 else 2

/-- The waiting request that is served next: the first of the lowest rank. -/
def nextConv (l : List Conv) : Option Conv :=
  match l.find? (fun c => c.rank == 0) with
  | some c => some c
  | none =>
    match l.find? (fun c => c.rank == 1) with
    | some c => some c
    | none => l.head?

/-- The enabled entry whose turn is next, from an entry on in ascending order and round. -/
def Eng.scanFrom (e : Eng) (i : Nat) : Option Nat :=
  ((List.range 16).map fun k => (i + k) % 16).find? fun k => e.bit Pg.MCV (MCV.SCAN.EN k)

/-- A commit of the enabled converter waits for the gap between two conversions, alone, or as a member that is not yet ready
(R42, R251). -/
def Eng.mcvGap (e : Eng) : Bool :=
  e.en Pg.MCV && e.bit Pg.MCV HDR.STS.PENDING &&
    !(e.bit Pg.MCV HDR.STS.GROUPED && e.grpReady.any fun x => x.2 == Pg.MCV)

/-- Start the next conversion when none runs: an urgent one, else the scan's. None starts in the gap that a commit waits for,
so that it finds its commit point, and no scan conversion while a group holds the converter (R251). -/
def Eng.mcvStart (e : Eng) : Eng :=
  match e.mcv.run with
  | some _ => e.mcvShow
  | none =>
    if e.mcvGap then e.mcvShow
    else
    match nextConv e.mcv.wait with
    | some c => (e.onMcv fun m => { m with run := some c, wait := m.wait.erase c }).mcvShow
    | none =>
      if !e.en Pg.MCV ∨ e.bit Pg.MCV HDR.STS.PENDING then e.mcvShow
      else
        match e.mcv.redo with
        | some c => (e.onMcv fun m => { m with run := some c, redo := none }).mcvShow
        | none =>
          match e.scanFrom e.mcv.next with
          | some k =>
            (e.onMcv fun m => { m with run := some ⟨e.get Pg.MCV (MCV.SCAN.INPUT k), e.get Pg.MCV (MCV.SCAN.CODE k), 5, k⟩ }).mcvShow
          | none => e.mcvShow

/-- The running scan conversion is aborted (R255, R256): its entry counts, and from the eighth abort in a row the entry is
STARVED and the scan moves on. -/
def Eng.mcvAbort (e : Eng) (c : Conv) : Eng :=
  let n := Store.get e.mcv.aborts c.tag 0 + 1
  let e1 := (e.inc Pg.MCV MCV.ABORT_CNT.COUNT).onMcv fun m =>
    { m with
      run := none, aborts := Store.put m.aborts c.tag n 0
      redo := if n < 8 then some c else none, next := if n < 8 then m.next else (c.tag + 1) % 16 }
  if n = 8 then
    (((e1.put Pg.MCV MCV.STARVE.ENTRY (e1.get Pg.MCV MCV.STARVE.ENTRY ||| 2 ^ c.tag)).inc Pg.MCV MCV.STARVE_CNT.COUNT).ist
      Pg.MCV MCV.IST.STARVED).raise Pg.MCV 0 0 8
  else e1

/-- An urgent request arrives: it aborts a running scan conversion, but for a host's or manager's request while SHIELD
guards a STARVED entry; else it waits (R254-R256). -/
def Eng.urgent (e : Eng) (c : Conv) : Eng :=
  let e1 := e.onMcv fun m => { m with wait := m.wait ++ [c] }
  match e1.mcv.run with
  | some r =>
    let guarded := e1.bit Pg.MCV MCV.CFG.SHIELD && (e1.get Pg.MCV MCV.STARVE.ENTRY).testBit r.tag && decide (3 ≤ c.src)
    if r.src = 5 ∧ !guarded then (e1.mcvAbort r).mcvStart else e1.mcvShow
  | none => e1.mcvStart

/-- A request of a source (and comparator) is queued or runs. -/
def Eng.urgentHeld (e : Eng) (src tag : Nat) : Bool :=
  (e.mcv.wait ++ e.mcv.run.toList).any fun c => c.src == src && c.tag == tag

/-! ### Verdicts -/

/-- XCHK_EVALUATE of the voltages (R94): SUPPLY_LOW where VDD_CORE lies more than 30 mV below VCORE or VDD_ADC below 0.87 V. -/
def Eng.xchkVolts (e : Eng) (core adc : Int) : Eng :=
  if core < 1000 * (e.get Pg.BUD BUD.VCORE.MV : Int) - 30000 ∨ adc < 870000 then
    ((e.ist Pg.BUD BUD.IST.XCHK).raise Pg.BUD 6 1 8).alert 7
  else e

/-- The view of a WCP channel's owner. -/
def Eng.wcpView (e : Eng) (n : Nat) : Nat := hdrPage Pg.WCP (e.wcpOwner n)

/-- Set or clear bit `n` of a mask field. -/
def Eng.maskBit (e : Eng) (p : Nat) (f : Fld) (n : Nat) (on : Bool) : Eng :=
  let m := e.get p f
  e.put p f (if on then m ||| 2 ^ n else m - (m &&& 2 ^ n))

/-- VALID of a channel, in both places that show it, and LIVE, which reads BELOW while VALID is 0 (R261). -/
def Eng.wcpValid (e : Eng) (n : Nat) (on : Bool) : Eng :=
  ((e.maskBit Pg.WCP WCP.STS.VALID n on).putB Pg.WCP (WCP.CH_STS.VALID n) on).put Pg.WCP (WCP.LIVE.STATE n)
    (if on then e.get Pg.WCP (WCP.CH_STS.STATE n) else 0)

/-- The result of a DAC check (R262): `up` and `lo` are the readings in µV. -/
def Eng.wcpVerdict (e : Eng) (n : Fin 8) (up lo : Int) : Eng :=
  let p := Pg.WCP
  let dev (v : Int) (code : Int) : Int := 4 * v - 3125 * code
  let du := dev up (e.getI p (WCP.CH_THR.HI n))
  let dl := dev lo (e.getI p (WCP.CH_THR.LO n))
  let fail := decide (400 * e.get p WCP.CHK.TOL < du.natAbs) || decide (400 * e.get p WCP.CHK.TOL < dl.natAbs)
  let e1 := ((e.putI p (WCP.CH_CHK.DEV_L n) (clampI (-128) 127 (rdiv dl 400))).putI p (WCP.CH_CHK.DEV_U n)
    (clampI (-128) 127 (rdiv du 400))).putB p (WCP.CH_CHK.FAIL n) fail
  let bad := e1.bit p (WCP.CH_STS.DACBAD n)
  let e2 := (e1.putB p (WCP.CH_STS.DACBAD n) fail).maskBit p WCP.STS.DACBAD n fail
  let e3 := { e2 with wcp := upd e2.wcp n fun r => { r with checking := false, cnt := if bad && !fail then 0 else r.cnt } }
  if fail then (((e3.wcpValid n false).istOr (e3.wcpView n) WCP.IST.DACBAD (2 ^ n.val))).raise p 2 1 (e3.wcpOwner n) else e3

/-- A sensor's fault bits (1 impedance, 2 guard, 4 excitation): RESULT.FAULT shows their OR; a new one is raised (R299, R300). -/
def Eng.sfeFault (e : Eng) (n : Fin 4) (b : Nat) (on : Bool) (index : Nat) : Eng :=
  let p := Pg.SFE n
  let m := e.sfe[n].faults
  let m' := if on then m ||| b else m - (m &&& b)
  let e1 := { e with sfe := upd e.sfe n fun r => { r with faults := m' } }.putB p SFE.RESULT.FAULT (m' != 0)
  if on then ((e1.ist p SFE.IST.FAULT).inc p SFE.FAULT_CNT.COUNT).raise p index 1 (e1.named p) else e1

/-- The excitation measured at input 32 + n, in µVpp, against its setting (R300). -/
def Eng.sfeExc (e : Eng) (n : Fin 4) (v : Int) : Eng :=
  let p := Pg.SFE n
  if e.en p then
    let want : Int := 1000 * (e.get p SFE.AMP.MVPP + if e.sfe[n].chk then e.get p SFE.IMP.AMP else 0)
    let bad := decide (want < 20 * ((v - want).natAbs : Int))
    if bad && (e.sfe[n].faults &&& 4) != 0 then e else if bad then e.sfeFault n 4 true 3 else e.sfeFault n 4 false 3
  else e

/-- The external reference (R268): REF_BAD while it deviates more than 1 % from 2.5 V. -/
def Eng.refVerdict (e : Eng) (v : Int) : Eng :=
  if 25000 < (v - 2500000).natAbs then
    ((e.put Pg.MCV MCV.STS.REF_BAD 1).ist Pg.MCV MCV.IST.REF_BAD).raise Pg.MCV 1 1 8
  else e.put Pg.MCV MCV.STS.REF_BAD 0

/-- What a result decides beside its accumulators. -/
def Eng.mcvVerdicts (e : Eng) (c : Conv) (v : Int) : Eng :=
  let e1 := if c.input = 26 then e.refVerdict v
    else if 32 ≤ c.input ∧ c.input ≤ 35 then e.sfeExc (fin4 (c.input - 32)) v else e
  if c.src = 0 then
    if c.input = 3 then e1.onMcv fun m => { m with xchk := some v }
    else
      match e1.mcv.xchk with
      | some core => (e1.xchkVolts core v).onMcv fun m => { m with xchk := none }
      | none => e1
  else if c.src = 1 ∧ c.tag < 8 ∧ e1.wcp[fin8 c.tag].checking then
    if c.input % 2 = 0 then e1.onMcv fun m => { m with dac := some v }
    else
      match e1.mcv.dac with
      | some u => (e1.wcpVerdict (fin8 c.tag) u v).onMcv fun m => { m with dac := none }
      | none => e1
  else e1

/-- The scan entry completed (R251, R256): its aborts clear, it is no longer STARVED, WRAP after the last enabled entry. -/
def Eng.scanDone (e : Eng) (k : Nat) : Eng :=
  let e1 := (e.maskBit Pg.MCV MCV.STARVE.ENTRY k false).onMcv fun m =>
    { m with aborts := Store.put m.aborts k 0 0, next := (k + 1) % 16 }
  if (List.range 16).any fun j => decide (k < j) && e.bit Pg.MCV (MCV.SCAN.EN j) then e1 else e1.ist Pg.MCV MCV.IST.WRAP

/-- MCV_CONVERSION_DONE: the result, limited to 24 bits, enters both banks of its input (R249, R252). -/
def Eng.mcvDone (e : Eng) (v0 : Int) : Eng :=
  match e.mcv.run with
  | none => e
  | some c =>
    if !e.lock then e
    else
      let v := clampI (-8388608) 8388607 v0
      let e1 := (e.inc Pg.MCV MCV.CONV_CNT.COUNT).onMcv fun m =>
        let m1 := m.setBank c.input ((m.bank c.input).add v)
        { m1.setBank (40 + c.input) ((m1.bank (40 + c.input)).add v) with run := none }
      let e2 := if c.src = 5 then e1.scanDone c.tag else e1.inc Pg.MCV MCV.URG_CNT.COUNT
      let e3 := if c.src = 3 then e2.ist Pg.MCV MCV.IST.URG_DONE_H else if c.src = 4 then e2.ist Pg.MCV MCV.IST.URG_DONE_M else e2
      (e3.mcvVerdicts c v).mcvStart

/-- MCV.URG in the writer's view: INPUT and CODE are kept; GO places the request, refused BUSY while the writer's last one
is not complete (R254). -/
def Eng.mcvUrg (e : Eng) (who : Src) (data : Word) : Eng :=
  let d := data.toNat
  let go := d.testBit 31
  let src := if who = .manager then 4 else 3
  e.order who Pg.MCV 0xC0 (decide (39 < d % 64)) (go && e.urgentHeld src 0) fun e0 =>
    let v := vw who.code Pg.MCV
    let e1 := (e0.put v MCV.URG.INPUT (d % 64)).put v MCV.URG.CODE (d / 256 % 8)
    if go then e1.urgent ⟨d % 64, d / 256 % 8, src, 0⟩ else e1

/-- The 1 s reference check from RS lock (R254). -/
def Eng.mcvRefCheck (e : Eng) : Eng := if e.lock ∧ !e.urgentHeld 2 0 then e.urgent ⟨26, 6, 2, 0⟩ else e

/-- ACC_SEL by a master: SNAP copies its bank, CLEAR clears it after the copy (R253). -/
def Eng.accSel (e : Eng) (who : Src) (input : Nat) (snap clear : Bool) : Eng :=
  e.order who Pg.MCV 0xD0 (decide (39 < input)) false fun e0 =>
    let k := if who = .manager then 40 + input else input
    let v := vw who.code Pg.MCV
    let b := e0.mcv.bank k
    let e1 := if snap then
        ((((((e0.putI v MCV.ACC_SUM.SUM b.sum).put v MCV.ACC_CNT.COUNT b.cnt).putI v MCV.ACC_MIN.VAL b.mn).putI v MCV.ACC_MAX.VAL
          b.mx).put v MCV.ACC_INFO.INPUT input).putB v MCV.ACC_INFO.FULL b.full)
      else e0
    if clear then e1.onMcv fun m => m.setBank k Acc1.empty else e1

/-! ### Window comparators (R257-R262) -/

def Eng.onWcp (e : Eng) (n : Fin 8) (f : WcpRt → WcpRt) : Eng := { e with wcp := upd e.wcp n f }

/-- A comparator output (R258) in nV: it rises at E + H, falls at E, and keeps its level between. -/
def cmpOut (was : Bool) (vd thr hyst : Int) : Bool := if thr + hyst ≤ vd then true else if vd ≤ thr then false else was

/-- Both outputs follow the input, and CHn_STS.LIVE shows the state: 0 BELOW, 1 INSIDE, 2 ABOVE. -/
def Eng.wcpFollow (e : Eng) (n : Fin 8) : Eng :=
  let p := Pg.WCP
  let h : Int := 2500000 * e.get p (WCP.CH_CFG.HYST n)
  let r := e.wcp[n]
  let up := cmpOut r.up r.vd (781250 * e.getI p (WCP.CH_THR.HI n)) h
  let dn := cmpOut r.dn r.vd (781250 * e.getI p (WCP.CH_THR.LO n)) h
  (e.onWcp n fun r => { r with up := up, dn := dn }).put p (WCP.CH_STS.LIVE n) (if up then 2 else if dn then 1 else 0)

/-- The input of comparator `n` moves to a voltage (R258); a disabled comparator shows nothing. -/
def Eng.wcpLive (e : Eng) (n : Fin 8) (vd : Int) : Eng :=
  let e1 := e.onWcp n fun r => { r with vd := vd }
  if e1.bit Pg.WCP (WCP.CH_CFG.EN n) then e1.wcpFollow n else e1

/-- Outputs forced low and released: both at an enable, or those whose E or H changed (R259). -/
def Eng.wcpForce (e : Eng) (n : Fin 8) (upper lower : Bool) : Eng :=
  let e1 := e.onWcp n fun r => { r with up := r.up && !upper, dn := r.dn && !lower }
  if e1.bit Pg.WCP (WCP.CH_CFG.EN n) then e1.wcpFollow n else e1

/-- Clear a filter's history and VALID and start its count again (R261). -/
def Eng.wcpRestart (e : Eng) (n : Fin 8) : Eng := (e.onWcp n fun r => { r with hist := [], cnt := 0 }).wcpValid n false

/-- Samples a filter looks at (R260). -/
def wcpN (nsel : Nat) : Nat := if nsel = 0 then 3 else if nsel = 1 then 5 else if nsel = 2 then 7 else if nsel = 3 then 9 else 15

/-- One filter sample (R260, R261). -/
def Eng.wcpSample (e : Eng) (n : Fin 8) : Eng :=
  let p := Pg.WCP
  if !e.bit p (WCP.CH_CFG.EN n) ∨ !e.lock then e
  else
    let m := wcpN (e.get p (WCP.CH_FLT.NSEL n))
    let k := e.get p (WCP.CH_FLT.K n)
    let h := (e.get p (WCP.CH_STS.LIVE n) :: e.wcp[n].hist).take m
    let was := e.get p (WCP.CH_STS.STATE n)
    let now := (([0, 1, 2].find? fun x => decide (k ≤ h.count x))).getD was
    let valid := e.bit p (WCP.CH_STS.VALID n)
    let e1 := (e.onWcp n fun r => { r with hist := h, cnt := min (r.cnt + 1) m }).put p (WCP.CH_STS.STATE n) now
    let e2 := if valid && now != was then
        ((e1.put p (WCP.LIVE.STATE n) now).inc p (WCP.CHANGE_CNT.COUNT n)).istOr (e1.wcpView n) WCP.IST.CHANGE (2 ^ n.val) else e1
    if !valid ∧ e2.wcp[n].cnt = m ∧ !e2.bit p (WCP.CH_STS.DACBAD n) then
      (e2.wcpValid n true).istOr (e2.wcpView n) WCP.IST.VALID (2 ^ n.val)
    else e2

/-- A threshold commit discards a check (R262): what waits of it is dropped, and a conversion that runs counts for no channel. -/
def Eng.wcpDiscard (e : Eng) (n : Fin 8) : Eng :=
  let mine (c : Conv) : Bool := c.src == 1 && c.tag == n.val
  (e.onMcv fun m =>
    { m with wait := m.wait.filter (fun c => !mine c), run := m.run.map (fun c => if mine c then { c with tag := c.tag + 8 } else c) }).onWcp n
    fun r => { r with checking := false }

/-- Place a check of a channel's DACs: inputs 10 + 2n and 11 + 2n at code 6. One that is under way is not doubled (R254). -/
def Eng.wcpCheck (e : Eng) (n : Fin 8) : Eng :=
  if e.urgentHeld 1 n then e
  else
    let e1 := e.onWcp n fun r => { r with checking := true }
    (e1.urgent ⟨10 + 2 * n, 6, 1, n⟩).urgent ⟨11 + 2 * n, 6, 1, n⟩

def Eng.wcpCheckPeriod (e : Eng) (n : Fin 8) : Eng := if e.bit Pg.WCP (WCP.CH_CFG.EN n) ∧ e.lock then e.wcpCheck n else e

def Eng.wcpCheckDue (e : Eng) (n : Fin 8) : Eng :=
  if e.wcp[n].due ∧ e.lock then (e.onWcp n fun r => { r with due := false }).wcpCheck n else e

/-- CHn_CMD.CHECK by the owner of the channel. -/
def Eng.wcpCheckCmd (e : Eng) (who : Src) (n : Fin 8) : Eng :=
  let off := 0x110 + 0x20 * n.val
  match e.denied who Pg.WCP off false with
  | some e' => e'
  | none =>
    if e.wcpOwner n ≠ who.owner then e.notOwner who off
    else e.order who Pg.WCP off false false fun e0 => e0.wcpCheck n

/-! ### Event router (R263-R267) -/

/-- The level of a source now; pulses are those of this CKC cycle (R263). -/
def Eng.srcLevel (e : Eng) (s : Nat) : Bool :=
  let n := s % 8
  if s = 0 then false else if s = 1 then true
  else if s < 0x08 then e.bit (Pg.CNV (s % 4)) CNV.STS.CLIP
  else if s < 0x0C then e.bit (Pg.CAL (s % 4)) CAL.STS.STARVED
  else if s < 0x10 then e.bit (Pg.CAL (s % 4)) CAL.STS.BAD
  else if s < 0x18 then e.bit (Pg.FCH n) FCH.STS.PK_VALID && e.fch[fin8 s].lev.testBit 0
  else if s < 0x20 then e.bit (Pg.FCH n) FCH.STS.PK_VALID && e.fch[fin8 s].lev.testBit 1
  else if s < 0x28 then e.bit (Pg.FCH n) FCH.STS.RMS_VALID && e.fch[fin8 s].lev.testBit 2
  else if s < 0x30 then e.bit (Pg.FCH n) FCH.STS.ENV_VALID && e.fch[fin8 s].lev.testBit 3
  else if s < 0x60 then e.evr.pulse.contains s
  else if s < 0x78 then e.bit Pg.WCP (WCP.CH_STS.VALID n) && e.get Pg.WCP (WCP.CH_STS.STATE n) == (s - 0x60) / 8
  else if s < 0x88 then (e.get Pg.EVR EVR.EVIO_IN.LEVEL).testBit (s - 0x78)
  else if s = 0x88 then e.bit Pg.XPT XPT.STS.STOPREQ
  else if s = 0x89 then e.bit Pg.XPT XPT.STS.READY
  else if s = 0x8C then e.bit Pg.XPT XPT.STS.OUTRUN
  else if s < 0x90 then e.evr.pulse.contains s
  else if s < 0x94 then e.bit (Pg.SFE (s % 4)) SFE.RESULT.FAULT
  else if s < 0x98 then e.bit (Pg.SFE (s % 4)) SFE.RESULT.VALID && e.sfe[fin4 s].th
  else if s < 0xA8 then e.mln.evt.testBit (s - 0x98)
  else e.evr.pulse.contains s

/-- The sources a destination selects. -/
def Eng.dstSources (e : Eng) (d : Nat) : List Nat := (List.range 4).map fun k => e.get Pg.EVR (EVR.DST_SEL.SRC d k)

/-- Tentative events, which only an opted-in destination sees (R263, R266). -/
def tentative (s : Nat) : Bool := (0x30 ≤ s && s < 0x38) || (0x40 ≤ s && s < 0x48)

/-- The value of a destination (R264): its sources that its owner may select, with a resolution that is owed, inverted by
INV, with FORCE. All are 0 after a parity fault (R268). -/
def Eng.dstValue (e : Eng) (d : Nat) : Bool :=
  let tent := e.bit Pg.EVR (EVR.DST_CFG.TENT d)
  let sel := (e.dstSources d).any fun s => e.srcLevel s && (tent || !tentative s) && e.evrRight (e.evrOwner d) s
  let owed := e.evr.owed.any fun x => x.1 == d && (e.evr.pulse.contains (0x38 + x.2) || e.evr.pulse.contains (0x40 + x.2))
  e.bit Pg.EVR EVR.STS.PARITY_OK && (((sel || owed) != e.bit Pg.EVR (EVR.DST_CFG.INV d)) || e.evr.force.contains d)

/-- A destination selects a source that its owner has no right to (R266). -/
def Eng.dstMasked (e : Eng) (d : Nat) : Bool := (e.dstSources d).any fun s => !e.evrRight (e.evrOwner d) s

/-- Masking of one destination follows its owner's rights: DSTd_CFG.MASKED, MASKED_CNT and IST.MASKED at a new masking. -/
def Eng.evrMask (e : Eng) (d : Nat) : Eng :=
  let was := e.bit Pg.EVR (EVR.DST_CFG.MASKED d)
  let now := e.dstMasked d
  if now && !was then
    ((e.put Pg.EVR (EVR.DST_CFG.MASKED d) 1).inc Pg.EVR EVR.MASKED_CNT.COUNT).ist (hdrPage Pg.EVR (e.evrOwner d)) EVR.IST.MASKED
  else if was && !now then e.put Pg.EVR (EVR.DST_CFG.MASKED d) 0 else e

/-- The destinations' values as the sequencers take them: those of this cycle count from each channel's next sample on. As much is
kept as a check can lag behind its lead. -/
def Eng.logDst (e : Eng) : Eng :=
  { e with evr := { e.evr with log := ((e.evr.dst, e.cnv.toList.map fun c => c.idx) :: e.evr.log).take 64 } }

/-- A ball EVIOk that is an output follows its destination, 2 CKC cycles after its value (R267), and EVIO_IN shows the ball. -/
def Eng.evioOut (e : Eng) : Eng :=
  loop 16 (fun a k =>
    if (a.get Pg.EVR EVR.EVIO_DIR.OUT).testBit k then a.maskBit Pg.EVR EVR.EVIO_IN.LEVEL k ((a.evr.drive.getD 2 []).contains (48 + k))
    else a) e

/-- One CKC edge of the router (R265): the sources of this cycle become the destinations' values of the next; pulses and
FORCE end; a resolution that appeared is owed no more. -/
def Eng.evrTick (e : Eng) : Eng :=
  let e1 := loop 64 Eng.evrMask e
  let dst := (List.range 64).filter e1.dstValue
  let stop := e1.evr.dst.contains (e1.get Pg.XPT XPT.STOP_SRC.DEST)
  let e2 := { e1 with
    xpt := { e1.xpt with evrPrev := stop }
    evr :=
      { e1.evr with
        dst := dst, drive := (dst :: e1.evr.drive).take 3, pulse := [], force := []
        owed := e1.evr.owed.filter fun x => !(e1.evr.pulse.contains (0x38 + x.2) || e1.evr.pulse.contains (0x40 + x.2)) } }
  e2.evioOut.logDst

/-- A write of FORCE0 or FORCE1: the writer's own destinations are asserted; bits of others count one OWNER refusal (R267). -/
def Eng.evrForce (e : Eng) (who : Src) (half : Bool) (data : Word) : Eng :=
  let off := if half then 0x4C else 0x48
  e.order who Pg.EVR off false false fun e0 =>
    let ds := ((List.range 32).filter fun b => data.getLsbD b).map fun b => b + if half then 32 else 0
    let own := ds.filter fun d => e0.evrOwner d == who.owner
    let e1 := { e0 with evr := { e0.evr with force := e0.evr.force ++ own.filter fun d => !e0.evr.force.contains d } }
    if own = ds then e1 else e1.refuseOwner who (hdrPage Pg.EVR who.owner) off

/-- A ball EVIOk that is an input changes level (R263, R267). -/
def Eng.evioInput (e : Eng) (k : Fin 16) (level : Bool) : Eng :=
  if (e.get Pg.EVR EVR.EVIO_DIR.OUT).testBit k then e else e.maskBit Pg.EVR EVR.EVIO_IN.LEVEL k level

/-- The selection store fails its parity (R268): PARITY is set in every view that owns a destination. -/
def Eng.evrParity (e : Eng) : Eng :=
  let e1 := e.put Pg.EVR EVR.STS.PARITY_OK 0
  let e2 := (List.range 9).foldl (fun a o =>
    if (List.range 64).any fun d => a.evrOwner d == o then a.ist (hdrPage Pg.EVR o) EVR.IST.PARITY else a) e1
  let e3 := { e2 with evr := { e2.evr with dst := [] } }.logDst
  e3.raise Pg.EVR 3 1 8

/-! ### The commands -/

def execMcvConversionDone (v : Int) : State → Host.Outcome State Fault Refusal := onEng fun e => e.mcvDone v
def execMcvUrg (who : Src) (data : Word) : State → Host.Outcome State Fault Refusal := onEng fun e => e.mcvUrg who data
def execMcvRefCheck : State → Host.Outcome State Fault Refusal := onEng Eng.mcvRefCheck
def execAccSnap (who : Src) (input : Fin 64) (clear : Bool) : State → Host.Outcome State Fault Refusal :=
  onEng fun e => e.accSel who input true clear
def execAccClear (who : Src) (input : Fin 64) : State → Host.Outcome State Fault Refusal :=
  onEng fun e => e.accSel who input false true
def execWcpLiveChange (n : Fin 8) (vd : Int) : State → Host.Outcome State Fault Refusal := onEng fun e => e.wcpLive n vd
def execWcpFilterSample (n : Fin 8) : State → Host.Outcome State Fault Refusal := onEng fun e => e.wcpSample n
def execWcpCheckPeriod (n : Fin 8) : State → Host.Outcome State Fault Refusal := onEng fun e => e.wcpCheckPeriod n
def execWcpCheckAfterCommit (n : Fin 8) : State → Host.Outcome State Fault Refusal := onEng fun e => e.wcpCheckDue n
def execWcpCheck (who : Src) (n : Fin 8) : State → Host.Outcome State Fault Refusal := onEng fun e => e.wcpCheckCmd who n
def execEvrForce (who : Src) (half : Bool) (data : Word) : State → Host.Outcome State Fault Refusal :=
  onEng fun e => e.evrForce who half data
def execEvioInputChange (k : Fin 16) (level : Bool) : State → Host.Outcome State Fault Refusal :=
  onEng fun e => e.evioInput k level
def execEvrParity : State → Host.Outcome State Fault Refusal := onEng Eng.evrParity

end Sys2Proof.Machine
end

