-- ==== Sys2Proof/Machine/Transport.lean ====
section
/-! DEFINITION. The transport port (R274-R292): position, velocity, stop requests and the end of an outrun; and the sensor
front ends (R293-R302). -/
namespace Sys2Proof.Machine

/-! ### Position (R275, R276) -/

def Eng.onXpt (e : Eng) (f : XptRt → XptRt) : Eng := { e with xpt := f e.xpt }

/-- Wrap at the limits of a 48-bit signed count. -/
def wrap48 (x : Int) : Int := signed 48 (unsigned 48 x)

/-- +1 where TACH_A leads TACH_B, -1 otherwise, from old levels `a`, `b` to new ones of which one changed. -/
def quadStep (b a' b' : Bool) : Int := if b' = b then (if a' != b then 1 else -1) else (if b' = a' then 1 else -1)

/-- XPT_QERR: more than 16 quadrature errors within 1 ms (R290). -/
def Eng.qerr (e : Eng) : Eng :=
  let e1 := (e.inc Pg.XPT XPT.QERR_CNT.COUNT).ist Pg.XPT XPT.IST.QERR
  let e2 := e1.onXpt fun x => { x with qerr := within e.tb unitsPerMs 17 x.qerr }
  if 16 < e2.xpt.qerr.length then e2.raise Pg.XPT 0 0 8 else e2

/-- New filtered tach levels: an edge, or a quadrature error where both changed (R275). -/
def Eng.tachEdge (e : Eng) (a b : Bool) : Eng :=
  let x := e.xpt
  let e1 := e.onXpt fun x => { x with a := a, b := b }
  if a != x.a && b != x.b then e1.qerr
  else if (a = x.a ∧ b = x.b) ∨ !e.en Pg.XPT then e1
  else
    let d := quadStep x.b a b
    let d := if e.bit Pg.XPT XPT.CFG.DIR_INV then -d else d
    e1.onXpt fun x => { x with pos := wrap48 (x.pos + d), motion := x.motion + d, edges := min (x.edges + 1) (2 ^ 32 - 1) }

/-- LOAD_LO/HI goes into POS: no motion, and POS is no longer suspect (R275, R277, R279). -/
def Eng.posLoad (e : Eng) : Eng :=
  let v := e.getI Pg.XPT XPT.LOAD.VAL
  (e.put Pg.XPT XPT.STS.POS_SUSPECT 0).onXpt fun x => { x with pos := v }

/-- A rising IDX edge (R276). -/
def Eng.idxEdge (e : Eng) : Eng :=
  let e1 := (((e.putI Pg.XPT XPT.IDX_POS.POS e.xpt.pos).inc Pg.XPT XPT.IDX_CNT.COUNT).ist Pg.XPT XPT.IST.IDX).pulse 0x8A
  if e1.bit Pg.XPT XPT.CFG.IDX_LOAD then e1.posLoad else e1

/-- A CTL edge: it acts if CFG.CTL_EDGE selects it (R276). -/
def Eng.ctlEdge (e : Eng) (rising : Bool) : Eng :=
  let e1 := e.onXpt fun x => { x with ctl := rising }
  if e.bit Pg.XPT XPT.CFG.CTL_EDGE != rising then
    ((e1.putI Pg.XPT XPT.CTL_POS.POS e.xpt.pos).wrap Pg.XPT XPT.CTL_CNT.COUNT).pulse 0x8B
  else e1

/-- CMD.LOAD by the holder. -/
def Eng.xptLoad (e : Eng) (who : Src) : Eng := e.order who Pg.XPT 0x98 false false Eng.posLoad

/-! ### Velocity and prediction (R277, R280, R289) -/

/-- SHORT: N_pred exceeds OUT_SLOTS while the outrun acquisition is armed. -/
def Eng.showShort (e : Eng) : Eng :=
  let u := fin8 (e.get Pg.XPT XPT.OUT_CFG.ACQ)
  let now := e.bit Pg.XPT XPT.OUT_CFG.ACQ_EN && e.armed u && decide (e.get Pg.XPT XPT.OUT_SLOTS.N < e.nPred)
  let was := e.bit Pg.XPT XPT.STS.SHORT
  let e1 := e.putB Pg.XPT XPT.STS.SHORT now
  if now && !was then (e1.ist Pg.XPT XPT.IST.SHORT).raise Pg.XPT 1 1 (e1.named Pg.XPT) else e1

/-- The 1 ms update: VEL over the window, MOVING, the prediction, SHORT, and the slow updates of an outrun. -/
def Eng.velUpdate (e : Eng) : Eng :=
  if !e.lock then e
  else
    let w := e.get Pg.XPT XPT.VEL_CFG.WIN
    let win := if w = 0 then 1 else if w = 1 then 4 else 16
    let h := (e.xpt.motion :: e.xpt.msHist).take 16
    let vel : Int := rdiv ((h.take win).foldl (fun (a b : Int) => a + b) 0 * 1000) win
    let moving := decide (e.get Pg.XPT XPT.STOP_VEL.VEL ≤ vel.natAbs)
    let e1 := e.onXpt fun x => { x with motion := 0, msHist := h }
    let e2 := (e1.putI Pg.XPT XPT.VEL.CPS (clampI (-2147483648) 2147483647 vel)).putB Pg.XPT XPT.STS.MOVING moving
    let t := e2.tOut
    let e3 := (e2.put Pg.XPT XPT.PRED.NSEG (min e2.nPred (2 ^ 21 - 1))).put Pg.XPT XPT.PRED_T.T
      (min (rdiv (10000 * t.1) t.2).toNat (2 ^ 20 - 1))
    (e3.onXpt fun x => { x with slow := if e3.outrunAcq.isSome && !moving then x.slow + 1 else 0 }).showShort

/-! ### Stop requests (R281, R282) and the end of an outrun (R286) -/

/-- CMD.STOP_REQ by the holder, taken in every lease state (R281). -/
def Eng.xptStopReq (e : Eng) (who : Src) : Eng :=
  match e.denied who Pg.XPT 0x98 false with
  | some e' => e'
  | none =>
    let busy := !e.ready || (match who with | .part n => e.partState n == 3 | _ => false)
    if busy then e.refuse who Pg.XPT 0x98 .busy else ({ e with resp := ⟨0, []⟩ }).stopReq XPT.STOPSTS.SW

/-- A rising edge of the destination named in STOP_SRC. -/
def Eng.evrStopEdge (e : Eng) : Eng :=
  if e.bit Pg.XPT XPT.STOP_SRC.EN ∧ e.dst (e.get Pg.XPT XPT.STOP_SRC.DEST) ∧ !e.xpt.evrPrev then e.stopReq XPT.STOPSTS.EVR else e

/-- CMD.RELEASE by the holder: POR, SW, MASK and EVR clear (R282). -/
def Eng.xptRelease (e : Eng) (who : Src) : Eng :=
  e.order who Pg.XPT 0x98 false e.outrunAcq.isSome fun e0 =>
    ([XPT.STOPSTS.POR, XPT.STOPSTS.SW, XPT.STOPSTS.MASK, XPT.STOPSTS.EVR].foldl (fun a f => a.put Pg.XPT f 0) e0).showStop

/-- The outrun ends by velocity after ten slow updates, or in CONT mode FULL where no slot is left for the next segment (R286; in TRIG
mode that is the CONF of one); orders that waited follow (R287). -/
def Eng.outrunEnds (e : Eng) : Eng :=
  match e.outrunAcq with
  | none => e
  | some u =>
    if 10 ≤ e.xpt.slow then (e.outrunEnd u 1).runDeferred
    else if e.contMode u && e.outFull u && e.acq[u].seg.isNone then (e.outrunEnd u 3).runDeferred
    else e

/-- An edge of XPORT_READY: a rising one ends the outrun (R286). -/
def Eng.readyEdge (e : Eng) (rising : Bool) : Eng :=
  let e1 := e.putB Pg.XPT XPT.STS.READY rising
  match e1.outrunAcq with
  | some u => if rising ∧ !e.bit Pg.XPT XPT.STS.READY then (e1.outrunEnd u 2).runDeferred else e1
  | none => e1

/-! ### Sensor front ends (R293-R300) -/

def Eng.onSfe (e : Eng) (n : Fin 4) (f : SfeRt → SfeRt) : Eng := { e with sfe := upd e.sfe n f }

/-- The linearisation of X to T, and whether it clamped (R296). -/
def Eng.sfeLin (e : Eng) (n : Fin 4) (x : Int) : Nat × Bool :=
  let p := Pg.SFE n
  let xk (k : Nat) : Int := e.getI p (SFE.LIN.X k)
  let yk (k : Nat) : Int := e.get p (SFE.LIN.Y k)
  if x < xk 0 then ((yk 0).toNat, true)
  else if xk 32 < x then ((yk 32).toNat, true)
  else
    let k := ((List.range 32).find? fun k => decide (x ≤ xk (k + 1))).getD 31
    ((yk k + rdiv ((yk (k + 1) - yk k) * (x - xk k)) (xk (k + 1) - xk k)).toNat, false)

/-- The level source SFEnT after a valid T (R298). -/
def Eng.sfeThresh (e : Eng) (n : Fin 4) (t : Nat) : Eng :=
  let p := Pg.SFE n
  let was := e.sfe[n].th
  let now := if e.get p SFE.TH.HI ≤ t then true else if t ≤ e.get p SFE.TH.LO then false else was
  let e1 := e.onSfe n fun r => { r with th := now }
  if now != was then e1.ist p SFE.IST.THRESH else e1

/-- A result: I, Q, T with VALID and CLAMP (R295, R296). -/
def Eng.sfeResult (e : Eng) (n : Fin 4) (i0 q0 : Int) : Eng :=
  let p := Pg.SFE n
  let i := clampI (-32767) 32767 i0
  let q := clampI (-32767) 32767 q0
  let x : Int := if e.bit p SFE.CFG.LIN_IN then isqrt (i * i + q * q).toNat else i
  let (t, cl) := e.sfeLin n x
  let e1 := ((e.putI p SFE.IQ.I i).putI p SFE.IQ.Q q).put p SFE.RESULT.T t
  let e2 := (((e1.put p SFE.RESULT.VALID 1).putB p SFE.RESULT.CLAMP cl).inc p SFE.RESULT_CNT.COUNT).ist p SFE.IST.RESULT
  (if cl then e2.inc p SFE.CLAMP_CNT.COUNT else e2).sfeThresh n t

/-- The verdict of the test tone's period (R299): 1 OK, 2 OPEN, 3 SHORT. -/
def Eng.sfeVerdict (e : Eng) (n : Fin 4) (z : Nat) : Eng :=
  let p := Pg.SFE n
  let v := if e.get p SFE.ZWIN.ZMAX < z then 2 else if z < e.get p SFE.ZWIN.ZMIN then 3 else 1
  let e1 := (((e.put p SFE.Z.OHM (min z 65535)).put p SFE.Z.VERDICT v).inc p SFE.IMPCHK_CNT.COUNT).put p SFE.STS.CHECKING 0
  let e2 := e1.onSfe n fun r => { r with chk := false }
  if v = 1 then e2.sfeFault n 1 false 0 else e2.sfeFault n 1 true (v - 2)

/-- Staged writes apply at the period end; after a change of EXC, AMP, RANGE or DEMOD the next period gives no result
(R295). The guard's fault does not outlast the guard drive. -/
def Eng.sfeApply (e : Eng) (n : Fin 4) (o : Nat) : Eng :=
  let p := Pg.SFE n
  let ch := (e.shad.any fun x => x.1 == regKey p SFE.EXC.FREQ || x.1 == regKey p SFE.AMP.MVPP || x.1 == regKey p SFE.CFG.RANGE ||
    x.1 == regKey p SFE.DEMOD.CYC)
  let e1 := (e.applied p o).onSfe n fun r => { r with skip := r.skip || ch }
  if e1.bit p SFE.CFG.GUARD then e1 else e1.sfeFault n 2 false 2

/-- SFE_PERIOD_END: the period's result and verdict, then what waits for the period's end. -/
def Eng.sfePeriod (e : Eng) (n : Fin 4) (i q : Int) (z : Nat) : Eng :=
  let p := Pg.SFE n
  if !e.en p ∨ !e.lock then e
  else
    let e1 := if e.sfe[n].skip then e.onSfe n fun r => { r with skip := false } else e.sfeResult n i q
    let e2 := if e1.sfe[n].chk then e1.sfeVerdict n z else e1
    let e3 := if e2.bit p HDR.STS.PENDING ∧ !(e2.grpOf p).isSome then (e2.sfeApply n (e2.owner p)).pgen (e2.owner p) else e2
    if e3.sfe[n].due ∧ e3.get p SFE.IMP.AMP ≠ 0 then
      (e3.put p SFE.STS.CHECKING 1).onSfe n fun r => { r with due := false, chk := true }
    else e3.onSfe n fun r => { r with due := false }

/-- The impedance check's period elapsed: the next period carries the tone, unless IMP.AMP is 0 (R299). -/
def Eng.sfeImpCheck (e : Eng) (n : Fin 4) : Eng :=
  if e.en (Pg.SFE n) ∧ e.get (Pg.SFE n) SFE.IMP.AMP ≠ 0 then e.onSfe n fun r => { r with due := true } else e

/-- GUARD sat at its current limit for 1 ms (R300). -/
def Eng.sfeGuard (e : Eng) (n : Fin 4) : Eng :=
  if e.en (Pg.SFE n) ∧ e.bit (Pg.SFE n) SFE.CFG.GUARD then e.sfeFault n 2 true 2 else e

/-- Ball TENS_OUTn (R297): none while it is held low; else the high time in CKC cycles of the pulse-width mode, or the
frequency in 1/65535 of 0.1 kHz. -/
def Eng.tensOut (e : Eng) (n : Fin 4) : Option Nat :=
  let p := Pg.SFE n
  if !e.en p || !e.bit p SFE.CFG.OUT_EN || !e.bit p SFE.RESULT.VALID || e.bit p SFE.RESULT.FAULT then none
  else
    let t := e.get p SFE.RESULT.T
    if e.bit p SFE.CFG.OUT_MODE then
      some (e.get p SFE.OUT_FRQ.FMIN * 65535 + (e.get p SFE.OUT_FRQ.FMAX - e.get p SFE.OUT_FRQ.FMIN) * t)
    else
      -- P is PER µs in CKC cycles; the high time is P × (0.05 + 0.9 T / 65536)
      let num := e.get p SFE.OUT_PW.PER * e.rsNum * (65536 * 5 + 90 * t)
      some (rdiv num (max (e.rsDen * 128 * 10 ^ 6 * 65536 * 100) 1)).toNat

/-! ### The commands -/

def execTachEdge (a b : Bool) : State → Host.Outcome State Fault Refusal := onEng fun e => e.tachEdge a b
def execIdxEdge : State → Host.Outcome State Fault Refusal := onEng Eng.idxEdge
def execCtlEdge (rising : Bool) : State → Host.Outcome State Fault Refusal := onEng fun e => e.ctlEdge rising
def execXportReadyEdge (rising : Bool) : State → Host.Outcome State Fault Refusal := onEng fun e => e.readyEdge rising
def execXptLoad (who : Src) : State → Host.Outcome State Fault Refusal := onEng fun e => e.xptLoad who
def execVelUpdate : State → Host.Outcome State Fault Refusal := onEng Eng.velUpdate
def execXptStopReq (who : Src) : State → Host.Outcome State Fault Refusal := onEng fun e => e.xptStopReq who
def execEvrStopEdge : State → Host.Outcome State Fault Refusal := onEng Eng.evrStopEdge
def execOutrunEnd : State → Host.Outcome State Fault Refusal := onEng Eng.outrunEnds
def execXptRelease (who : Src) : State → Host.Outcome State Fault Refusal := onEng fun e => e.xptRelease who
def execSfePeriodEnd (n : Fin 4) (i q : Int) (z : Nat) : State → Host.Outcome State Fault Refusal :=
  onEng fun e => e.sfePeriod n i q z
def execSfeImpCheck (n : Fin 4) : State → Host.Outcome State Fault Refusal := onEng fun e => e.sfeImpCheck n
def execSfeGuard (n : Fin 4) : State → Host.Outcome State Fault Refusal := onEng fun e => e.sfeGuard n

end Sys2Proof.Machine
end

