-- ==== Sys2Proof/Machine/Clock.lean ====
section
/-! DEFINITION. The clock (R14-R29): retune, holdover, loss of lock, and the CKH divider with its loop (R15, R87, R88). -/
namespace Sys2Proof.Machine

/-! ### Retune (R16, R21-R25) -/

/-- A synthesizer setting in the shadows is acceptable (R16). -/
def Eng.synOk (e : Eng) : Bool :=
  let p := Pg.CLK
  let f := e.sh p CLK.REF_FREQ.FREQ
  let r := e.sh p CLK.SYN_DIV.RDIV + 1
  let n := e.sh p CLK.SYN_DIV.NINT
  let m := e.sh p CLK.SYN_MOD.NMOD
  let k := e.sh p CLK.SYN_FRAC.NFRAC
  let num := f * (n * m + k)
  decide (10 ^ 7 * r ≤ f ∧ f ≤ 125 * 10 ^ 6 * r ∧ 128 ≤ n ∧ n ≤ 2000 ∧ m ≠ 0 ∧ k < m ∧
    16 * 10 ^ 9 * (r * m) ≤ num ∧ num ≤ 20 * 10 ^ 9 * (r * m))

/-- Every DRAM channel in service enters self-refresh; a retraining under way is aborted (R22, R93). -/
def Eng.selfRefresh (e : Eng) : Eng :=
  let e1 := units8.foldl (fun a d =>
    if a.dmcState d = 2 ∨ a.dmcState d = 3 ∨ a.dmcState d = 4 then
      ((a.put (Pg.DMC d) DMC.STS.STATE 5).put (Pg.DMC d) DMC.STS.QUEUED 0).onDmc d fun r => { r with rows := [] }
    else a) e
  ({ e1 with retrainQ := [] }).put Pg.DMX DMX.STS.RETRAINING 0

/-- Channels leave self-refresh: those in service go to full training, those that were DEGRADED keep their last setting and are not
trained before the next DRAM initialisation (R239). Before initialisation all train. -/
def Eng.wake (e : Eng) : Eng :=
  units8.foldl (fun a (d : Fin 8) =>
    if a.dmcState d = 5 then a.put (Pg.DMC d) DMC.STS.STATE (if a.mapNext.contains d.val ∨ !a.bit Pg.DMX DMX.STS.INIT_DONE then 1 else 4) else a) e

/-- Miolan alignment is lost (R25). -/
def Eng.unalign (e : Eng) : Eng := e.put Pg.MLN0 MLN0.STS.ALIGNED 0

/-- Edges may be lost while CKC is stopped (R279). -/
def Eng.posSuspect (e : Eng) : Eng := if e.en Pg.XPT then e.put Pg.XPT XPT.STS.POS_SUSPECT 1 else e

/-- CTL.COMMIT on CLK: checked for range, quiescence and a commit already pending; accepted, step 1 of the retune (R21, R22). -/
def Eng.clkCommit (e : Eng) (who : Src) : Eng :=
  match e.denied who Pg.CLK 0x10 false with
  | some e' => e'
  | none =>
    if !e.synOk then e.refuseCommit who Pg.CLK .range
    else if !e.quiescent then e.refuseCommit who Pg.CLK .quiesce
    else if e.busyFor who Pg.CLK ∨ e.bit Pg.CLK HDR.STS.PENDING ∨ e.retune then e.refuseCommit who Pg.CLK .busy
    else
      let e1 := (({ e with resp := ⟨0, []⟩ }).put Pg.CLK HDR.STS.PENDING 1).put Pg.CLK CLK.STS.RETUNE 1
      ((e1.selfRefresh.unalign).posSuspect).put Pg.TIM TIM.STS.COARSE 1

/-- Step 2: RS locks at the new setting and every derived clock restarts. Comparator filters count again (ch. 12), and a
sensor's running period gives no result. Calibration blocks across the relock are discarded (ch. 6). DRAM channels that were in
self-refresh go to full training, unless a trip or its thermal wait keeps them there (R93). A lost reference holds the retune at
this step. -/
def Eng.relock (e : Eng) : Eng :=
  if !e.retune ∨ e.bit Pg.CLK CLK.STS.HOLDOVER then e
  else
    let e1 := if e.bit Pg.CLK HDR.STS.PENDING then (e.applied Pg.CLK 8).pgen 8 else e
    let e2 := if e.bud.trip ∨ e.rst.wait then e1.put Pg.CLK CLK.STS.LOCK 1 else (e1.put Pg.CLK CLK.STS.LOCK 1).wake
    let e3 := units8.foldl (fun a n => a.wcpRestart n) e2
    let e4 := (List.range 4).foldl (fun a n => a.onSfe (fin4 n) fun r => { r with skip := true }) e3
    let e5 := (List.range 4).foldl (fun a c => a.onCal (fin4 c) fun r => { r with dirty := r.dirty || a.bit (Pg.CAL c) CAL.STS.RUN }) e4
    (units8.foldl (fun a u => a.acqRefresh u) e5).mcvStart

/-- One channel at the end of a retune's full training (R24, R235). -/
def Eng.retrained (e : Eng) (eyes : List Nat) (d : Fin 8) : Eng :=
  let p := Pg.DMC d
  let e0 := e.put p DMC.TRAIN_STS.CAUSE 6
  if e.dmcState d ≠ 1 then e
  else if !e.passes eyes d then ((e0.put p DMC.TRAIN_STS.RESULT 2).raise p 1 1 8).degrade d
  else
    let e1 := ((e0.put p DMC.STS.STATE 2).put p DMC.TRAIN_STS.RESULT 0).put p DMC.TEMP.AT_TRAIN (e.get p DMC.TEMP.NOW)
    (e1.put p DMC.STS.MARGINAL 0).onDmc d fun r => { r with lecc := [] }

/-- What keeps READY at 0: a fault of R400 in force, a retune or a lost lock (R27), a start-up or a reset that still runs (R394,
R395, R399). -/
def Eng.readyHeld (e : Eng) : Bool :=
  e.get Pg.DMX DMX.POP.N == 0 || !e.bit Pg.ARR ARR.STS.MAP_OK || e.mapBad || !e.lock || e.retune || e.bud.trip ||
    e.rst.soft.isSome || e.rst.perst.isSome || !e.bit Pg.DMX DMX.STS.INIT_DONE || (List.range 4).any fun c => e.cal[fin4 c].warming

/-- READY rises at the end of a start-up, a reset or a retune, unless something holds it. -/
def Eng.upReady (e : Eng) : Eng := if e.readyHeld then e else e.setReady

/-- Step 4: the retune ends; DRAM that was initialised has been retrained, and an unlock's READY returns (R22, R27). -/
def Eng.retuneDone (e : Eng) (eyes : List Nat) : Eng :=
  if !e.retune ∨ !e.lock ∨ e.bit Pg.CLK CLK.STS.HOLDOVER ∨ e.bit Pg.CLK HDR.STS.PENDING then e
  else
    let e1 := if e.bit Pg.DMX DMX.STS.INIT_DONE then units8.foldl (fun a d => a.retrained eyes d) e else e
    let e2 := (e1.put Pg.DMX DMX.RATE.MTS e1.dataRate).put Pg.DMX DMX.RATE.BIN (Config.speedBin e1.dataRate)
    let e3 := ((e2.put Pg.CLK CLK.STS.RETUNE 0).inc Pg.CLK CLK.RETUNE_CNT.COUNT).ist Pg.CLK CLK.IST.RETUNE_DONE
    e3.upReady

/-! ### The reference (R26) and loss of lock (R27) -/

/-- REFIN was measured: REF_OK, entry to holdover with REF_LOST (in a retune too, which it holds: ch. 1), or the way back. Where RS
has neither lock nor a retune under way there is no tuning to hold: only REF_OK shows the measurement (DESIGN CHOICE, log
entry 71). -/
def Eng.refMeasure (e : Eng) (hz : Nat) : Eng :=
  if !e.fused then e
  else
    let f := e.get Pg.CLK CLK.REF_FREQ.FREQ
    let ok := decide (((hz : Int) - f).natAbs * 10 ^ 6 ≤ f * e.get Pg.CLK CLK.REF_TOL.PPM)
    let e1 := (e.put Pg.CLK CLK.REF_MEAS.FREQ (min hz (2 ^ 28 - 1))).putB Pg.CLK CLK.STS.REF_OK ok
    let hold := e.bit Pg.CLK CLK.STS.HOLDOVER
    if !ok && !hold && (e.lock || e.retune) then
      ((((e1.put Pg.CLK CLK.STS.HOLDOVER 1).inc Pg.CLK CLK.REFLOSS_CNT.COUNT).ist Pg.CLK CLK.IST.REF_LOST).raise Pg.CLK 0 1 8).alert 6
    else if ok && hold then
      let e2 := e1.put Pg.CLK CLK.STS.HOLDOVER 0
      if e.lock then e2.ist Pg.CLK CLK.IST.REF_BACK else e2
    else e1

/-- The loss of lock (R27): a pending TENT is aborted (R168), CLK_UNLOCK, every acquisition and stream ends CLOCK, READY clears, and steps 2 to 4 of a retune
follow, whatever READY was. Words are invalid while there is no lock. -/
def Eng.clkUnlock (e : Eng) : Eng :=
  let e0 := units8.foldl (fun a t => a.onTrg t fun r => { r with abort := r.abort || r.tent.isSome }) e
  let e1 := ((((e0.put Pg.CLK CLK.STS.LOCK 0).inc Pg.CLK CLK.UNLOCK_CNT.COUNT).ist Pg.CLK CLK.IST.LOCK_LOST).raise Pg.CLK 1 3 8).alert 6
  let e2 := (((e1.endWhere (fun u => e1.armed u) 8).selfRefresh).posSuspect).put Pg.TIM TIM.STS.COARSE 1
  ((e2.put Pg.CLK CLK.STS.RETUNE 1).put Pg.ENG ENG.STS.READY 0).runDeferred

def Eng.lockLost (e : Eng) : Eng := if e.lock then e.clkUnlock else e

/-- Holdover lasted HOLD_TMO. -/
def Eng.holdTmo (e : Eng) : Eng := if e.lock ∧ e.bit Pg.CLK CLK.STS.HOLDOVER then e.clkUnlock else e

/-! ### The CKH divider (R15, R87, R88) -/

def Eng.div (e : Eng) : Nat := e.get Pg.CLK CLK.CKH.DIV
def Eng.maxDiv (e : Eng) : Nat := e.get Pg.CLK CLK.CKH.MAX_DIV
def Eng.onBud (e : Eng) (f : BudRt → BudRt) : Eng := { e with bud := f e.bud }

/-- Boost at divider `d` (R87): over enabled accumulation units, what they need at `d` above their held cost. -/
def Eng.boostAt (e : Eng) (d : Nat) : Nat :=
  units8.foldl (fun n (h : Fin 8) =>
    if e.en (Pg.HIS h) then
      let b := 24 * hisBase (e.get (Pg.HIS h) HIS.CFG.TYPE)
      n + (ceilDiv b (max d 1) - ceilDiv b (max e.maxDiv 1))
    else n) 0

/-- The loop moves (R88): from READY, enabled, not frozen. -/
def Eng.ckhRuns (e : Eng) : Bool := e.ready && e.lock && e.bit Pg.BUD BUD.CKH_LOOP.EN && !e.bud.frozen

/-- The least slack in ps that the CKH-domain path monitors report for divider `d`; `slack` lists it for the dividers 24 to 48.
Where they report none the condition of R88 is not met. -/
def slackMeets (slack : List Int) (need : Int) (d : Nat) : Bool := (slack[d - 24]?).any fun s => decide (24 ≤ d) && decide (need ≤ s)

/-- One evaluation (R88). Boost is taken before the loop steps down. -/
def Eng.ckhEval (e : Eng) (slack : List Int) : Eng :=
  let lo := e.get Pg.CLK CLK.CKH.MIN_DIV
  let hi := e.maxDiv
  let ds := ((List.range 64).filter fun d => decide (lo ≤ d ∧ d ≤ hi))
  let need : Int := e.get Pg.BUD BUD.SLACK.TGT + e.get Pg.BUD BUD.SLACK.STEP
  let allow := (e.freeC + e.bud.boost - e.get Pg.BUD BUD.CKH_LOOP.RESERVE).toNat
  let t :=
    if !e.ckhRuns then hi
    else if units8.all (fun (h : Fin 8) => !e.en (Pg.HIS h)) then lo
    else (ds.find? fun d => decide (e.boostAt d ≤ allow) && slackMeets slack need d).getD hi
  let e1 := e.onBud fun b =>
    { b with target := t, boost := if t < e.div then max b.boost (e.boostAt t) else if t = e.div then e.boostAt t else b.boost }
  e1.settleOver

/-- Set the divider; boost it no longer needs is released after a step up (R87, R88). -/
def Eng.divTo (e : Eng) (d : Nat) : Eng :=
  let up := decide (e.div < d)
  let e1 := e.put Pg.CLK CLK.CKH.DIV d
  (e1.onBud fun b => { b with boost := if up then min b.boost (e1.boostAt d) else b.boost }).settleOver

/-- One step up, which the target follows: what was released is not drawn again before an evaluation. -/
def Eng.ckhUp (e : Eng) : Eng :=
  let e1 := e.divTo (e.div + 1)
  e1.onBud fun b => { b with target := max b.target e1.div }

/-- One CKH cycle boundary: the divider moves by one towards its target inside its limits (R15); a reclaim drives it up until
enough boost is released (R85). It steps down only onto a divider whose boost is held (R87). -/
def Eng.ckhStep (e : Eng) : Eng :=
  let hi := e.maxDiv
  let t := max (e.get Pg.CLK CLK.CKH.MIN_DIV) (min hi e.bud.target)
  if !e.lock then e
  else if e.freeC < 0 ∧ 0 < e.bud.boost ∧ e.div < hi then e.ckhUp
  else if e.div < t then e.divTo (e.div + 1)
  else if t < e.div ∧ e.boostAt (e.div - 1) ≤ e.bud.boost then e.divTo (e.div - 1)
  else e

/-- A CKH-domain monitor reports slack below SLACK.TGT at the present divider: the divider steps up at once (R88). -/
def Eng.slackStep (e : Eng) : Eng := if e.ckhRuns ∧ e.div < e.maxDiv then e.ckhUp else e

/-- The enabled accumulation units as one ticket request at a MAX_DIV; no partition's cap counts (R82). -/
def Eng.hisReq (e : Eng) (maxDiv : Nat) : TixReq :=
  ⟨(units8.filter fun (h : Fin 8) => e.en (Pg.HIS h)).map fun (h : Fin 8) =>
    (Pg.HIS h, (e.costAt e.arr maxDiv false (Pg.HIS h)).1, (e.costAt e.arr maxDiv false (Pg.HIS h)).2), 9, Pg.CLK, false⟩

/-- A write of CLK.CKH: MIN_DIV and MAX_DIV; lowering MAX_DIV is a ticket request, raising it returns tickets (R29, R82). -/
def Eng.ckhLimits (e : Eng) (who : Src) (data : Word) : Eng :=
  let lo := data.toNat / 2 ^ 8 % 64
  let hi := data.toNat / 2 ^ 16 % 64
  e.order who Pg.CLK 0x58 (decide (lo < 24 ∨ 48 < lo ∨ hi < 24 ∨ 48 < hi ∨ hi < lo)) false fun e0 =>
    let r := e0.hisReq hi
    let set (a : Eng) : Eng := (a.put Pg.CLK CLK.CKH.MIN_DIV lo).put Pg.CLK CLK.CKH.MAX_DIV hi
    match e0.tixCause r with
    | some c => (e0.tixRefused who r c).refuse who Pg.CLK 0x58 .noCredit
    | none => units8.foldl (fun a (h : Fin 8) => a.relax (Pg.HIS h)) (set (e0.grantTix r))

/-! ### The commands -/

def execClkCommit (who : Src) : State → Host.Outcome State Fault Refusal := onEng fun e => e.clkCommit who
def execRetuneRelock : State → Host.Outcome State Fault Refusal := onEng Eng.relock
def execRetuneDone (eyes : List Nat) : State → Host.Outcome State Fault Refusal := onEng fun e => (e.retuneDone eyes).runDeferred
def execRefMeasure (hz : Nat) : State → Host.Outcome State Fault Refusal := onEng fun e => e.refMeasure hz
def execHoldTmoExpiry : State → Host.Outcome State Fault Refusal := onEng Eng.holdTmo
def execLockLost : State → Host.Outcome State Fault Refusal := onEng Eng.lockLost
def execCkhLimitsWrite (who : Src) (data : Word) : State → Host.Outcome State Fault Refusal := onEng fun e => e.ckhLimits who data
def execCkhLoopEval (slack : List Int) : State → Host.Outcome State Fault Refusal := onEng fun e => e.ckhEval slack
def execCkhDivStep : State → Host.Outcome State Fault Refusal := onEng Eng.ckhStep
def execSlackBelowTarget : State → Host.Outcome State Fault Refusal := onEng Eng.slackStep

end Sys2Proof.Machine
end

