-- ==== Sys2Proof/Machine/Budget.lean ====
section
/-! DEFINITION. The current budget's commands (R79-R97): LIMIT and BUDGET, the AVS loop, thermal sensors with the shed and
the trip, and the cross-check. -/
namespace Sys2Proof.Machine

/-! ### Limits (R80, R81) -/

/-- OVERCOMMIT follows the budget: set on a rail whose held tickets exceed it, with IST.OVERCOMMIT where one of the `rails` whose
BUDGET was set now is (R81). -/
def Eng.overNow (e : Eng) (rails : Nat) : Eng :=
  let now := (if e.get Pg.BUD BUD.BUDGET.CORE < e.sumC then 1 else 0) + (if e.get Pg.BUD BUD.BUDGET.ADC < e.sumA then 2 else 0)
  let e1 := e.put Pg.BUD BUD.STS.OVERCOMMIT now
  if now &&& rails ≠ 0 then e1.ist Pg.BUD BUD.IST.OVERCOMMIT else e1

/-- A write of BUD.LIMIT, by the manager alone; BUDGET falls with it. -/
def Eng.limitWrite (e : Eng) (who : Src) (data : Word) : Eng :=
  let c := data.toNat % 1024
  let a := data.toNat / 2 ^ 16 % 1024
  match e.denied who Pg.BUD 0x40 false with
  | some e' => e'
  | none =>
    if who = .host then e.refuseOwner who Pg.BUD 0x40
    else e.order who Pg.BUD 0x40 (decide (c < 256 ∨ 720 < c ∨ a < 140 ∨ 400 < a)) false fun e0 =>
      let set := (decide (c < e0.get Pg.BUD BUD.BUDGET.CORE)).toNat + 2 * (decide (a < e0.get Pg.BUD BUD.BUDGET.ADC)).toNat
      let e1 := (e0.put Pg.BUD BUD.LIMIT.CORE c).put Pg.BUD BUD.LIMIT.ADC a
      let e2 := e1.put Pg.BUD BUD.BUDGET.CORE (min c (e1.get Pg.BUD BUD.BUDGET.CORE))
      (e2.put Pg.BUD BUD.BUDGET.ADC (min a (e2.get Pg.BUD BUD.BUDGET.ADC))).overNow set

/-- A write of BUD.BUDGET, from 0 to LIMIT on each rail. -/
def Eng.budgetSet (e : Eng) (who : Src) (data : Word) : Eng :=
  let c := data.toNat % 1024
  let a := data.toNat / 2 ^ 16 % 1024
  e.order who Pg.BUD 0x44 (decide (e.get Pg.BUD BUD.LIMIT.CORE < c ∨ e.get Pg.BUD BUD.LIMIT.ADC < a)) false fun e0 =>
    ((e0.put Pg.BUD BUD.BUDGET.CORE c).put Pg.BUD BUD.BUDGET.ADC a).overNow 3

/-! ### The AVS loop (R89, R90, R95) -/

/-- The loop runs: from READY, enabled, AVSBus working. -/
def Eng.avsOn (e : Eng) : Bool := e.ready && e.bit Pg.BUD BUD.AVS_CFG.EN && !e.bit Pg.BUD BUD.STS.AVS_FAIL

/-- A transaction to the rail that AVS_CFG.RAIL selects leaves on AVSBus (R90). -/
def Eng.avsSend (e : Eng) (c : AvsCmd) : Eng := { e with sent := e.sent ++ [.avs (e.get Pg.BUD BUD.AVS_CFG.RAIL) c] }

/-- A new target voltage: Voltage Write with commit. -/
def Eng.avsSet (e : Eng) (mv : Nat) : Eng := (e.put Pg.BUD BUD.VCORE.MV mv).avsSend (.voltageWrite mv)

/-- The reads that the engine makes at a period: R90 lists Voltage Read and Status Read and gives them no moment, so whether one is
sent is free (log entry 87). -/
def Eng.avsReads (e : Eng) : Eng :=
  let w := Config.freeWord e.freeCtr
  let e1 := if w.getLsbD 0 then e.avsSend .voltageRead else e
  (if w.getLsbD 1 then e1.avsSend .statusRead else e1).fresh

/-- One period: `ckd` and `ckh` are the least slacks in ps that the CKD-domain and CKH-domain path monitors report. A step of
5 mV that would leave AVS_LIM is not taken (R89). -/
def Eng.avsUpdate (e : Eng) (ckd ckh : Int) : Eng :=
  let v := e.get Pg.BUD BUD.VCORE.MV
  let lo := e.get Pg.BUD BUD.AVS_LIM.MIN
  let hi := e.get Pg.BUD BUD.AVS_LIM.MAX
  let tgt : Int := e.get Pg.BUD BUD.SLACK.TGT
  let s := min ckd ckh
  let e1 := if ckd < 0 ∧ (hi ≤ v ∨ e.bit Pg.BUD BUD.STS.AVS_FAIL) then e.raise Pg.BUD 5 3 8 else e
  if !e1.avsOn then e1
  else
    let e2 := if s < tgt then (if v + 5 ≤ hi then e1.avsSet (v + 5) else e1)
      else if tgt + e.get Pg.BUD BUD.SLACK.HYST < s then (if lo + 5 ≤ v then e1.avsSet (v - 5) else e1)
      else e1
    e2.avsReads

/-- An AVSBus transaction ended after 0 to 3 retries, or failed (4); a current read carries mA (R90, R94, R95). -/
def Eng.avsDone (e : Eng) (retries : Nat) (current : Option Nat) : Eng :=
  let e1 := if retries = 0 then e else e.inc Pg.BUD BUD.AVS_ERR_CNT.COUNT
  if 4 ≤ retries then
    let e2 := (((e1.put Pg.BUD BUD.STS.AVS_FAIL 1).ist Pg.BUD BUD.IST.AVS_FAIL).raise Pg.BUD 4 1 8).alert 7
    e2.onBud fun b => { b with frozen := true, target := e2.maxDiv }
  else
    match current with
    | some ma =>
      if e1.bit Pg.BUD BUD.AVS_CFG.IREAD ∧ e1.bit Pg.BUD BUD.XCHK.EN ∧ e1.sumC * (100 + e1.get Pg.BUD BUD.XCHK.MARGIN) < ma then
        ((e1.ist Pg.BUD BUD.IST.XCHK).raise Pg.BUD 7 1 8).alert 7
      else e1
    | none => e1

/-- The start-up sequence runs: before RS lock, before DRAM is initialised, or in calibration warm-up (R399). -/
def Eng.starting (e : Eng) : Bool :=
  !e.fused || e.bit Pg.SPI SPI.STS.PRELOCK || (List.range 4).any (fun c => e.cal[fin4 c].warming) ||
    (!e.bit Pg.DMX DMX.STS.INIT_DONE && e.rst.perst.isNone && e.get Pg.DMX DMX.POP.N != 0)

/-- XCHK_PERIOD (R94): both voltages are requested from the monitor converter, and with IREAD the core current over AVSBus; from the
READY that ends the start-up on (R269). -/
def Eng.xchkPeriod (e : Eng) : Eng :=
  if e.lock ∧ !e.starting ∧ e.bit Pg.BUD BUD.XCHK.EN then
    let e1 := if e.bit Pg.BUD BUD.AVS_CFG.IREAD then e.avsSend .currentRead else e
    if e1.urgentHeld 0 0 then e1 else (e1.urgent ⟨3, 7, 0, 0⟩).urgent ⟨4, 7, 0, 0⟩
  else e

/-! ### The shed (R92) -/

/-- The chains and sequencers that an acquisition unit's settings use. -/
def Eng.unitUses (e : Eng) (u : Fin 8) : List Nat :=
  let p := Pg.ACQ u
  let chain := (e.bit p ACQ.SRC.KIND && (e.bit p ACQ.MODE.CAP || e.bit p ACQ.MODE.ACC)) || e.bit p ACQ.MODE.STR
  let t := e.get p ACQ.TRIG.TRG
  (if chain then [Pg.FCH (e.get p ACQ.SRC.FCH)] else []) ++
  (if e.bit p ACQ.TRIG.TRG_EN then [Pg.TRG t, Pg.FCH (e.get (Pg.TRG t) TRG.SRC.FCH)] else [])

/-- Chains and sequencers that some enabled acquisition unit uses. -/
def Eng.usedUnits (e : Eng) : List Nat := (units8.filter fun (u : Fin 8) => e.en (Pg.ACQ u)).flatMap e.unitUses

/-- Shed one acquisition: it ends THERMAL; its unit, its bound accumulation units, and the chains and sequencers that no
other enabled acquisition uses are disabled. -/
def Eng.shedAcq (e : Eng) (u : Fin 8) : Eng :=
  let p := Pg.ACQ u
  let mine := e.unitUses u
  let hs := units8.filter fun h => e.bound u h
  let e1 := hs.foldl (fun a (h : Fin 8) => a.switchOff (Pg.HIS h)) ((e.endAcq u 9).switchOff p)
  let used := e1.usedUnits
  let e2 := mine.foldl (fun a q => if used.contains q || !a.en q then a else a.switchOff q) e1
  (e2.put Pg.BUD BUD.SHED_LOG.PAGE p).raise Pg.BUD 2 1 (e.named p)

/-- The last enabled unit that a test selects: highest instance first. -/
def Eng.lastAcq (e : Eng) (q : Fin 8 → Bool) : Option (Fin 8) := units8.reverse.find? fun (u : Fin 8) => e.en (Pg.ACQ u) && q u

/-- Channels that an enabled chain, or an enabled unit with a raw source, consumes. -/
def Eng.usedChans (e : Eng) : List Nat :=
  ((units8.filter fun (f : Fin 8) => e.en (Pg.FCH f)).map fun (f : Fin 8) => e.get (Pg.FCH f) FCH.INPUT.CH) ++
  ((units8.filter fun (u : Fin 8) => e.en (Pg.ACQ u) && !e.bit (Pg.ACQ u) ACQ.SRC.KIND &&
    (e.bit (Pg.ACQ u) ACQ.MODE.CAP || e.bit (Pg.ACQ u) ACQ.MODE.ACC)).map fun (u : Fin 8) => e.get (Pg.ACQ u) ACQ.SRC.CH)

/-- The loop freezes on its way to MAX_DIV; boost falls to 0 as the divider steps there (R15, R87). -/
def Eng.ckhFreeze (e : Eng) : Eng := e.onBud fun b => { b with frozen := true, target := e.maxDiv }

/-- One row of the shed order, and whether it shed anything: row 1 does while boost is held that the frozen loop does not already
release. -/
def Eng.shedRow (e : Eng) (row : Nat) : Eng × Bool :=
  if row = 1 then (e.ckhFreeze, e.bud.boost != 0 && !(e.bud.frozen && e.bud.target == e.maxDiv))
  else if row ≤ 3 then
    match e.lastAcq fun u => (e.bit (Pg.ACQ u) ACQ.MODE.CAP == (row == 3)) && e.outrunAcq != some u with
    | some u => (e.shedAcq u, true)
    | none => (e, false)
  else if row = 4 then
    let used := e.usedUnits
    let ps := ((List.range 8).map Pg.FCH ++ (List.range 8).map Pg.TRG).filter fun q => e.en q && !used.contains q
    (ps.foldl (fun a q => a.switchOff q) e, !ps.isEmpty)
  else
    let used := e.usedChans
    let ps := ((List.range 4).filter fun c => !used.contains c).flatMap fun c => [Pg.CNV c, Pg.CAL c].filter fun q => e.en q
    (ps.foldl (fun a q => a.switchOff q) e, !ps.isEmpty)

/-- Take the first step from `row` on with something to shed; empty rows cost no interval. -/
def Eng.shedFrom : Nat → Nat → Eng → Eng
  | 0, _, e => e
  | k + 1, row, e =>
    if 5 < row then e
    else
      let r := e.shedRow row
      if r.2 then (((r.1.put Pg.BUD BUD.SHED_LOG.STEP row).inc Pg.BUD BUD.SHED_CNT.COUNT).ist Pg.BUD BUD.IST.SHED).alert 1
      else shedFrom k (row + 1) r.1

/-- A reading as the thresholds see it: a failed sensor reads EMERG (R95). -/
def Eng.dtsEff (e : Eng) (k : Nat) : Int :=
  if e.bud.dtsFail.contains k then e.get Pg.BUD BUD.THERM.EMERG else e.getI Pg.BUD (BUD.DTS.TEMP k)

/-- Some sensor is at or above a temperature. -/
def Eng.hot (e : Eng) (t : Int) : Bool := (List.range 8).any fun k => decide (t ≤ e.dtsEff k)

def Eng.emergT (e : Eng) : Int := e.get Pg.BUD BUD.THERM.EMERG

/-- A shed step while the emergency lasts and a sensor is at or above EMERG (R91): the first row of R92 that finds something to
shed, an acquisition whose outrun has ended since among it. -/
def Eng.shedStep (e : Eng) : Eng :=
  if e.bit Pg.BUD BUD.STS.EMERG ∧ e.hot e.emergT ∧ !e.bud.trip then (Eng.shedFrom 6 1 e).runDeferred else e

/-! ### The trip (R93) -/

/-- Pages whose CTL.EN can be cleared, in page order. -/
def switchable : List Nat :=
  (List.range 256).filter fun p => (kindOf p != .none) && !fixedEn p

/-- Every comparator off (its enable is staged, so the page has no CTL.EN of its own). -/
def Eng.wcpOff (e : Eng) : Eng :=
  ((List.range 8).foldl (fun a n => (a.put Pg.WCP (WCP.CH_CFG.EN n) 0).wcpValid n false) e).relax Pg.WCP

/-- The thermal trip. The data of drains can no longer reach DRAM and is discarded (R391). -/
def Eng.thermTrip (e : Eng) : Eng :=
  let e1 := e.stopReq XPT.STOPSTS.TRIP
  let e2 := e1.endWhere (fun u => e1.armed u) 9
  let e3 := (switchable.filter fun p => p != Pg.XPT).foldl (fun a p => if a.en p then a.switchOff p else a) e2
  let e4 := ((e3.wcpOff).selfRefresh).put Pg.ENG ENG.STS.READY 0
  let e5 := e4.onBud fun b => { b with trip := true, frozen := true, boost := 0, target := e4.maxDiv, powerWait := [] }
  let e6 := e5.settleOver.raise Pg.BUD 3 3 8
  ((List.range 9).foldl (fun a n => if a.drains.any (fun d => d.part == n) then a.dropData n else a) e6).runDeferred

/-! ### Sensors (R91, R236) -/

/-- Store a sample of each sensor; one that gives a reading has recovered. -/
def Eng.dtsStore (e : Eng) (temps : List (Option Int)) : Eng :=
  (List.range 8).foldl (fun a k =>
    match temps.getD k none with
    | some v => (a.putI Pg.BUD (BUD.DTS.TEMP k) (clampI (-128) 127 v)).onBud fun b => { b with dtsFail := b.dtsFail.filter fun j => j != k }
    | none => a) e

/-- BUD.TEMP: the hottest reading and its sensor, the lowest number among equals. A failed sensor counts with its last reading
here; only the thresholds take it as EMERG (R95, R97; DESIGN CHOICE, log entry 72). -/
def Eng.dtsMax (e : Eng) : Eng :=
  let k := (List.range 8).foldl (fun m k => if e.getI Pg.BUD (BUD.DTS.TEMP m) < e.getI Pg.BUD (BUD.DTS.TEMP k) then k else m) 0
  (e.put Pg.BUD BUD.TEMP.MAX (e.get Pg.BUD (BUD.DTS.TEMP k))).put Pg.BUD BUD.TEMP.SENSOR k

/-- The DTS of a channel's PHY quadrant: its reading, and a retraining where it moved by TEMP_TH since the last (R236). -/
def Eng.dtsDram (e : Eng) (d : Fin 8) : Eng :=
  let p := Pg.DMC d
  let k := 2 + d.val / 2
  let t := e.getI Pg.BUD (BUD.DTS.TEMP k)
  let e1 := (e.putI p DMC.TEMP.NOW t).put p DMC.TEMP.DTS k
  if e.get Pg.DMX DMX.RETRAIN.TEMP_TH ≤ (t - e.getI p DMC.TEMP.AT_TRAIN).natAbs then e1.queueTrain d (some 1) else e1

/-- Emergency follows the readings. -/
def Eng.dtsEmerg (e : Eng) : Eng :=
  let em := e.bit Pg.BUD BUD.STS.EMERG
  if !em ∧ e.hot e.emergT then
    ((((e.put Pg.BUD BUD.STS.EMERG 1).ist Pg.BUD BUD.IST.EMERG).alert 1).raise Pg.BUD 1 1 8).shedStep
  else if em ∧ !e.hot (e.emergT - 4) then
    (e.put Pg.BUD BUD.STS.EMERG 0).onBud fun b => { b with frozen := b.trip || e.bit Pg.BUD BUD.STS.AVS_FAIL }
  else e

/-- Warning follows the readings. -/
def Eng.dtsWarn (e : Eng) : Eng :=
  let warn := e.hot (e.get Pg.BUD BUD.THERM.WARN)
  let e1 := e.putB Pg.BUD BUD.STS.WARN warn
  if warn && !e.bit Pg.BUD BUD.STS.WARN then ((e1.ist Pg.BUD BUD.IST.WARN).alert 1).raise Pg.BUD 0 0 8 else e1

/-- A real reading of 120 °C or more trips the engine (R92). -/
def Eng.dtsTrip (e : Eng) : Eng :=
  let real := (List.range 8).any fun k => !e.bud.dtsFail.contains k && decide (120 ≤ e.getI Pg.BUD (BUD.DTS.TEMP k))
  if real && !e.bud.trip then e.thermTrip else e

/-- One 10 µs sample of the sensors; what it raises is recorded in order of severity (R391). -/
def Eng.dtsSample (e : Eng) (temps : List (Option Int)) : Eng :=
  if !e.fused then e
  else
    let e1 := units8.foldl (fun a d => if a.populated d then a.dtsDram d else a) (e.dtsStore temps).dtsMax
    (e1.dtsTrip.dtsEmerg).dtsWarn

/-- DTS_FAIL: no reading for 100 µs (R95); the reading counts as EMERG until it recovers. -/
def Eng.dtsFailed (e : Eng) (k : Fin 8) : Eng :=
  if !e.fused ∨ e.bud.dtsFail.contains k.val then e
  else ((e.onBud fun b => { b with dtsFail := b.dtsFail ++ [k.val] }).raise Pg.BUD 8 1 8).dtsEmerg.dtsWarn

/-! ### The commands -/

def execLimitWrite (who : Src) (data : Word) : State → Host.Outcome State Fault Refusal := onEng fun e => e.limitWrite who data
def execAvsUpdate (ckd ckh : Int) : State → Host.Outcome State Fault Refusal := onEng fun e => e.avsUpdate ckd ckh
def execAvsTransactionDone (retries : Fin 5) (current : Option Nat) : State → Host.Outcome State Fault Refusal :=
  onEng fun e => e.avsDone retries current
def execThermShedStep : State → Host.Outcome State Fault Refusal := onEng Eng.shedStep
def execDtsFail (k : Fin 8) : State → Host.Outcome State Fault Refusal := onEng fun e => e.dtsFailed k
def execXchkPeriod : State → Host.Outcome State Fault Refusal := onEng Eng.xchkPeriod

end Sys2Proof.Machine
end

