-- ==== Sys2Proof/Machine/Partition.lean ====
section
/-! DEFINITION. The partition table's commands (R50-R78): grants, taps, regions, weights and caps, partition reset and
suspension, heartbeats, leases and drains. -/
namespace Sys2Proof.Machine

/-! ### Grants (R53, R54) -/

/-- A grantable resource: a page (CNV brings its CAL), a comparator channel, or an event-router destination. -/
inductive GRes where
  | page (p : Nat)
  | wcp (n : Nat)
  | evr (d : Nat)
  deriving DecidableEq, Repr

/-- The resources that the nibbles of a grant register name, lowest first. -/
def grantCells (off : Nat) : List GRes :=
  if off = 0x300 then (List.range 4).map fun i => .page (Pg.CNV i)
  else if off = 0x308 then (List.range 8).map fun i => .page (Pg.FCH i)
  else if off = 0x30C then (List.range 8).map fun i => .page (Pg.TRG i)
  else if off = 0x310 then (List.range 8).map fun i => .page (Pg.ACQ i)
  else if off = 0x314 then (List.range 8).map fun i => .page (Pg.HIS i)
  else if off = 0x318 then (List.range 8).map .wcp
  else if off = 0x31C then (List.range 4).map fun i => .page (Pg.SFE i)
  else if off = 0x324 then [.page Pg.MLN0, .page Pg.MLN1]
  else if 0x340 ≤ off ∧ off ≤ 0x35C ∧ off % 4 = 0 then (List.range 8).map fun i => .evr (2 * (off - 0x340) + i)
  else []

def Eng.resOwner (e : Eng) : GRes → Nat
  | .page p => e.owner p
  | .wcp n => e.wcpOwner n
  | .evr d => e.evrOwner d

/-- A revocation of the resource is under way. -/
def Eng.revoking (e : Eng) : GRes → Bool
  | .page p =>
    e.drainsFor (.revoke p) || e.xpt.deferred.contains (1, p) ||
      (match leaseOf p with | some r => e.leaseState r == 3 | none => false)
  | .wcp n => e.drainsFor (.wcp n)
  | .evr d => e.drainsFor (.evr d)

/-- The resource drains: in a revocation, in a reset of its owner, or in a block reset (R54, R72, R74). -/
def Eng.resDraining (e : Eng) (r : GRes) : Bool :=
  e.revoking r ||
  (match r with
   | .page p => e.drainsFor (.blk p) || ((leaseOf p).isNone && e.drains.contains ⟨e.owner p, .reset⟩)
   | _ => e.drains.contains ⟨e.resOwner r, .reset⟩)

/-- The resource is enabled; a converter channel is handed over running and does not count (R54). -/
def Eng.resEnabled (e : Eng) : GRes → Bool
  | .page p => kindOf p != .cnv && e.en p
  | .wcp n => e.bit Pg.WCP (WCP.CH_CFG.EN n)
  | .evr _ => false

/-- RANGE of a changed nibble `v` (R54). -/
def Eng.nibbleRange (e : Eng) (r : GRes) (v : Nat) : Bool :=
  v != e.resOwner r && (decide (8 < v) || (decide (v < 8) && !e.grantable v))

/-- BUSY of a changed nibble. A revocation of a resource that already drains is refused as R54 says, and has no effect as R74 says
(DESIGN CHOICE, log entry 64). -/
def Eng.nibbleBusy (e : Eng) (r : GRes) (v : Nat) : Bool :=
  v != e.resOwner r && ((decide (e.resOwner r < 8) && decide (v < 8)) || e.resDraining r || (decide (v < 8) && e.resEnabled r))

/-- One accepted change of owner: a revocation (R56), or a grant of a resource in its start-up state. -/
def Eng.regrant (e : Eng) (r : GRes) (v : Nat) : Eng :=
  if v = e.resOwner r then e
  else
    match r with
    | .page p => if v = 8 then e.revoke p else if kindOf p = .cnv then e.granted p v else (e.pageStart false p).granted p v
    | .wcp n =>
      if v = 8 then (((e.grpCancelPart Pg.WCP (e.wcpOwner n)).wcpDisable n).startDrain (e.wcpOwner n) (.wcp n)).msgClass (e.wcpOwner n) 0
      else ((e.wcpStart n).put Pg.PRT (PRT.GRANT_WCP.OWNER n) v).msgClass v 0
    | .evr d =>
      if v = 8 then ((e.grpCancelPart Pg.EVR (e.evrOwner d)).startDrain (e.evrOwner d) (.evr d)).msgClass (e.evrOwner d) 0
      else ((e.evrStart d).put Pg.PRT (PRT.GRANT_EVR.OWNER d) v).msgClass v 0

/-- The access reaches PRT: the supervisor's host alone writes the table (R66, R67, and the PRT page). -/
def Eng.prtOrder (e : Eng) (who : Src) (off : Nat) (range busy : Bool) (act : Eng → Eng) : Eng :=
  match e.denied who Pg.PRT off false with
  | some e' => e'
  | none => if who = .host then e.order who Pg.PRT off range busy act else e.notOwner who off

/-- A write of a grant register, checked as a whole. -/
def Eng.grantWrite (e : Eng) (who : Src) (off : Nat) (data : Word) : Eng :=
  let cells := (grantCells off).zipIdx.map fun x => (x.1, data.toNat / 16 ^ x.2 % 16)
  e.prtOrder who off (cells.any fun x => e.nibbleRange x.1 x.2) (cells.any fun x => e.nibbleBusy x.1 x.2) fun e0 =>
    cells.foldl (fun a x => a.regrant x.1 x.2) e0

/-! ### Taps (R58, R59) -/

/-- One channel's byte of TAP_CNV: new taps at once; a cleared one after its consumers are disabled and drained. A tap that is
set again while its clearing drains still falls at the drain's end (R58; DESIGN CHOICE, log entry 65). -/
def Eng.tapByte (e : Eng) (c new : Nat) : Eng :=
  (List.range 8).foldl (fun a n =>
    let was := a.taps c n
    let now := new.testBit n
    if now && !was then (a.put Pg.PRT (PRT.TAP_CNV.TAP c) (a.get Pg.PRT (PRT.TAP_CNV.TAP c) ||| 2 ^ n)).msgClass n 0
    else if was && !now && !a.drains.contains ⟨n, .tap c⟩ then ((a.dropConsumers n c).startDrain n (.tap c)).msgClass n 0
    else a) e

def Eng.tapWrite (e : Eng) (who : Src) (data : Word) : Eng :=
  let byte (c : Nat) : Nat := data.toNat / 256 ^ c % 256
  let bad (c n : Nat) : Bool :=
    (byte c).testBit n && !e.taps c n && (!e.grantable n || e.owner (Pg.CNV c) == n)
  e.prtOrder who 0x304 ((List.range 4).any fun c => (List.range 8).any fun n => bad c n) false fun e0 =>
    (List.range 4).foldl (fun a c => a.tapByte c (byte c)) e0

/-! ### Region, weights, caps (R57, R62, R63) -/

/-- P4 to P7 do not exist on the LY-6440 (R78). -/
def Eng.noPart (e : Eng) (n : Nat) : Bool := decide (e.nParts ≤ n)

/-- The capacity in granules that a region write is checked against (R57, R241). -/
def Eng.capacity (e : Eng) : Nat :=
  if e.bit Pg.DMX DMX.STS.SWITCH_PENDING then e.get Pg.DMX DMX.CAP.GRAN_NEXT else e.get Pg.DMX DMX.CAP.GRAN

/-- A write of Pn_REGION (R57): no granule of another partition's region, inside the capacity, no unit of the partition enabled.
The region of a partition that is not created is stored like any other (DESIGN CHOICE, log entry 66). -/
def Eng.regionWrite (e : Eng) (who : Src) (n : Fin 8) (data : Word) : Eng :=
  let b := data.toNat % 256
  let k := data.toNat / 2 ^ 16 % 512
  let clash := (List.range 8).any fun m => m != n.val && e.get Pg.PRT (PRT.P_REGION.COUNT m) != 0 &&
    overlaps b k (e.get Pg.PRT (PRT.P_REGION.BASE m)) (e.get Pg.PRT (PRT.P_REGION.COUNT m))
  let used := (units8.any fun (u : Fin 8) => (e.owner (Pg.ACQ u) == n.val && e.en (Pg.ACQ u)) || (e.owner (Pg.HIS u) == n.val && e.en (Pg.HIS u))) ||
    (List.range 16).any fun i => e.owner (Pg.DMQ i) == n.val && e.en (Pg.DMQ i)
  e.prtOrder who (0x10C + 0x40 * n) (e.noPart n || decide (256 < k) || (k != 0 && (decide (e.capacity < b + k) || clash))) used fun e0 =>
    (e0.put Pg.PRT (PRT.P_REGION.BASE n) b).put Pg.PRT (PRT.P_REGION.COUNT n) k

/-- Pn_QOS or Pn_DMAW, by its offset. -/
def Eng.qosWrite (e : Eng) (who : Src) (off : Nat) (data : Word) : Eng :=
  let n := (off - 0x100) / 0x40
  let d := data.toNat
  if off % 0x40 = 0x10 then
    let bad := (List.range 4).any (fun c => d / 16 ^ c % 16 == 0) || d / 2 ^ 16 % 128 == 0 || decide (64 < d / 2 ^ 16 % 128)
    e.prtOrder who off (e.noPart n || bad) false fun e0 =>
      ((List.range 4).foldl (fun a c => a.put Pg.PRT (PRT.P_QOS.W n c) (d / 16 ^ c % 16)) e0).put Pg.PRT (PRT.P_QOS.MAX_SHARE n) (d / 2 ^ 16 % 128)
  else if off % 0x40 = 0x14 then
    e.prtOrder who off (e.noPart n || d % 16 == 0) false fun e0 => e0.put Pg.PRT (PRT.P_DMAW.WEIGHT n) (d % 16)
  else e

def Eng.tixcapWrite (e : Eng) (who : Src) (n : Fin 8) (data : Word) : Eng :=
  e.prtOrder who (0x118 + 0x40 * n) (e.noPart n) false fun e0 =>
    (e0.put Pg.PRT (PRT.P_TIXCAP.CORE n) (data.toNat % 1024)).put Pg.PRT (PRT.P_TIXCAP.ADC n) (data.toNat / 2 ^ 16 % 1024)

/-! ### Reset and suspension (R64, R65) -/

def Eng.prtReset (e : Eng) (who : Src) (n : Fin 8) : Eng :=
  e.prtOrder who (0x108 + 0x40 * n) (e.noPart n) false fun e0 => (e0.partReset n).runDeferred

/-- An acquisition of a suspended partition completes its segment, or its stream block, and then ends SUSPENDED; one with
neither open ends at once. -/
def Eng.suspendAcq (e : Eng) (u : Fin 8) : Eng :=
  let a := e.acq[u]
  if !e.armed u ∨ a.ending ≠ 0 then e
  else if a.seg.isSome || a.cur.isSome then e.onAcq u fun a => { a with ending := 6 }
  else e.endAcq u 6

def Eng.suspend (e : Eng) (n : Fin 8) : Eng :=
  if e.partState n = 1 then
    let e1 := e.put Pg.PRT (PRT.P_STATE.STATE n) 2
    (units8.foldl (fun a (u : Fin 8) => if a.owner (Pg.ACQ u) = n.val then a.suspendAcq u else a) e1).msgClass n 0
  else e

def Eng.resume (e : Eng) (n : Fin 8) : Eng :=
  if e.partState n = 2 then (e.put Pg.PRT (PRT.P_STATE.STATE n) 1).msgClass n 0 else e

def Eng.prtSuspend (e : Eng) (who : Src) (n : Fin 8) : Eng :=
  e.prtOrder who (0x108 + 0x40 * n) (e.noPart n) false fun e0 => (e0.suspend n).runDeferred

def Eng.prtResume (e : Eng) (who : Src) (n : Fin 8) : Eng :=
  e.prtOrder who (0x108 + 0x40 * n) (e.noPart n) false fun e0 => e0.resume n

/-! ### Leases (R70) -/

/-- A write of HB in a partition's own view: its LAPSED leases are ACTIVE again. -/
def Eng.heartbeat (e : Eng) (who : Src) : Eng :=
  match who with
  | .part n =>
    e.order who Pg.PRT 0x44 false false fun e0 =>
      (List.range 7).foldl (fun a r =>
        if a.owner (leasePage r) = n.val ∧ a.leaseState r = 2 then a.put Pg.PRT (PRT.LEASE_STATE.STATE r) 1 else a) e0
  | _ => (e.prtOrder who 0x44 false false id)

/-! ### Drains (R73) and the table's parity (R76) -/

def Eng.drainDone (e : Eng) (n : Nat) : Eng := if e.drained n then e.endDrains n else e

def Eng.grantBad (e : Eng) : Eng :=
  (List.range 8).foldl (fun a n => a.partFault n) (e.raise Pg.PRT 2 3 8)

/-! ### The commands -/

def execGrantWrite (who : Src) (off : Fin 4096) (data : Word) : State → Host.Outcome State Fault Refusal :=
  onEng fun e => (e.grantWrite who off data).runDeferred
def execTapWrite (who : Src) (data : Word) : State → Host.Outcome State Fault Refusal := onEng fun e => (e.tapWrite who data).runDeferred
def execRegionWrite (who : Src) (n : Fin 8) (data : Word) : State → Host.Outcome State Fault Refusal := onEng fun e => e.regionWrite who n data
def execQosWrite (who : Src) (off : Fin 4096) (data : Word) : State → Host.Outcome State Fault Refusal := onEng fun e => e.qosWrite who off data
def execTixcapWrite (who : Src) (n : Fin 8) (data : Word) : State → Host.Outcome State Fault Refusal := onEng fun e => e.tixcapWrite who n data
def execPrtReset (who : Src) (n : Fin 8) : State → Host.Outcome State Fault Refusal := onEng fun e => e.prtReset who n
def execPartResetDone (n : Fin 8) : State → Host.Outcome State Fault Refusal := onEng fun e => e.partResetDone n
def execPrtSuspend (who : Src) (n : Fin 8) : State → Host.Outcome State Fault Refusal := onEng fun e => e.prtSuspend who n
def execPrtResume (who : Src) (n : Fin 8) : State → Host.Outcome State Fault Refusal := onEng fun e => e.prtResume who n
def execHeartbeat (who : Src) : State → Host.Outcome State Fault Refusal := onEng fun e => e.heartbeat who
def execLeaseLapse (n : Fin 8) : State → Host.Outcome State Fault Refusal := onEng fun e => e.lapse n
def execDrainDone (n : Fin 9) : State → Host.Outcome State Fault Refusal := onEng fun e => e.drainDone n
def execDrainTimeout (n : Fin 9) : State → Host.Outcome State Fault Refusal := onEng fun e => e.dropDrain n
def execDrainBudgetExhausted (n : Fin 9) : State → Host.Outcome State Fault Refusal :=
  onEng fun e => if e.budgetSpent n then e.dropDrain n else e
def execGrantInconsistent : State → Host.Outcome State Fault Refusal := onEng fun e => e.grantBad.runDeferred

end Sys2Proof.Machine
end

