-- ==== Sys2Proof/Machine/Ports.lean ====
section
/-! DEFINITION. The host and management ports (R303-R333): BAR accesses, MSI-X, function resets, DMA rings, the link, and
the port's own frame errors and conflict log. -/
namespace Sys2Proof.Machine

/-! ### BAR0, BAR2 (R307-R309) -/

/-- A BAR0 access of another size or alignment: all ones, counted. -/
def Eng.badAccess (e : Eng) : Eng := { e.inc Pg.PCI PCI.BADACC_CNT.COUNT with resp := ⟨0, [0xFFFFFFFF]⟩ }

/-- The DRAM address of a window address, none where it leaves the function's region: a partition's base is a granule of its
region (DEDUCED, log entry 33), the PF's an absolute one. -/
def Eng.winAddr (e : Eng) (o addr len : Nat) : Option Nat :=
  let a := granule * e.get (vw o Pg.PCI) PCI.BAR2_WIN.BASE + addr
  if o < 8 then
    if a + len ≤ granule * e.get Pg.PRT (PRT.P_REGION.COUNT o) then some (e.regionAddr o 0 + a) else none
  else some a

/-- DRAM is closed to BAR2: before INIT_DONE and during a retune, which counts (R23, R308). -/
def Eng.winClosed (e : Eng) : Bool := !e.bit Pg.DMX DMX.STS.INIT_DONE || e.retune

def Eng.winRetune (e : Eng) : Eng := if e.retune then e.inc Pg.CLK CLK.BAR2_RETUNE_CNT.COUNT else e

/-- A read of bytes that returns all ones. -/
def onesAnswer (len : Nat) : Resp := ⟨0, List.replicate len 0xFF⟩

/-- A mark's interrupt bit in the reader's view: a VF gets no message of it, the PF gets it in class 14. -/
def Eng.winIst (e : Eng) (o : Nat) (f : Fld) : Eng :=
  let v := vw o Pg.PCI
  let e1 := e.ist v f
  if o < 8 ∧ e.istPend v = 0 ∧ e1.istPend v ≠ 0 then e1.msgClass 8 14 else e1

/-- Marks that a read leaves in the reader's view: the first degraded address, and an uncorrectable read (R309). -/
def Eng.winMarks (e : Eng) (o a len : Nat) (ue : Bool) : Eng :=
  let v := vw o Pg.PCI
  let bad := (unitsOf a len).find? fun x => decide (x / granule < e.gran) && e.degradedAt x
  let e1 := match bad with
    | none => e
    | some x =>
      let first := max x a
      let e' := if e.bit v PCI.BAR2_MARK_HI.VALID then e
        else (e.put v PCI.BAR2_MARK.ADDR first).put v PCI.BAR2_MARK_HI.VALID 1
      e'.winIst o PCI.IST.BAR2_DEGR
  if ue then e1.winIst o PCI.IST.BAR2_UE else e1

/-- A BAR2 read by a function; the manager has no BAR2 and reads nothing. -/
def Eng.bar2Read (e : Eng) (m : Mem) (who : Src) (addr len : Nat) (ue : Bool) : Eng :=
  if who = .manager then e
  else if e.winClosed then { e.winRetune with resp := onesAnswer len }
  else
    match e.winAddr who.owner addr len with
    | none => { e.inc (vw who.owner Pg.PCI) PCI.BAR2_OOR_CNT.COUNT with resp := onesAnswer len }
    | some a =>
      let e1 := (e.countReads a len).winMarks who.owner a len ue
      { e1 with resp := ⟨0, (e.readBytes m a len).map BitVec.toNat⟩ }

/-- A BAR2 write by a function. -/
def Eng.bar2Write (e : Eng) (m : Mem) (who : Src) (addr : Nat) (bytes : List Byte) : Eng × Mem :=
  if who = .manager then (e, m)
  else if e.winClosed then (e.winRetune, m)
  else
    match e.winAddr who.owner addr bytes.length with
    | none => (e.inc (vw who.owner Pg.PCI) PCI.BAR2_OOR_CNT.COUNT, m)
    | some a => (e.countWrites a bytes.length, e.writeBytes m a bytes)

/-- A write of 0 to BAR2_MARK_HI in the writer's view (R330). -/
def Eng.markClear (e : Eng) (who : Src) : Eng :=
  e.order who Pg.PCI 0x50 false false fun e0 =>
    let v := vw who.code Pg.PCI
    (e0.put v PCI.BAR2_MARK.ADDR 0).put v PCI.BAR2_MARK_HI.VALID 0

/-! ### MSI-X and function resets (R310, R311) -/

/-- Vectors a function has: 64 on the PF, 16 on a VF (R303). -/
def vectors (fn : Nat) : Nat := if fn = 0 then 64 else 16

/-- Messages that wait go out: those of unmasked vectors of functions that exist, while the link is up. -/
def Eng.msiRelease (e : Eng) : Eng :=
  if e.bit Pg.PCI PCI.STS.LINK_UP then
    let go := e.msiPend.filter fun x => e.unmasked.contains x && e.fnPresent x.1
    { e with msiPend := e.msiPend.filter (fun x => !go.contains x), sent := e.sent ++ go.map fun x => Msg.msix x.1 x.2 }
  else e

def Eng.msixUnmask (e : Eng) (fn vec : Nat) : Eng :=
  if vectors fn ≤ vec ∨ e.unmasked.contains (fn, vec) then e
  else ({ e with unmasked := e.unmasked ++ [(fn, vec)] }).msiRelease

/-- PCI Express resets a function's own registers: its vectors are masked and nothing of it is pending (R311). -/
def Eng.fnReset (e : Eng) (fn : Nat) : Eng :=
  { e with unmasked := e.unmasked.filter (fun x => x.1 != fn), msiPend := e.msiPend.filter fun x => x.1 != fn }

/-- FLR of the VF that serves partition `n`; a soft reset or PERST# under way absorbs it (R311, R397). -/
def Eng.vfFlr (e : Eng) (n : Nat) : Eng :=
  let e1 := e.fnReset (n + 1)
  if e1.rst.soft.isSome ∨ e1.rst.perst.isSome then e1 else (e1.partReset n).runDeferred

/-! ### DMA rings (R312-R318) -/

def Eng.onDmq (e : Eng) (r : Fin 16) (f : DmqRt → DmqRt) : Eng := { e with dmq := upd e.dmq r f }

/-- A drain of the ring's owner runs: it starts no descriptor and returns the others (R64, R72). -/
def Eng.ringDrains (e : Eng) (r : Fin 16) : Bool := e.drains.any fun d => d.part == e.owner (Pg.DMQ r)

def Eng.ringEmpty (e : Eng) (r : Fin 16) : Bool := e.get (Pg.DMQ r) DMQ.HEAD.IDX == e.get (Pg.DMQ r) DMQ.TAIL.IDX

/-- The ring is enabled, not halted, and holds an entry with none in progress. -/
def Eng.ringReady (e : Eng) (r : Fin 16) : Bool :=
  e.en (Pg.DMQ r) && !e.dmq[r].halt && !e.ringEmpty r && e.dmq[r].cur.isNone

/-- A descriptor may start: not during a retune, a stop of the DMA page, a drain, a pending group, or without a link. -/
def Eng.fetchable (e : Eng) (r : Fin 16) : Bool :=
  e.ringReady r && !e.retune && !e.dmaStop && e.bit Pg.PCI PCI.STS.LINK_UP && !e.ringDrains r &&
    (match e.owner (Pg.DMQ r) with | 8 => true | n => e.partState n != 3) && (e.grpOf (Pg.DMQ r)).isNone

/-- Bytes that a block header of zeros takes. -/
def noHdr : List Byte := List.replicate 32 0

/-- The descriptor in progress ends with a completion still to be sent. -/
def Eng.endDesc (e : Eng) (r : Fin 16) (c : Cpl) : Eng := e.onDmq r fun q => { q with cur := some c }

def Eng.endRange (e : Eng) (r : Fin 16) (d : Desc) : Eng := e.endDesc r ⟨2, 0, 0, noHdr, d.irq⟩

/-- The DRAM address of a READ or WRITE, none where it leaves the owner's region or DRAM. -/
def Eng.descAddr (e : Eng) (r : Fin 16) (d : Desc) : Option Nat :=
  let o := e.owner (Pg.DMQ r)
  if e.inRegion o (d.daddr / 256) (ceilDiv (d.daddr % 256 + d.len) 256) ∧ e.regionAddr o 0 + d.daddr + d.len ≤ granule * e.gran then
    some (e.regionAddr o 0 + d.daddr)
  else none

/-! The arbiter (R317; log entry 81) -/

/-- Bytes that a descriptor moves; none while its bound unit has no block that waits. -/
def Eng.descSize (e : Eng) (r : Fin 16) (d : Desc) : Option Nat :=
  match e.ringUnit r with
  | some u =>
    if d.op ≠ 0 then some 0
    else match e.acq[u].blks with
      | [] => none
      | b :: _ => some (if d.len < 2 ^ e.get (Pg.ACQ u) ACQ.STR_CFG.BLK then 0 else ceilDiv (b.data.length * e.acqBits u) 8)
  | none => some (if d.op = 0 ∨ (e.descAddr r d).isNone then 0 else d.len)

/-- A function's next descriptor in a direction: its ready rings take turns. Answers the ring and the bytes. -/
def Eng.dmaNext (e : Eng) (fromHost : Bool) (heads : List (Fin 16 × Desc)) (f : Nat) : Option (Fin 16 × Nat) :=
  let l := Store.get e.dma.turn f 0
  ((List.range 16).map fun i => (l + i) % 16).findSome? fun r =>
    heads.findSome? fun x =>
      if x.1.val = r ∧ e.owner (Pg.DMQ r) = f ∧ x.2.op ≤ 2 ∧ (x.2.op == 2) = fromHost ∧ e.fetchable x.1 then
        (e.descSize x.1 x.2).map fun n => (x.1, n)
      else none

/-- A function's quantum: 4 KiB by its weight. -/
def Eng.quantum (e : Eng) (f : Nat) : Nat := 4096 * if f < 8 then e.get Pg.PRT (PRT.P_DMAW.WEIGHT f) else 15

/-- How many quanta a function of deficit `d` takes before `n` bytes go: none where it is served on (`again`) and its deficit lasts. -/
def quantaFor (again : Bool) (d n q : Nat) : Nat := if again && decide (n ≤ d) then 0 else max 1 (ceilDiv (n - d) (max q 1))

/-- The ring that deficit round robin serves next in a direction, and the arbiter after it. A function's place in the order is the
number of its quanta, then its distance from the pointer. -/
def Eng.dmaPick (e : Eng) (fromHost : Bool) (heads : List (Fin 16 × Desc)) : Option (Fin 16 × DmaRt) :=
  let x := e.dma
  let p := if fromHost then x.ptrF else x.ptrH
  let key (f : Nat) : Nat := 16 * fromHost.toNat + f
  let def' (f : Nat) : Nat := Store.get x.deficit (key f) 0
  let dist (f : Nat) : Nat := (f + 8 - p) % 9
  let place (f n : Nat) : Nat := 9 * quantaFor (f == p) (def' f) n (e.quantum f) + dist f
  let cands := (List.range 9).filterMap fun f => (e.dmaNext fromHost heads f).map fun c => (place f c.2, f, c.1, c.2)
  match cands.find? (fun c => cands.all fun c' => decide (c.1 ≤ c'.1)) with
  | none => none
  | some (w, f, r, n) =>
    let got (g : Nat) : Nat := (w + 8 - dist g) / 9 - 1
    let d := (List.range 9).foldl (fun s g =>
      let v := if g = f then def' g + e.quantum g * (w / 9) - n
        else if cands.any (fun c => c.2.1 == g) then def' g + e.quantum g * got g else 0
      Store.put s (key g) v 0) x.deficit
    some (r, { x with deficit := d, turn := Store.put x.turn f ((r.val + 1) % 16) 0,
                      ptrF := if fromHost then f else x.ptrF, ptrH := if fromHost then x.ptrH else f })

/-- The descriptor goes, if it is the one that the arbiter serves next among the heads it has. -/
def Eng.dmaTurn (e : Eng) (r : Fin 16) (d : Desc) (heads : List (Fin 16 × Desc)) : Option Eng :=
  match e.dmaPick (d.op == 2) ((r, d) :: heads.filter fun x => x.1 != r) with
  | some (q, x) => if q = r then some { e with dma := x } else none
  | none => none

/-- Bytes that have moved in a direction, for RATE (R331). -/
def Eng.dmaMoved (e : Eng) (fromHost : Bool) (n : Nat) : Eng :=
  { e with dma := { e.dma with moved := ((e.tb, n, fromHost) :: e.dma.moved).filter fun x => decide (e.tb < x.1 + unitsPerMs) } }

/-- Throughput of a direction over the last millisecond, 100 MB/s units (R331). -/
def Eng.dmaRate (e : Eng) (fromHost : Bool) : Nat :=
  (e.dma.moved.filter fun x => x.2.2 == fromHost && decide (e.tb < x.1 + unitsPerMs)).foldl (fun n x => n + x.2.1) 0 / 100000

/-- STREAM: the oldest block of the bound unit goes to the buffer. -/
def Eng.descStream (e : Eng) (r : Fin 16) (d : Desc) : Eng :=
  match e.ringUnit r with
  | none => e.endRange r d
  | some u =>
    let p := Pg.ACQ u
    match e.acq[u].blks with
    | [] => e
    | b :: rest =>
      if d.len < 2 ^ e.get p ACQ.STR_CFG.BLK then e.endRange r d
      else
        let bs := packed (e.get p ACQ.SRC.FMT) (e.wordsOf b.data)
        let short := decide (b.data.length < e.blkSamples u)
        let e1 := (e.onAcq u fun a => { a with blks := rest }).endDesc r ⟨if short then 4 else 0, 0, bs.length, blkHeader b, d.irq⟩
        let e2 := { e1.dmaMoved false bs.length with freeCtr := e1.freeCtr + b.data.length, resp := ⟨0, bs.map BitVec.toNat⟩ }
        ((((e2.meterM4 (e.owner p) bs.length).ist p ACQ.IST.BLOCK).showFill u).strSuspend u).runDeferred

/-- READ: DRAM to host. -/
def Eng.descRead (e : Eng) (m : Mem) (r : Fin 16) (d : Desc) (ue : Bool) : Eng :=
  match e.ringUnit r, e.descAddr r d with
  | none, some a =>
    let degr := (unitsOf a d.len).any fun x => e.degradedAt x
    let e1 := ((e.countReads a d.len).dmaMoved false d.len).endDesc r ⟨0, degr.toNat + 2 * ue.toNat, d.len, noHdr, d.irq⟩
    { e1 with resp := ⟨0, (e.readBytes m a d.len).map BitVec.toNat⟩ }
  | _, _ => e.endRange r d

/-- WRITE: host to DRAM. -/
def Eng.descWrite (e : Eng) (m : Mem) (r : Fin 16) (d : Desc) (bytes : List Byte) : Eng × Mem :=
  match e.ringUnit r, e.descAddr r d with
  | none, some a => ((e.dmaMoved true d.len).endDesc r ⟨0, 0, d.len, noHdr, d.irq⟩, e.writeBytes m a (bytes.take d.len))
  | _, _ => (e.endRange r d, m)

/-- The completion interrupt of a ring: due, and the count starts again (R316). -/
def Eng.ringIrq (e : Eng) (r : Fin 16) : Eng := (e.onDmq r fun q => { q with irqN := 0 }).ist (Pg.DMQ r) DMQ.IST.DONE

/-- The completion goes out, HEAD advances, and the message follows if it is due (R316). -/
def Eng.complete (e : Eng) (r : Fin 16) (c : Cpl) : Eng :=
  let p := Pg.DMQ r
  let b := e.dmq[r].bytes + c.done
  let e1 : Eng := { e.onDmq r fun q => { q with cur := none, bytes := b % 1024 } with
              sent := e.sent ++ [Msg.comp r c.status c.cflags c.done c.hdr] }
  let e2 := ((e1.put p DMQ.HEAD.IDX ((e1.get p DMQ.HEAD.IDX + 1) % 2 ^ e1.get p DMQ.SIZE.LOG2)).inc p DMQ.DESC_CNT.COUNT).add p
    DMQ.BYTES_CNT.KIB (b / 1024)
  let e3 := if c.status = 1 then (e2.inc p DMQ.ABORT_CNT.COUNT).ist p DMQ.IST.ABORTED
    else if c.status = 2 then e2.inc p DMQ.RANGE_CNT.COUNT else e2
  if c.irq then
    let e4 := e3.onDmq r fun q => { q with irqN := q.irqN + 1 }
    if e4.get p DMQ.COAL.N ≤ e4.dmq[r].irqN then e4.ringIrq r else e4
  else e3

/-- DESC_COMPLETE: the descriptor that is done; else one that a drain returns, or one whose OP names no operation. -/
def Eng.descComplete (e : Eng) (r : Fin 16) (d : Desc) : Eng :=
  match e.dmq[r].cur with
  | some c => e.complete r c
  | none =>
    if e.ringReady r && e.ringDrains r then e.complete r ⟨1, 0, 0, noHdr, d.irq⟩
    else if e.fetchable r && decide (3 ≤ d.op) then e.complete r ⟨2, 0, 0, noHdr, d.irq⟩
    else e

/-- COAL.US elapsed since the first descriptor that no message has reported. -/
def Eng.coalTimeout (e : Eng) (r : Fin 16) : Eng :=
  if e.dmq[r].irqN ≠ 0 ∧ e.get (Pg.DMQ r) DMQ.COAL.US ≠ 0 then e.ringIrq r else e

/-- The ring halts until EN falls and rises (R318). -/
def Eng.haltRing (e : Eng) (r : Fin 16) : Eng :=
  let p := Pg.DMQ r
  let e1 := ((e.onDmq r fun q => { q with halt := true }).put p DMQ.STS.HALTED 1).put p DMQ.STS.RUN 0
  (e1.put Pg.DMA DMA.STS.HALTED (e1.get Pg.DMA DMA.STS.HALTED ||| 2 ^ r.val)).ist p DMQ.IST.HALT

/-- The descriptor in progress ends HOSTERR. -/
def Eng.hostErr (e : Eng) (r : Fin 16) : Eng :=
  let irq := match e.dmq[r].cur with | some c => c.irq | none => false
  (e.complete r ⟨3, 0, 0, noHdr, irq⟩).inc Pg.DMA DMA.HOSTERR_CNT.COUNT

/-- DMA_HOST: a host read of the ring failed; `tmo` says by completion timeout. -/
def Eng.dmaHost (e : Eng) (r : Fin 16) (tmo : Bool) : Eng :=
  if e.fetchable r ∨ e.dmq[r].cur.isSome then
    let e1 := ((e.hostErr r).haltRing r).ist Pg.DMA DMA.IST.HOSTERR
    (if tmo then e1.inc Pg.DMA DMA.CPL_TMO_CNT.COUNT else e1).raise (Pg.DMQ r) 2 1 (e.owner (Pg.DMQ r))
  else e

/-- A write of TAIL (R312): refused RANGE outside the ring or past HEAD by its size. -/
def Eng.tailWrite (e : Eng) (who : Src) (r : Fin 16) (data : Word) : Eng :=
  let p := Pg.DMQ r
  let n := 2 ^ e.get p DMQ.SIZE.LOG2
  let v := data.toNat % 65536
  let used := (e.get p DMQ.TAIL.IDX + n - e.get p DMQ.HEAD.IDX) % n
  let more := (v + n - e.get p DMQ.TAIL.IDX) % n
  e.order who p 0x4C (decide (n ≤ v) || decide (n ≤ used + more)) false fun e0 => e0.put p DMQ.TAIL.IDX v

def rings : List (Fin 16) := [0, 1, 2, 3, 4, 5, 6, 7, 8, 9, 10, 11, 12, 13, 14, 15]

/-! ### The link (R305, R328, R330) -/

/-- A PCI interrupt bit that every view shows. -/
def Eng.pciIst (e : Eng) (f : Fld) : Eng := (List.range 10).foldl (fun a v => a.ist (vw v Pg.PCI) f) e

/-- PCI_LINK: the link leaves L0 other than into L1. -/
def Eng.linkDown (e : Eng) : Eng :=
  if !e.bit Pg.PCI PCI.STS.LINK_UP then e
  else
    let e1 := (e.put Pg.PCI PCI.STS.LINK_UP 0).pciIst PCI.IST.LINK_DOWN
    let e2 := rings.foldl (fun a r =>
      let b := if a.dmq[r].cur.isSome then (a.hostErr r).ist Pg.DMA DMA.IST.HOSTERR else a
      if b.en (Pg.DMQ r) then b.haltRing r else b) e1
    e2.raise Pg.PCI 0 1 8

/-- The link reaches L0 at a speed and width, after RS lock (R305). -/
def Eng.linkUp (e : Eng) (speed width : Nat) : Eng :=
  if e.bit Pg.PCI PCI.STS.LINK_UP ∨ e.bit Pg.SPI SPI.STS.PRELOCK ∨ e.get Pg.PCI PCI.LINK_CAP.MAX_SPEED < speed then e
  else
    (((e.put Pg.PCI PCI.STS.LINK_UP 1).put Pg.PCI PCI.STS.SPEED speed).put Pg.PCI PCI.STS.WIDTH width).msiRelease

/-- LINK_CAP.RETRAIN: the link retrains, which takes it out of L0 by order and is no fault (log entry 34). -/
def Eng.linkRetrain (e : Eng) (who : Src) : Eng :=
  match e.denied who Pg.PCI 0x400 false with
  | some e' => e'
  | none =>
    if !e.bit Pg.PCI HDR.CTL.XU then e.refuse who Pg.PCI 0x400 .locked
    else e.order who Pg.PCI 0x400 false false fun e0 => e0.put Pg.PCI PCI.STS.LINK_UP 0

/-- The host writes the SR-IOV capability: NumVFs, VF Enable and ARI Capable Hierarchy (R305). -/
def Eng.numVfs (e : Eng) (n : Nat) (en ari : Bool) : Eng :=
  if e.bit Pg.SPI SPI.STS.PRELOCK then e
  else
    let cap := if e.dev.ly6440 then 4 else if ari then 8 else 7
    (((e.put Pg.PCI PCI.VFS.NUMVF (min n cap)).putB Pg.PCI PCI.VFS.VF_EN en).putB Pg.PCI PCI.VFS.ARI ari).msiRelease

/-! ### The management port (R319-R321, R327, R328) -/

/-- The STATUS byte of a frame (R321), with its own error bits. -/
def Eng.spiStatus (e : Eng) (code : Nat) (crc frame : Bool) : Nat :=
  code % 16 + 16 * crc.toNat + 32 * e.alerting.toNat + 64 * e.ready.toNat + 128 * frame.toNat

def Eng.frameAbandon (e : Eng) : Eng := e.inc Pg.SPI SPI.FRAME_ERR_CNT.COUNT

/-- SPI_CRC: more than 16 request CRC errors within 1 s (R328). -/
def Eng.spiCrc (e : Eng) : Eng :=
  let e1 := { e.inc Pg.SPI SPI.CRC_ERR_CNT.COUNT with spiErr := within e.tb unitsPerSec 17 e.spiErr }
  if 16 < e1.spiErr.length then e1.raise Pg.SPI 3 0 8 else e1

/-- A frame that applies nothing: a request CRC error, or an unknown opcode; STATUS says which. -/
def Eng.badFrame (e : Eng) (crc : Bool) : Eng :=
  let e1 := if crc then e.spiCrc else e.inc Pg.SPI SPI.FRAME_ERR_CNT.COUNT
  { e1 with resp := ⟨0, [e1.spiStatus 0 crc !crc, 0xFF, 0xFF, 0xFF, 0xFF]⟩ }

/-- CLOG_CLR: every VALID bit and the pointer. -/
def Eng.clogClr (e : Eng) (who : Src) : Eng :=
  e.order who Pg.SPI 0x4C false false fun e0 =>
    ((List.range 16).foldl (fun a i => a.put Pg.SPI (SPI.CLOG.INFO i) (a.get Pg.SPI (SPI.CLOG.INFO i) % 2 ^ 31)) e0).put Pg.SPI
      SPI.CLOG_PTR.NEXT 0

/-! ### The commands -/

def execBar0BadAccess (_who : Src) : State → Host.Outcome State Fault Refusal := onEng Eng.badAccess
def execBar2Read (who : Src) (addr len : Nat) (ue : Bool) : State → Host.Outcome State Fault Refusal :=
  onBoth fun e m => (e.bar2Read m who addr len ue, m)
def execBar2Write (who : Src) (addr : Nat) (bytes : List Byte) : State → Host.Outcome State Fault Refusal :=
  onBoth fun e m => e.bar2Write m who addr bytes
def execBar2MarkClear (who : Src) : State → Host.Outcome State Fault Refusal := onEng fun e => e.markClear who
def execMsixUnmask (fn : Fin 9) (vec : Nat) : State → Host.Outcome State Fault Refusal := onEng fun e => e.msixUnmask fn vec
def execVfFlr (n : Fin 8) : State → Host.Outcome State Fault Refusal := onEng fun e => e.vfFlr n
def execDmqTailWrite (who : Src) (r : Fin 16) (data : Word) : State → Host.Outcome State Fault Refusal :=
  onEng fun e => e.tailWrite who r data
def execDescStream (r : Fin 16) (d : Fetched) : State → Host.Outcome State Fault Refusal :=
  onEng fun e => match e.dmaTurn r { d.desc with op := 0 } d.heads with
    | some e1 => e1.descStream r d.desc
    | none => e
def execDescRead (r : Fin 16) (d : Fetched) (ue : Bool) : State → Host.Outcome State Fault Refusal :=
  onBoth fun e m => match e.dmaTurn r { d.desc with op := 1 } d.heads with
    | some e1 => (e1.descRead m r d.desc ue, m)
    | none => (e, m)
def execDescWrite (r : Fin 16) (d : Fetched) (bytes : List Byte) : State → Host.Outcome State Fault Refusal :=
  onBoth fun e m => match e.dmaTurn r { d.desc with op := 2 } d.heads with
    | some e1 => e1.descWrite m r d.desc bytes
    | none => (e, m)
def execDescComplete (r : Fin 16) (d : Desc) : State → Host.Outcome State Fault Refusal := onEng fun e => e.descComplete r d
def execDmqCoalTimeout (r : Fin 16) : State → Host.Outcome State Fault Refusal := onEng fun e => e.coalTimeout r
def execDmaHost (r : Fin 16) (tmo : Bool) : State → Host.Outcome State Fault Refusal := onEng fun e => e.dmaHost r tmo
def execPciLink : State → Host.Outcome State Fault Refusal := onEng Eng.linkDown
def execPciAerUe : State → Host.Outcome State Fault Refusal :=
  onEng fun e => (e.inc Pg.PCI PCI.AER_UE_CNT.COUNT).raise Pg.PCI 1 1 8
def execLinkRetrain (who : Src) : State → Host.Outcome State Fault Refusal := onEng fun e => e.linkRetrain who
def execNumvfsWrite (num : Fin 16) (en ari : Bool) : State → Host.Outcome State Fault Refusal := onEng fun e => e.numVfs num en ari
def execPciLinkUp (speed : Fin 8) (width : Fin 16) : State → Host.Outcome State Fault Refusal := onEng fun e => e.linkUp speed width
def execSpiFrameAbandon : State → Host.Outcome State Fault Refusal := onEng Eng.frameAbandon
def execSpiUnknownOpcode (crc : Bool) : State → Host.Outcome State Fault Refusal := onEng fun e => e.badFrame crc
def execClogClr (who : Src) : State → Host.Outcome State Fault Refusal := onEng fun e => e.clogClr who

end Sys2Proof.Machine
end

