-- ==== Sys2Proof/Machine/Sha.lean ====
section
/-! DEFINITION. HMAC-SHA-256 of the Feryx envelope and of usage records (R336, R354), by FIPS 180-4 and RFC 2104, which the
manual names (PRESUMED, log entry 35). -/
namespace Sys2Proof.Machine

/-- Addition modulo 2^32, rotation and shift to the right of a 32-bit number. -/
def add32 (a b : Nat) : Nat := (a + b) % 2 ^ 32
def rot32 (n a : Nat) : Nat := a / 2 ^ n + a % 2 ^ n * 2 ^ (32 - n)

def shaK : List Nat :=
  [0x428a2f98, 0x71374491, 0xb5c0fbcf, 0xe9b5dba5, 0x3956c25b, 0x59f111f1, 0x923f82a4, 0xab1c5ed5] ++
  [0xd807aa98, 0x12835b01, 0x243185be, 0x550c7dc3, 0x72be5d74, 0x80deb1fe, 0x9bdc06a7, 0xc19bf174] ++
  [0xe49b69c1, 0xefbe4786, 0x0fc19dc6, 0x240ca1cc, 0x2de92c6f, 0x4a7484aa, 0x5cb0a9dc, 0x76f988da] ++
  [0x983e5152, 0xa831c66d, 0xb00327c8, 0xbf597fc7, 0xc6e00bf3, 0xd5a79147, 0x06ca6351, 0x14292967] ++
  [0x27b70a85, 0x2e1b2138, 0x4d2c6dfc, 0x53380d13, 0x650a7354, 0x766a0abb, 0x81c2c92e, 0x92722c85] ++
  [0xa2bfe8a1, 0xa81a664b, 0xc24b8b70, 0xc76c51a3, 0xd192e819, 0xd6990624, 0xf40e3585, 0x106aa070] ++
  [0x19a4c116, 0x1e376c08, 0x2748774c, 0x34b0bcb5, 0x391c0cb3, 0x4ed8aa4a, 0x5b9cca4f, 0x682e6ff3] ++
  [0x748f82ee, 0x78a5636f, 0x84c87814, 0x8cc70208, 0x90befffa, 0xa4506ceb, 0xbef9a3f7, 0xc67178f2]

def shaH : List Nat := [0x6a09e667, 0xbb67ae85, 0x3c6ef372, 0xa54ff53a, 0x510e527f, 0x9b05688c, 0x1f83d9ab, 0x5be0cd19]

/-- Four bytes, highest first. -/
def be4 : List Byte → Nat
  | a :: b :: c :: d :: _ => ((a.toNat * 256 + b.toNat) * 256 + c.toNat) * 256 + d.toNat
  | _ => 0

/-- Bytes of a number, highest first. -/
def beBytes (n v : Nat) : List Byte := (leBytes n v).reverse

/-- The message schedule, newest word first, from the words it holds. -/
def schedule : Nat → List Nat → List Nat
  | 0, w => w
  | n + 1, w =>
    let w15 := w.getD 14 0
    let w2 := w.getD 1 0
    let s0 := rot32 7 w15 ^^^ rot32 18 w15 ^^^ w15 / 8
    let s1 := rot32 17 w2 ^^^ rot32 19 w2 ^^^ w2 / 1024
    schedule n (add32 (add32 (w.getD 15 0) s0) (add32 (w.getD 6 0) s1) :: w)

/-- One round on the eight working words. -/
def shaRound (st : List Nat) (kw : Nat × Nat) : List Nat :=
  match st with
  | [a, b, c, d, e, f, g, h] =>
    let t1 := add32 (add32 h (rot32 6 e ^^^ rot32 11 e ^^^ rot32 25 e)) (add32 ((e &&& f) ^^^ ((2 ^ 32 - 1 - e) &&& g)) (add32 kw.1 kw.2))
    let t2 := add32 (rot32 2 a ^^^ rot32 13 a ^^^ rot32 22 a) ((a &&& b) ^^^ (a &&& c) ^^^ (b &&& c))
    [add32 t1 t2, a, b, c, add32 d t1, e, f, g]
  | x => x

/-- One block of 64 bytes. -/
def shaBlock (h : List Nat) (b : List Byte) : List Nat :=
  let w16 := (List.range 16).map fun i => be4 (b.drop (4 * i))
  let w := (schedule 48 w16.reverse).reverse
  let out := (shaK.zip w).foldl shaRound h
  List.zipWith add32 h out

/-- Padding to whole blocks. -/
def shaPad (m : List Byte) : List Byte :=
  let z := (119 - m.length % 64) % 64
  m ++ [(0x80 : Byte)] ++ List.replicate z (0 : Byte) ++ beBytes 8 (8 * m.length)

/-- SHA-256. -/
def sha256 (m : List Byte) : List Byte :=
  let p := shaPad m
  let h := (List.range (p.length / 64)).foldl (fun h i => shaBlock h ((p.drop (64 * i)).take 64)) shaH
  h.flatMap (beBytes 4)

/-- HMAC-SHA-256 with a key of 32 bytes. -/
def hmac (key msg : List Byte) : List Byte :=
  let pad (c : Byte) : List Byte := (key ++ List.replicate (64 - key.length) (0 : Byte)).map fun k => k ^^^ c
  sha256 (pad 0x5C ++ sha256 (pad 0x36 ++ msg))

end Sys2Proof.Machine
end

