-- ==== Sys2Proof/Machine/Time.lean ====
section
/-! DEFINITION. The time base (R345-R350) and the usage meter (R351-R358). -/
namespace Sys2Proof.Machine

/-! ### The calendar (R349) -/

def calFirst : Int := 946684800
def calLast : Int := 13569465599

/-- A leap year. -/
def leap (y : Nat) : Bool := (y % 4 == 0 && y % 100 != 0) || y % 400 == 0

/-- Days of a month. -/
def monthDays (y m : Nat) : Nat :=
  if m = 2 then (if leap y then 29 else 28) else if m = 4 ∨ m = 6 ∨ m = 9 ∨ m = 11 then 30 else 31

/-- Days from 1970-01-01 to a date of the Gregorian calendar; years are counted from March so that a leap day ends one. -/
def dayNumber (y m d : Nat) : Nat :=
  let y' := if m ≤ 2 then y - 1 else y
  let doy := (153 * ((m + 9) % 12) + 2) / 5 + d - 1
  365 * y' + y' / 4 + doy + y' / 400 - y' / 100 - 719468

/-- Year, month and day of a day number. -/
def dateOf (n : Nat) : Nat × Nat × Nat :=
  let z := n + 719468
  let doe := z % 146097
  let yoe := (doe + doe / 36524 - doe / 1460 - doe / 146096) / 365
  let doy := doe + yoe / 100 - (365 * yoe + yoe / 4)
  let mp := (5 * doy + 2) / 153
  let m := if mp < 10 then mp + 3 else mp - 9
  (yoe + z / 146097 * 400 + (if m ≤ 2 then 1 else 0), m, doy + 1 - (153 * mp + 2) / 5)

/-- Weekday of a day number: 0 Monday; 1970-01-01 was a Thursday. -/
def weekday (n : Nat) : Nat := (n + 3) % 7

/-! ### The usage meter (R351-R358) -/

def Eng.onUse (e : Eng) (f : UseRt → UseRt) : Eng := { e with use := f e.use }

/-- The first boundary after a UTC second, by BOUND in force (R352). -/
def Eng.nextBound (e : Eng) (t : Nat) : Nat :=
  let h := 3600 * e.get Pg.USE USE.BOUND.HOUR
  let d := t / 86400
  if e.bit Pg.USE USE.BOUND.MODE then
    let b := 86400 * (d + (e.get Pg.USE USE.BOUND.WDAY + 7 - weekday d) % 7) + h
    if t < b then b else b + 7 * 86400
  else
    let (y, m, _) := dateOf d
    let day := e.get Pg.USE USE.BOUND.DAY
    let b := 86400 * dayNumber y m day + h
    if t < b then b
    else 86400 * (if m = 12 then dayNumber (y + 1) 1 day else dayNumber y (m + 1) day) + h

/-- The open period begins at a UTC second (R353). -/
def Eng.usePeriod (e : Eng) (start last : Nat) : Eng :=
  ((e.put Pg.USE USE.OPEN_START.SEC start).put Pg.USE USE.LAST_B.SEC last).put Pg.USE USE.NEXT_B.SEC (e.nextBound last)

/-- UTC that falls below B_last from `was`, or stands below it with no mark yet, marks the open period (R356). -/
def Eng.useRegress (e : Eng) (was : Int) : Eng :=
  let last := e.get Pg.USE USE.LAST_B.SEC
  if e.bit Pg.USE USE.STS.TIMED ∧ e.utc < last ∧ (!e.bit Pg.USE USE.STS.REGRESS ∨ (last : Int) ≤ was) then
    (e.put Pg.USE USE.STS.REGRESS 1).ist Pg.USE USE.IST.REGRESS
  else e

/-- What follows a change of UTC from `was`: the meter becomes timed at the first valid date, and R356. -/
def Eng.useCheck (e : Eng) (was : Int) : Eng :=
  let e1 := if e.calValid ∧ !e.bit Pg.USE USE.STS.TIMED then
      (e.put Pg.USE USE.STS.TIMED 1).usePeriod e.utc.toNat e.utc.toNat
    else e
  e1.useRegress was

/-- What a record is (R354): KIND's low bits, partition, period number and span. -/
structure UseHead where
  kind : Nat
  part : Nat
  pnum : Nat
  start : Nat
  fin : Nat

/-- The bytes of a record with its amounts: signed with the lowest ACTIVE slot that holds USAGE. -/
def Eng.useBytes (e : Eng) (h : UseHead) (ms : List Nat) : List Byte :=
  let slot := (List.range 4).find? fun s =>
    match e.key.slots[s]? with
    | some k => k.st == 1 && k.mask.testBit 1
    | none => false
  let kind := h.kind + 16 * h.part + (if slot.isNone then 128 else 0)
  let m (i : Nat) : Nat := ms.getD i 0
  let body := leBytes 2 0x5553 ++ leBytes 1 kind ++ leBytes 1 (slot.getD 0 + 16) ++ leBytes 2 h.pnum ++ leBytes 6 h.start ++
    leBytes 6 h.fin ++ leBytes 8 (e.get Pg.KEY KEY.NONCE.VAL) ++ leBytes 4 (m 0) ++ leBytes 4 (m 1) ++ leBytes 6 (m 2) ++
    leBytes 4 (m 3) ++ leBytes 4 (m 4)
  match slot with
  | some s =>
    let key := match e.key.slots[s]? with | some k => k.key | none => []
    body ++ (hmac key (leBytes 8 (e.get Pg.KEY KEY.DEVID.VAL) ++ body)).take 16
  | none => body ++ List.replicate 16 0

/-- A record enters the store of 512; one that is overwritten unread is lost (R358). -/
def Eng.usePush (e : Eng) (h : UseHead) (ms : List Nat) : Eng :=
  let rs := e.use.recs ++ [⟨h.pnum % 65536, h.part, e.useBytes h ms, false⟩]
  let lost := decide (512 < rs.length) && (match rs.head? with | some r => !r.read | none => false)
  let e1 := (e.onUse fun u => { u with recs := rs.drop (rs.length - 512) }).inc Pg.USE USE.REC_CNT.COUNT
  let old := match e1.use.recs.head? with | some r => r.pnum | none => 0
  let e2 := (e1.put Pg.USE USE.RANGE.OLDEST old).put Pg.USE USE.RANGE.NEWEST h.pnum
  if lost then ((e2.inc Pg.USE USE.LOST_CNT.COUNT).ist Pg.USE USE.IST.LOST).raise Pg.USE 5 1 8 else e2

/-- Whole record units of a partition's open usage (R351). -/
def Eng.useUnits (e : Eng) (n : Nat) : List Nat :=
  [Store.get e.use.m0 n 0 / unitsPerMs, Store.get e.use.m1 n 0 / unitsPerMs, Store.get e.use.m2 n 0 / 2 ^ 20,
   Store.get e.use.m3 n 0 / unitsPerMs, Store.get e.use.m4 n 0 / 2 ^ 20]

/-- The remainder of each partition carries into the next period. -/
def UseRt.carry (u : UseRt) : UseRt :=
  let rem (s : Store) (k : Nat) : Store := (List.range 8).foldl (fun a n => Store.put a n (Store.get a n 0 % k) 0) s
  { u with m0 := rem u.m0 unitsPerMs, m1 := rem u.m1 unitsPerMs, m2 := rem u.m2 (2 ^ 20), m3 := rem u.m3 unitsPerMs
           m4 := rem u.m4 (2 ^ 20), restored := u.restored.filter fun n => n == 15 }

/-- Seal the open period at a boundary: one PERIOD record for each partition of the device (R354). -/
def Eng.useSeal (e : Eng) (b : Nat) : Eng :=
  let pn := e.get Pg.USE USE.OPEN_PNUM.PNUM
  let st := e.get Pg.USE USE.OPEN_START.SEC
  let rg := if e.bit Pg.USE USE.STS.REGRESS then 4 else 0
  let e1 := (List.range e.nParts).foldl (fun a n =>
    a.usePush ⟨rg + (if e.use.restored.contains n then 8 else 0), n, pn, st, b⟩ (e.useUnits n)) e
  let e2 := (((e1.onUse UseRt.carry).put Pg.USE USE.OPEN_PNUM.PNUM (pn + 1)).put Pg.USE USE.STS.REGRESS 0).put Pg.USE USE.STS.SEALED_ANY 1
  ((e2.usePeriod b b).ist Pg.USE USE.IST.SEALED).alert 3

/-- Boundaries after `b` up to the present UTC second, at most `fuel`. -/
def Eng.boundsTo (e : Eng) (now : Nat) : Nat → Nat → List Nat
  | 0, _ => []
  | k + 1, b => if b ≤ now then b :: Eng.boundsTo e now k (e.nextBound b) else []

/-- A record that stands for every partition: EMPTY (1) or GAP (2). -/
def Eng.useSpan (e : Eng) (kind a b m0 : Nat) : Eng :=
  let pn := e.get Pg.USE USE.OPEN_PNUM.PNUM
  (e.usePush ⟨kind, 0, pn, a, b⟩ [m0]).put Pg.USE USE.OPEN_PNUM.PNUM (pn + max m0 1)

/-- The forward jump over boundaries b1 < … < bk (R357). -/
def Eng.useJump (e : Eng) (bs : List Nat) : Eng :=
  let k := bs.length
  let e1 := e.useSeal (bs.getD 0 0)
  let e2 := (List.range (min (k - 1) 36)).foldl (fun a i => a.useSpan 1 (bs.getD i 0) (bs.getD (i + 1) 0) 0) e1
  let e3 := if 37 < k then e2.useSpan 2 (bs.getD 36 0) (bs.getD (k - 1) 0) (k - 37) else e2
  (e3.usePeriod (bs.getD (k - 1) 0) (bs.getD (k - 1) 0)).ist Pg.USE USE.IST.JUMP

/-- USE_BOUNDARY: the boundaries at or below the present UTC second (R353). The calendar's last second is the 22437th weekly
boundary after 1970. -/
def Eng.useBoundary (e : Eng) : Eng :=
  let e1 := e.useCheck e.utc
  if e1.bit Pg.USE USE.STS.TIMED ∧ e1.calValid then
    match e1.boundsTo e1.utc.toNat 22500 (e1.get Pg.USE USE.NEXT_B.SEC) with
    | [] => e1
    | [b] => e1.useSeal b
    | bs => e1.useJump bs
  else e1

/-- BOUND, by the manager alone (R352, R366). -/
def Eng.boundWrite (e : Eng) (who : Src) (data : Word) : Eng :=
  let d := data.toNat
  let day := d / 2 ^ 8 % 32
  let wd := d / 2 ^ 16 % 8
  let h := d / 2 ^ 24 % 32
  match e.denied who Pg.USE 0x40 false with
  | some e' => e'
  | none =>
    if who = .host then e.refuseOwner who Pg.USE 0x40
    else e.order who Pg.USE 0x40 (day == 0 || decide (28 < day) || wd == 7 || decide (23 < h)) false fun e0 =>
      (((e0.put Pg.USE USE.BOUND.MODE (d % 2)).put Pg.USE USE.BOUND.DAY day).put Pg.USE USE.BOUND.WDAY wd).put Pg.USE USE.BOUND.HOUR h

/-! ### Setting and stepping the time (R345, R350) -/

/-- A TB96 value that leaves its range has no stated value: a free one (log entry 36). -/
def Eng.freeTb (e : Eng) : Nat :=
  ofTb96 ((Config.freeWord e.freeCtr).toNat * 2 ^ 64 + (Config.freeWord (e.freeCtr + 1)).toNat * 2 ^ 32 + (Config.freeWord (e.freeCtr + 2)).toNat)

/-- TB96 moves by a signed amount in time units. -/
def Eng.moveTb (e : Eng) (d : Int) : Eng :=
  let t := (e.tb : Int) + d
  if t < 0 ∨ (2 ^ 48 * unitsPerSec : Nat) ≤ t then { e with tb := e.freeTb, freeCtr := e.freeCtr + 3 } else { e with tb := t.toNat }

/-- A step of the time base: IST.STEPPED and STEP_CNT. -/
def Eng.stepTb (e : Eng) (d : Int) : Eng := (((e.moveTb d).ist Pg.TIM TIM.IST.STEPPED).inc Pg.TIM TIM.STEP_CNT.COUNT).useCheck e.utc

/-- A Miolan follower keeps the root's time: while ALIGNED its time is not written, and ALIGN acts as LATCH (R376). -/
def Eng.follower (e : Eng) : Bool := e.en Pg.MLN0 && e.get Pg.MLN0 MLN0.CFG.ROLE == 2
def Eng.timeHeld (e : Eng) : Bool := e.follower && e.bit Pg.MLN0 MLN0.STS.ALIGNED

/-- A write of STEP, signed nanoseconds. -/
def Eng.timStep (e : Eng) (who : Src) (data : Word) : Eng :=
  e.order who Pg.TIM 0x54 (decide (999999999 < data.toInt.natAbs)) e.timeHeld fun e0 => e0.stepTb (data.toInt * unitsPerNs)

/-- The shadows of a time set are acceptable (R350): 0 yes, else the value CAL_STS.ERR takes, 3 where it stays. -/
def Eng.setErr (e : Eng) : Nat :=
  let p := Pg.TIM
  let y := e.sh p TIM.CAL_SET1.YEAR
  let m := e.sh p TIM.CAL_SET1.MONTH
  let d := e.sh p TIM.CAL_SET1.DAY
  if e.sh p TIM.SETCTL.SEL = 1 then
    if y < 2000 ∨ 2399 < y then 2
    else if m = 0 ∨ 12 < m ∨ d = 0 ∨ monthDays y m < d ∨ 23 < e.sh p TIM.CAL_SET0.HOUR ∨ 59 < e.sh p TIM.CAL_SET0.MIN ∨
        59 < e.sh p TIM.CAL_SET0.SEC then 1
    else 0
  else if e.sh p TIM.SETCTL.SEL = 2 ∧ 10 ^ 9 ≤ e.sh p TIM.RAW_SET.TB96 / 2 ^ 16 % 2 ^ 32 then 3
  else 0

/-- A TIM commit applies: settings first, then the time set; it returns SEL to 0 (R346, R350). -/
def Eng.timApply (e : Eng) (o : Nat) : Eng :=
  let p := Pg.TIM
  let sel := e.sh p TIM.SETCTL.SEL
  let e1 := e.applied p o
  let date := 86400 * dayNumber (e1.get p TIM.CAL_SET1.YEAR) (e1.get p TIM.CAL_SET1.MONTH) (e1.get p TIM.CAL_SET1.DAY) +
    3600 * e1.get p TIM.CAL_SET0.HOUR + 60 * e1.get p TIM.CAL_SET0.MIN + e1.get p TIM.CAL_SET0.SEC
  let t : Nat := if sel = 1 then ((date : Int) + e1.getI p TIM.TAI_UTC.SEC).toNat * unitsPerSec else ofTb96 (e1.get p TIM.RAW_SET.TB96)
  let e2 := if sel = 0 then e1
    else
      let a := { e1 with tb := t, shad := Store.put e1.shad (regKey p TIM.SETCTL.SEL) 0 0 }
      let b := ((a.put p TIM.SETCTL.SEL 0).put p TIM.CAL_STS.ERR 0).put p TIM.STS.COARSE 0
      (b.ist p TIM.IST.SET_DONE).inc p TIM.SET_CNT.COUNT
  e2.useCheck e.utc

/-- A set that waits for a PPS edge. -/
def Eng.setWaits (e : Eng) : Bool := e.sh Pg.TIM TIM.SETCTL.SEL != 0 && e.sh Pg.TIM TIM.SETCTL.AT_PPS == 1

/-! ### PPS (R348) -/

/-- Signed offset of a time from the nearest whole second, in time units. -/
def secOffset (t : Nat) : Int :=
  let f := t % unitsPerSec
  if 2 * f ≤ unitsPerSec then f else (f : Int) - unitsPerSec

/-- ALIGN at an edge: a slew over the next second within the window, else a step to the whole second. -/
def Eng.align (e : Eng) (off : Int) : Eng :=
  let p := Pg.TIM
  let e1 := e.put p TIM.STS.COARSE 0
  if off.natAbs ≤ 1000 * e.get p TIM.PPS_CFG.WIN * unitsPerNs then
    let lim : Int := e.get p TIM.PPS_CFG.SLEW * 65536
    { e1 with tim := { e1.tim with slew := clampI (-lim) lim (rdiv (-off * 65536) (1000 * unitsPerNs)), slewLeft := unitsPerSec } }
  else e1.stepTb (-off)

/-- The latch of an edge: PPS_T, IST.PPS, the source PPS. -/
def Eng.ppsLatch (e : Eng) : Eng :=
  let e1 := (((e.put Pg.TIM TIM.PPS_T.TB96 (tb96 e.tb)).inc Pg.TIM TIM.PPS_CNT.COUNT).ist Pg.TIM TIM.IST.PPS).pulse 0xA8
  { e1 with tim := { e1.tim with ppsSeen := true, ppsAge := 0 } }

/-- PPS_ERR and ALIGNED of the latched time, and the alignment of MODE 2. -/
def Eng.ppsMeasure (e : Eng) : Eng :=
  let off := secOffset e.tb
  let ns := rdiv off unitsPerNs
  let e1 := (e.putI Pg.TIM TIM.PPS_ERR.NS ns).putB Pg.TIM TIM.STS.ALIGNED (decide (ns.natAbs ≤ 100))
  if e.get Pg.TIM TIM.PPS_CFG.MODE = 2 && !e.follower then e1.align off else e1

/-- An edge of PPS_IN that PPS_CFG.EDGE selects. A waiting set applies first, at the edge. -/
def Eng.ppsEdge (e : Eng) (rising : Bool) : Eng :=
  if !e.lock || e.bit Pg.TIM TIM.PPS_CFG.EDGE == rising then e
  else
    let e1 := (if e.bit Pg.TIM HDR.STS.PENDING && !e.bit Pg.TIM HDR.STS.GROUPED && e.setWaits then (e.timApply 8).pgen 8 else e).ppsLatch
    if e1.get Pg.TIM TIM.PPS_CFG.MODE = 0 then e1 else e1.ppsMeasure

/-- 2 s without an edge, with MODE ≠ OFF. -/
def Eng.ppsLost (e : Eng) : Eng :=
  if e.get Pg.TIM TIM.PPS_CFG.MODE = 0 ∨ !e.lock then e
  else ((e.put Pg.TIM TIM.STS.ALIGNED 0).ist Pg.TIM TIM.IST.PPS_LOST).raise Pg.TIM 4 0 8

/-- The source TSEC pulses as the seconds advance (R263). -/
def Eng.tsec (e : Eng) : Eng := (e.pulse 0xA9).useCheck e.utc

/-! ### The commands -/

def execTimStep (who : Src) (data : Word) : State → Host.Outcome State Fault Refusal := onEng fun e => e.timStep who data
def execPpsEdge (rising : Bool) : State → Host.Outcome State Fault Refusal := onEng fun e => e.ppsEdge rising
def execPpsLost : State → Host.Outcome State Fault Refusal := onEng Eng.ppsLost
def execUseBoundary : State → Host.Outcome State Fault Refusal := onEng Eng.useBoundary
def execBoundWrite (who : Src) (data : Word) : State → Host.Outcome State Fault Refusal := onEng fun e => e.boundWrite who data
def execTb96SecondsRollover : State → Host.Outcome State Fault Refusal := onEng Eng.tsec

end Sys2Proof.Machine
end

