-- ==== Sys2Proof/Machine/Keys.lean ====
section
/-! DEFINITION. Keyed commands (R334-R344): the envelope, its checks, and what each command does; reading and restoring
usage (R359, R360). -/
namespace Sys2Proof.Machine

def Eng.onKey (e : Eng) (f : KeyRt → KeyRt) : Eng := { e with key := f e.key }

/-- The envelope in the sender's mailbox (R335). -/
def Eng.envelope (e : Eng) (who : Src) : List Byte :=
  (List.range 18).flatMap fun w => leBytes 4 (e.get (vw who.code Pg.KEY) (KEY.ENV.BYTES w))

def envN (env : List Byte) (off n : Nat) : Nat := ofLE ((env.drop off).take n)
def envCmd (env : List Byte) : Nat := envN env 3 1
def envArg (env : List Byte) (i : Nat) : Nat := envN env (0x10 + i) 1

/-- Host and manager submit; the sender code of each (R335). -/
def senderOf (who : Src) : Nat := if who = .manager then 1 else 0

/-- The class that a command needs, as a bit of the mask (R334, R337); none for an unknown code. -/
def cmdClass (c : Nat) : Option Nat :=
  if c = 1 ∨ c = 2 ∨ c = 3 then some 0 else if c = 4 then some 2 else if c = 5 ∨ c = 8 then some 3
  else if c = 6 ∨ c = 7 then some 1 else none

def Eng.keySlot (e : Eng) (s : Nat) : KeySlot := e.key.slots.getD s ⟨[], 0, 3⟩

/-- Nonce and die identity, which every tag covers (R336). -/
def Eng.keyPrefix (e : Eng) : List Byte := leBytes 8 (e.get Pg.KEY KEY.NONCE.VAL) ++ leBytes 8 (e.get Pg.KEY KEY.DEVID.VAL)

/-- The tag is right. -/
def Eng.tagOk (e : Eng) (env : List Byte) : Bool :=
  (hmac (e.keySlot (envN env 5 1)).key (e.keyPrefix ++ env.take 56)).take 16 == (env.drop 56).take 16

/-- The provisioning envelope of R338. -/
def Eng.provisions (e : Eng) (who : Src) (env : List Byte) : Bool :=
  envN env 5 1 == 15 && who == .manager && envCmd env == 5 && (List.range 4).all fun s => (e.keySlot s).st == 0

/-- Steps 1 to 4 of R341: the first failing code. -/
def Eng.envCode (e : Eng) (who : Src) (env : List Byte) : Option Code :=
  let slot := envN env 5 1
  let k := e.keySlot slot
  let classOk := match cmdClass (envCmd env) with | some b => k.mask.testBit b | none => true
  if envN env 0 2 ≠ 0x4658 ∨ envN env 2 1 ≠ 1 ∨ envN env 6 2 ≠ 0 ∨ envN env 4 1 ≠ senderOf who then some .range
  else if !e.provisions who env && (decide (3 < slot) || k.st != 1 || !classOk || !e.tagOk env) then some .auth
  else if envN env 8 8 ≤ e.get (vw who.code Pg.KEY) KEY.CTR.LAST then some .stale
  else none

/-- Bytes of ARG and DATA that a command does not use are zero (R334). -/
def unusedZero (env : List Byte) : Bool :=
  let c := envCmd env
  let na := if c = 5 ∨ c = 6 then 3 else 1
  let nd := if c = 5 then 32 else if c = 7 then (if envArg env 0 = 15 then 8 else 22) else 0
  envN env (0x10 + na) (8 - na) == 0 && envN env (0x18 + nd) (32 - nd) == 0

/-! ### Completion and refusal (R343, R344) -/

def Eng.lockouts (e : Eng) : Nat := e.get Pg.KEY KEY.STS.LOCKOUT

/-- An AUTH refusal: KEY_AUTH; the eighth within 1 s locks the sender out, and KEY_LOCKOUT, of higher severity, is recorded
first (R391). -/
def Eng.authRefused (e : Eng) (s : Nat) : Eng :=
  let e1 := e.inc Pg.KEY KEY.AUTH_CNT.COUNT
  let l := ((if s = 0 then e1.key.authH else e1.key.authM) ++ [e1.tb]).filter fun t => decide (e1.tb < t + unitsPerSec)
  let full := decide (8 ≤ l.length)
  let l' := if full then [] else l
  let e2 := e1.onKey fun k => if s = 0 then { k with authH := l' } else { k with authM := l' }
  let e3 := if full then (e2.put Pg.KEY KEY.STS.LOCKOUT (e2.lockouts ||| 2 ^ s)).raise Pg.KEY 1 1 8 else e2
  e3.raise Pg.KEY 0 0 8

/-- A command completes with a code. It is the commit point of the KEY page (R42). -/
def Eng.keyDone (e : Eng) (who : Src) (cmd ctr : Nat) (c : Code) : Eng :=
  let v := vw who.code Pg.KEY
  let e1 := if c = .ok then { e with resp := ⟨0, []⟩ } else e.refuse who Pg.KEY 0x90 c
  let e2 := ((e1.put v KEY.RESULT.CODE c.num).put v KEY.RESULT.CMD cmd).put v KEY.RESULT.CTR ctr
  let e3 := ((e2.put Pg.KEY KEY.STS.BUSY 0).onKey fun k => { k with run := none }).inc Pg.KEY KEY.CMD_CNT.COUNT
  let e4 := ((if e3.bit Pg.KEY HDR.STS.PENDING then (e3.applied Pg.KEY 8).pgen 8 else e3).ist v KEY.IST.DONE).alert 4
  if c = .auth then e4.authRefused (senderOf who) else if c = .stale then e4.inc Pg.KEY KEY.STALE_CNT.COUNT else e4

/-- A command that completes later runs: STS.BUSY. -/
def Eng.keyRun (e : Eng) (k : KeyCmd) : Eng := (e.put Pg.KEY KEY.STS.BUSY 1).onKey fun r => { r with run := some k }

/-! ### The commands' own checks and effects (step 5) -/

/-- PART_CREATE (R51): ACTIVE, with every setting at its reset value. -/
def Eng.createPart (e : Eng) (n : Nat) : Eng :=
  (e.clearOff Pg.PRT fun o => decide (0x100 + 0x40 * n ≤ o ∧ o < 0x140 + 0x40 * n)).put Pg.PRT (PRT.P_STATE.STATE n) 1

/-- KEY_ROTATE (R338): refused, or programming starts. -/
def Eng.rotate (e : Eng) (who : Src) (env : List Byte) (k : KeyCmd) : Eng ⊕ Code :=
  let tgt := envArg env 0
  let mask := envArg env 1
  let fl := envArg env 2
  let slot := envN env 5 1
  let snd := e.keySlot slot
  let prov := e.provisions who env
  let admin := mask.testBit 3 || (List.range 4).any fun s => (e.keySlot s).st == 1 && (e.keySlot s).mask.testBit 3 && !(fl == 1 && s == slot)
  let bad := decide (3 < tgt) || (e.keySlot tgt).st != 0 || decide (15 < mask) ||
    (if prov then !mask.testBit 3 || fl != 0 else (mask &&& snd.mask) != mask || decide (1 < fl) || !admin)
  if bad then .inr .range
  else
    let d := (env.drop 0x18).take 32
    let pad := hmac snd.key (e.keyPrefix ++ leBytes 8 k.ctr)
    let key := if prov then d else List.zipWith (fun a b => a ^^^ b) d pad
    .inl ((e.onKey fun r => { r with newKey := key }).keyRun { k with arg0 := tgt, arg1 := mask, arg2 := if fl = 1 then slot + 1 else 0 })

/-- XPT_GRANT: an owner code under R54; 8 over a partition revokes (R71). -/
def Eng.xptGrant (e : Eng) (v : Nat) : Eng ⊕ Code :=
  if 8 < v ∨ e.nibbleRange (.page Pg.XPT) v then .inr .range
  else if !e.ready ∨ e.nibbleBusy (.page Pg.XPT) v then .inr .busy
  else .inl (e.regrant (.page Pg.XPT) v)

/-- XPT_OVERRIDE (R75, R281, R282). -/
def Eng.override (e : Eng) (v : Nat) : Eng ⊕ Code :=
  if 1 < v then .inr .range
  else if v = 1 then .inl (e.stopReq XPT.STOPSTS.OVR)
  else .inl ((e.put Pg.XPT XPT.STOPSTS.OVR 0).showStop)

/-- USE_READ (R359): the record goes to RSP0-15 and is marked read. -/
def Eng.useRead (e : Eng) (who : Src) (pnum part : Nat) : Eng ⊕ Code :=
  match e.use.recs.find? fun r => r.pnum == pnum && r.part == part with
  | none => .inr .range
  | some r =>
    let e1 := (List.range 16).foldl (fun a w => a.put (vw who.code Pg.KEY) (KEY.RSP.BYTES w) (ofLE ((r.bytes.drop (4 * w)).take 4))) e
    .inl (e1.onUse fun u => { u with recs := u.recs.map fun x => if x.pnum = pnum ∧ x.part = part then { x with read := true } else x })

/-- USE_RESTORE (R360): a partition's usage, or the open period's number and B_last. -/
def Eng.useRestore (e : Eng) (env : List Byte) : Eng ⊕ Code :=
  let n := envArg env 0
  let v (off w : Nat) : Nat := envN env (0x18 + off) w
  let plus (s : Store) (x : Nat) : Store := Store.put s n (Store.get s n 0 + x) 0
  if n ≠ 15 ∧ e.nParts ≤ n then .inr .range
  else if e.bit Pg.USE USE.STS.SEALED_ANY ∨ e.use.restored.contains n then .inr .busy
  else
    let e1 := e.onUse fun u => { u with restored := u.restored ++ [n] }
    if n = 15 then
      let e2 := ((e1.put Pg.USE USE.OPEN_PNUM.PNUM (v 0 2)).usePeriod (v 2 6) (v 2 6)).put Pg.USE USE.STS.RESTORED 1
      .inl ((e2.put Pg.USE USE.STS.TIMED 1).useCheck e.utc)
    else
      .inl (e1.onUse fun u => { u with
        m0 := plus u.m0 (v 0 4 * unitsPerMs), m1 := plus u.m1 (v 4 4 * unitsPerMs), m2 := plus u.m2 (v 8 6 * 2 ^ 20)
        m3 := plus u.m3 (v 14 4 * unitsPerMs), m4 := plus u.m4 (v 18 4 * 2 ^ 20) })

/-- DEBUG (R339): the DBG page opens to the sender, or closes. -/
def Eng.debugCmd (e : Eng) (s v : Nat) : Eng ⊕ Code :=
  if 1 < v then .inr .range
  else if v = 1 then .inl (((e.onKey fun k => { k with dbg := some s }).put Pg.KEY KEY.STS.DBG_OPEN 1).raise Pg.KEY 3 0 8)
  else .inl ((e.onKey fun k => { k with dbg := none }).put Pg.KEY KEY.STS.DBG_OPEN 0)

/-- Step 5 of R341: the command itself; the flag says that it goes on running. -/
def Eng.runCmd (e : Eng) (who : Src) (env : List Byte) : (Eng × Bool) ⊕ Code :=
  let c := envCmd env
  let a := envArg env 0
  let k : KeyCmd := ⟨senderOf who, c, envN env 8 8, a, 0, 0⟩
  let now (x : Eng ⊕ Code) : (Eng × Bool) ⊕ Code := match x with | .inl e' => .inl (e', false) | .inr r => .inr r
  let later (x : Eng ⊕ Code) : (Eng × Bool) ⊕ Code := match x with | .inl e' => .inl (e', true) | .inr r => .inr r
  if (cmdClass c).isNone ∨ !unusedZero env then .inr .range
  else if c = 1 then
    if e.nParts ≤ a ∨ e.created a then .inr .range else if !e.ready then .inr .busy else now (.inl (e.createPart a))
  else if c = 2 then
    if e.nParts ≤ a ∨ !e.created a then .inr .range else if !e.ready then .inr .busy else later (.inl ((e.keyRun k).revokeAll a))
  else if c = 3 then now (e.xptGrant a)
  else if c = 4 then now (e.override a)
  else if c = 5 then later (e.rotate who env k)
  else if c = 6 then now (e.useRead who (envN env 0x10 2) (envArg env 2))
  else if c = 7 then now (e.useRestore env)
  else now (e.debugCmd (senderOf who) a)

/-- A write of DOORBELL: the writer's mailbox is submitted and checked (R340, R341). -/
def Eng.doorbell (e : Eng) (who : Src) : Eng :=
  match e.denied who Pg.KEY 0x90 false with
  | some e' => e'
  | none =>
    if e.bit Pg.KEY KEY.STS.BUSY ∨ e.lockouts.testBit (senderOf who) then e.refuse who Pg.KEY 0x90 .busy
    else
      let env := e.envelope who
      let cmd := envCmd env
      let ctr := envN env 8 8
      match e.envCode who env with
      | some c => e.keyDone who cmd ctr c
      | none =>
        let e1 := { e.put (vw who.code Pg.KEY) KEY.CTR.LAST ctr with resp := ⟨0, []⟩ }
        match e1.runCmd who env with
        | .inr c => e1.keyDone who cmd ctr c
        | .inl (e2, running) => (if running then e2 else e2.keyDone who cmd ctr .ok).runDeferred

/-- A submission of a command with the given code: the mailbox holds such an envelope. -/
def Eng.submit (e : Eng) (who : Src) (q : Nat → Bool) : Eng := if q (envCmd (e.envelope who)) then e.doorbell who else e

/-- The sender of the running command. -/
def KeyCmd.who (k : KeyCmd) : Src := if k.sender = 1 then .manager else .host

/-- PART_DESTROY_DONE: nothing of the partition drains or waits for the end of an outrun; what it still holds passes to the
supervisor, and its state is NONE (R51). -/
def Eng.destroyDone (e : Eng) : Eng :=
  match e.key.run with
  | some k =>
    let n := k.arg0
    let waits := e.drains.any (fun d => d.part == n) || (e.xpt.deferred.any fun d => e.owner d.2 == n) ||
      (e.owned n).any fun p => e.servesOutrun p && (leaseOf p).isNone
    if k.cmd = 2 ∧ !waits then ((e.handBack n).partNone n).keyDone k.who 2 k.ctr .ok else e
  | none => e

/-- The slots as KEY.SLOTS shows them are read from `slots`; programming ends (R338). -/
def Eng.programmed (e : Eng) (k : KeyCmd) : Eng :=
  e.onKey fun r =>
    { r with slots := (r.slots.zipIdx.map fun x =>
        if x.2 = k.arg0 then ⟨r.newKey, k.arg1, 1⟩ else if x.2 + 1 = k.arg2 then { x.1 with st := 2 } else x.1), newKey := [] }

def Eng.rotateDone (e : Eng) : Eng :=
  match e.key.run with
  | some k => if k.cmd = 5 then (e.programmed k).keyDone k.who 5 k.ctr .ok else e
  | none => e

/-- The lockout of a sender ends. -/
def Eng.lockoutEnd (e : Eng) (manager : Bool) : Eng := e.maskBit Pg.KEY KEY.STS.LOCKOUT manager.toNat false

/-! ### The commands -/

def execPartCreate (who : Src) : State → Host.Outcome State Fault Refusal := onEng fun e => e.submit who (· == 1)
def execPartDestroy (who : Src) : State → Host.Outcome State Fault Refusal := onEng fun e => e.submit who (· == 2)
def execPartDestroyDone : State → Host.Outcome State Fault Refusal := onEng Eng.destroyDone
def execXptGrant (who : Src) : State → Host.Outcome State Fault Refusal := onEng fun e => e.submit who (· == 3)
def execXptOverride (who : Src) : State → Host.Outcome State Fault Refusal := onEng fun e => e.submit who (· == 4)
def execKeyRotate (who : Src) : State → Host.Outcome State Fault Refusal := onEng fun e => e.submit who (· == 5)
def execKeyRotateDone : State → Host.Outcome State Fault Refusal := onEng Eng.rotateDone
def execUseRead (who : Src) : State → Host.Outcome State Fault Refusal := onEng fun e => e.submit who (· == 6)
def execUseRestore (who : Src) : State → Host.Outcome State Fault Refusal := onEng fun e => e.submit who (· == 7)
def execDebug (who : Src) : State → Host.Outcome State Fault Refusal := onEng fun e => e.submit who (· == 8)
def execKeyUnknownCmd (who : Src) : State → Host.Outcome State Fault Refusal := onEng fun e => e.submit who (fun c => (cmdClass c).isNone)
def execKeyLockoutEnd (manager : Bool) : State → Host.Outcome State Fault Refusal := onEng fun e => e.lockoutEnd manager

end Sys2Proof.Machine
end

