-- ==== Sys2Proof/Machine/Miolan.lean ====
section
/-! DEFINITION. The Miolan link (R367-R381): frames received on MLI and sent on MLO, positions, time alignment of a follower,
synchronised arms and received triggers. -/
namespace Sys2Proof.Machine

def Eng.onMln (e : Eng) (f : MlnRt → MlnRt) : Eng := { e with mln := f e.mln }

/-- The role: 0 OFF, 1 ROOT, 2 FOLLOWER; the position (R374). -/
def Eng.mlnRole (e : Eng) : Nat := e.get Pg.MLN0 MLN0.CFG.ROLE
def Eng.mlnPos (e : Eng) : Nat := if e.mlnRole = 1 then 0 else e.get Pg.MLN0 MLN0.POS.POS

/-- The engine originates messages: the root, or a follower that has a position (R372). -/
def Eng.mlnSpeaks (e : Eng) : Bool := e.mlnRole == 1 || (e.mlnRole == 2 && e.bit Pg.MLN0 MLN0.STS.POSITIONED)

/-! ### Frames (R369, R370, R372) -/

/-- CRC-16 of the low `n` bits of a number, bit 0 first. -/
def crc16 (n v : Nat) : Nat :=
  (List.range n).foldl (fun c i => if (c.testBit 15) != (v.testBit i) then (2 * c % 65536) ^^^ 0x1021 else 2 * c % 65536) 0xFFFF

/-- The 16 bits of a number in reverse. -/
def rev16 (c : Nat) : Nat := (List.range 16).foldl (fun a i => a + if c.testBit (15 - i) then 2 ^ i else 0) 0

/-- The engine's own event bits: destinations 32 to 47 (R373), each sent only while its owner holds MLN1 (R267). -/
def Eng.ownEvt (e : Eng) : Nat :=
  (List.range 16).foldl (fun a k => a + if e.dst (32 + k) && e.evrOwner (32 + k) == e.owner Pg.MLN1 then 2 ^ k else 0) 0

/-- A frame leaves MLO. -/
def Eng.mlnOut (e : Eng) (ty src body : Nat) : Eng :=
  let v := ty % 16 + 16 * (src % 8) + 256 * e.ownEvt + 2 ^ 24 * (body % 2 ^ 56)
  { e with sent := e.sent ++ [.frame (v + 2 ^ 80 * rev16 (crc16 80 v))] }

/-- Both ports are enabled and MLI is framed: frames are forwarded. -/
def Eng.mlnForwards (e : Eng) : Bool := e.en Pg.MLN0 && e.en Pg.MLN1 && e.bit Pg.MLN0 MLN0.STS.FRAMED

/-- A message that waits may go: of a lapsed holder of MLN1 no ARM and no TRIG is sent, they wait (R70; log entry 84). -/
def Eng.mlnSends (e : Eng) (m : Nat × Nat) : Bool := decide (e.leaseState 2 < 2) || (m.1 != 5 && m.1 != 7)

/-- An IDLE slot: the oldest message that may go, else IDLE. A follower without a position originates nothing. -/
def Eng.mlnSlot (e : Eng) : Eng :=
  if !e.mlnForwards then e
  else
    match e.mln.tx.find? fun m => e.mlnSpeaks && e.mlnSends m with
    | some m => (e.onMln fun x => { x with tx := x.tx.erase m }).mlnOut m.1 e.mlnPos m.2
    | none => e.mlnOut 0 e.mlnPos 0

/-- Forward a message, or remove it after its way round the ring. -/
def Eng.mlnPass (e : Eng) (ty src body : Nat) : Eng :=
  if ty = 0 ∨ (src = e.mlnPos ∧ e.mlnSpeaks) then e.mlnSlot
  else if e.mlnForwards then e.mlnOut ty src body else e

/-- A good frame acts on a framed receiver: its event bits are presented, and the run of CRC failures ends. -/
def Eng.mlnGood (e : Eng) (evt : Nat) (act : Eng → Eng) : Eng :=
  if e.en Pg.MLN0 && e.bit Pg.MLN0 MLN0.STS.FRAMED then act (e.onMln fun x => { x with evt := evt, failRow := 0 }) else e

/-- Queue a message (R372): of 16 entries; one more is dropped (log entry 37). -/
def Eng.mlnQueue (e : Eng) (ty body : Nat) : Eng :=
  if mlnDepth ≤ e.mln.tx.length then e else e.onMln fun x => { x with tx := x.tx ++ [(ty, body)] }

/-! ### Positions (R374) -/

/-- STS.ALIGNED follows a verdict; IST.ALIGNED as it rises. -/
def Eng.mlnAligned (e : Eng) (on : Bool) : Eng :=
  let e1 := e.putB Pg.MLN0 MLN0.STS.ALIGNED on
  if on && !e.bit Pg.MLN0 MLN0.STS.ALIGNED then e1.ist Pg.MLN0 MLN0.IST.ALIGNED else e1

/-- The root identity of this engine. -/
def Eng.mlnId (e : Eng) : Nat := e.get Pg.KEY KEY.DEVID.VAL % 2 ^ 48

/-- The root sends a PROBE. -/
def Eng.mlnProbe (e : Eng) : Eng :=
  if e.mlnRole = 1 ∧ e.en Pg.MLN1 then (e.onMln fun x => { x with probing := true }).mlnOut 1 0 (256 * e.mlnId) else e

/-- A PROBE is received. -/
def Eng.mlnRxProbe (e : Eng) (src body ring : Nat) : Eng :=
  let c := body % 8
  if e.mlnRole = 2 then
    if c = 7 then e.mlnSlot
    else
      let e1 := (e.put Pg.MLN0 MLN0.POS.POS (c + 1)).put Pg.MLN0 MLN0.STS.POSITIONED 1
      if e1.mlnForwards then e1.mlnOut 1 src (body + 1) else e1
  else if e.mlnRole = 1 then
    if body / 256 % 2 ^ 48 = e.mlnId then
      let e1 := ((e.put Pg.MLN0 MLN0.POS.N (c + 1)).put Pg.MLN0 MLN0.RING.T64 ring).onMln fun x => { x with probing := false }
      (e1.mlnAligned true).mlnSlot
    else ((e.mlnAligned false).raise Pg.MLN0 3 1 (e.owner Pg.MLN0)).mlnSlot
  else if e.mlnForwards then e.mlnOut 1 src body else e

/-- A PROBE did not return within 1 ms. -/
def Eng.mlnProbeTimeout (e : Eng) : Eng :=
  if e.mln.probing then (e.onMln fun x => { x with probing := false }).raise Pg.MLN0 2 1 (e.owner Pg.MLN0) else e

/-! ### Time (R375, R376) -/

/-- The root's three messages, in consecutive slots. -/
def Eng.mlnTimeSend (e : Eng) : Eng :=
  if e.mlnRole = 1 ∧ e.en Pg.MLN1 then
    let w := tb96 e.tb
    let n := e.get Pg.MLN0 MLN0.POS.N
    let e1 := (e.mlnOut 2 0 (w / 2 ^ 48)).mlnOut 3 0 (w / 2 ^ 16 % 2 ^ 32 + w % 2 ^ 16 * 2 ^ 32)
    e1.mlnOut 4 0 (e.get Pg.TIM TIM.FREQ_ADJ.ADJ + e.get Pg.MLN0 MLN0.RING.T64 * 2 ^ 32 + n * 2 ^ 52)
  else e

/-- TIME_RATE: the root's rate correction, RING and N. -/
def Eng.mlnRxRate (e : Eng) (body : Nat) : Eng :=
  if e.mlnRole = 2 then
    ((e.put Pg.MLN0 MLN0.RING.T64 (body / 2 ^ 32 % 2 ^ 20)).put Pg.MLN0 MLN0.POS.N (body / 2 ^ 52 % 16)).onMln fun x =>
      { x with rate := some (body % 2 ^ 32) }
  else e

/-- The delay from the root to position `k`, in 1/64 CKD, times N (R375). -/
def Eng.mlnDelayN (e : Eng) : Int :=
  let n : Int := e.get Pg.MLN0 MLN0.POS.N
  let k : Int := e.mlnPos
  k * ((e.get Pg.MLN0 MLN0.RING.T64 : Int) - (n - 1) * 1536) + n * ((k - 1) * 1536 + e.getI Pg.MLN0 MLN0.TRIM.T64)

/-- The error of TB96 at a frame's arrival, in time units. -/
def Eng.mlnErr (e : Eng) (sec body late : Nat) : Int :=
  let n : Int := e.get Pg.MLN0 MLN0.POS.N
  let root := ofTb96 (sec * 2 ^ 48 + body % 2 ^ 32 * 2 ^ 16 + body / 2 ^ 32 % 2 ^ 16)
  (e.tb : Int) + late * e.ckdSpan / 64 - root - e.mlnDelayN * e.ckdSpan / (64 * max n 1)

/-- TIME_LO at a follower: rate, error, a step beyond 1 CKD, ALIGNED and PHASE. -/
def Eng.mlnRxLo (e : Eng) (body late : Nat) : Eng :=
  match e.mln.timeHi with
  | none => e
  | some sec =>
    if e.mlnRole ≠ 2 ∨ !e.bit Pg.MLN0 MLN0.STS.POSITIONED then e
    else
      let e1 := match e.mln.rate with
        | some r => e.put Pg.TIM TIM.FREQ_ADJ.ADJ r
        | none => e
      let err := e1.mlnErr sec body late
      let near := decide (err.natAbs ≤ e1.ckdSpan)
      let ph := if near then clampI (-64) 63 (rdiv (64 * err) e1.ckdSpan) else 0
      let e2 := (e1.putI Pg.MLN0 MLN0.PHASE.T64 ph).mlnAligned near
      if near then e2 else e2.stepTb (-err)

/-! ### Framing (R371) -/

/-- MLI leaves FRAMED: a follower loses its position (R374), and MLN_LINK. -/
def Eng.mlnUnframe (e : Eng) : Eng :=
  if e.bit Pg.MLN0 MLN0.STS.FRAMED then
    let e1 := ((e.put Pg.MLN0 MLN0.STS.FRAMED 0).put Pg.MLN0 MLN0.STS.ALIGNED 0).put Pg.MLN0 MLN0.STS.POSITIONED 0
    ((e1.onMln fun x => { x with failRow := 0 }).ist Pg.MLN0 MLN0.IST.LOST).raise Pg.MLN0 0 1 (e.owner Pg.MLN0)
  else e

/-- The diagnostics that both pages show count on both (R381: "both"; DESIGN CHOICE, log entry 46). -/
def Eng.mlnCount (e : Eng) (f : Fld) : Eng := (e.inc Pg.MLN0 f).inc Pg.MLN1 f

/-- MLN_CRC: more than 16 CRC errors within 1 ms (R380). -/
def Eng.mlnCrcCount (e : Eng) : Eng :=
  let e1 := (e.mlnCount MLN0.CRC_ERR_CNT.COUNT).onMln fun x => { x with crc := within e.tb unitsPerMs 17 x.crc }
  if 16 < e1.mln.crc.length then e1.raise Pg.MLN0 1 0 (e.owner Pg.MLN0) else e1

/-- A frame with a CRC error: sent on as IDLE; the fourth in a row unframes. -/
def Eng.mlnCrcError (e : Eng) : Eng :=
  if e.en Pg.MLN0 && e.bit Pg.MLN0 MLN0.STS.FRAMED then
    let e1 := (e.mlnCrcCount.mlnSlot).onMln fun x => { x with failRow := x.failRow + 1 }
    if 4 ≤ e1.mln.failRow then e1.mlnUnframe else e1
  else e

/-- A hunting receiver frames; the root then sends its PROBE. -/
def Eng.mlnFramed (e : Eng) : Eng :=
  if e.en Pg.MLN0 && !e.bit Pg.MLN0 MLN0.STS.FRAMED && e.lock then
    ((e.put Pg.MLN0 MLN0.STS.FRAMED 1).mlnCount MLN0.REFRAME_CNT.COUNT).mlnProbe
  else e

/-! ### Synchronised arm (R377, R378) -/

/-- The second nearest to the present one whose low 8 bits are given. -/
def Eng.nearSec (e : Eng) (lo : Nat) : Nat :=
  let s := e.tb / unitsPerSec
  let d := (lo + 256 - s % 256) % 256
  if d < 128 then s + d else if 256 ≤ s + d then s + d - 256 else s + d

/-- EXEC of an ARM message. -/
def Eng.execTime (e : Eng) (sec ns : Nat) : Nat := e.nearSec sec * unitsPerSec + ns * unitsPerNs

/-- All positions have answered. -/
def Eng.acksDone (e : Eng) : Bool := (List.range (e.get Pg.MLN0 MLN0.POS.N)).all fun p => e.get Pg.MLN1 (MLN1.ACK.CODE p) != 15

/-- A code is collected by position. -/
def Eng.mlnAck (e : Eng) (pos code : Nat) : Eng :=
  if e.bit Pg.MLN1 MLN1.STS.ARM_WAIT then
    let e1 := e.put Pg.MLN1 (MLN1.ACK.CODE pos) code
    if e1.acksDone then (e1.put Pg.MLN1 MLN1.STS.ARM_WAIT 0).ist Pg.MLN1 MLN1.IST.ACKS else e1
  else e

/-- Send an ARM_ACK; a follower without a position sends none. The originator collects its own. -/
def Eng.mlnSendAck (e : Eng) (mask code : Nat) : Eng :=
  if e.mlnSpeaks then (e.mlnQueue 6 (mask + 2 ^ 8 * code + 2 ^ 12 * e.mlnPos)).mlnAck e.mlnPos code else e

/-- An ARM is received: it waits for EXEC, or arms nothing. -/
def Eng.mlnRxArm (e : Eng) (body : Nat) : Eng :=
  let mask := body % 256
  let t := e.execTime (body / 2 ^ 38 % 256) (body / 2 ^ 8 % 2 ^ 30)
  if !e.bit Pg.MLN0 MLN0.STS.ALIGNED then e.mlnSendAck mask 13
  else if t < e.tb then e.mlnSendAck mask 14
  else e.onMln fun x => { x with arms := x.arms ++ [(mask, t)] }

/-- A write of ARM1 by the holder of MLN1 submits. -/
def Eng.armSubmit (e : Eng) (who : Src) (data : Word) : Eng :=
  let ns := data.toNat % 2 ^ 30
  let grp := e.get Pg.MLN1 MLN1.ARM0.GROUPS
  let sec := e.get Pg.MLN1 MLN1.ARM0.SEC
  let least := e.tb + (e.get Pg.MLN0 MLN0.RING.T64 + 32 * 64) * e.ckdSpan / 64
  e.order who Pg.MLN1 0x48 (decide (e.execTime sec ns < least)) (!e.bit Pg.MLN0 MLN0.STS.ALIGNED || e.armWaits) fun e0 =>
    let body := grp + ns * 2 ^ 8 + sec * 2 ^ 38
    let e1 := (List.range 8).foldl (fun a p => a.put Pg.MLN1 (MLN1.ACK.CODE p) 15) ((e0.put Pg.MLN1 MLN1.ARM1.NS ns).put Pg.MLN1 MLN1.STS.ARM_WAIT 1)
    ((e1.onMln fun x => { x with armT := e1.tb }).mlnQueue 5 body).mlnRxArm body

/-- The units that a group mask names (ARMMAP). -/
def Eng.armUnits (e : Eng) (mask : Nat) : List (Fin 8) :=
  units8.filter fun u => (List.range 8).any fun j => mask.testBit j && (e.get Pg.MLN0 (MLN0.ARMMAP.ACQ j)).testBit u

/-- The requester that an owner code stands for. -/
def srcOf (o : Nat) : Src := if o < 8 then .part (fin8 o) else .host

/-- EXEC is reached in this CKC cycle: the named units arm, and the first refusal goes back. -/
def Eng.armExecute (e : Eng) (m : Mem) : Eng × Mem :=
  match e.mln.arms with
  | [] => (e, m)
  | a :: r =>
    let first := r.foldl (fun b x => if x.2 < b.2 then x else b) a
    if e.tb + e.ckcPeriod < first.2 then (e, m)
    else
    let e0 := e.onMln fun x => { x with arms := x.arms.erase first }
    let res := (e0.armUnits first.1).foldl (fun (s : (Eng × Mem) × Nat) u =>
      let s1 := s.1.1.armCmd s.1.2 (srcOf (s.1.1.owner Pg.MLN0)) u
      (s1, if s.2 = 0 then s1.1.resp.code else s.2)) ((e0, m), 0)
    (res.1.1.mlnSendAck first.1 res.2, res.1.2)

/-! ### Received triggers (R379) -/

/-- The time of a TRIG: the second nearest the engine's own TB96. -/
def Eng.trigTime (e : Eng) (body : Nat) : Nat :=
  let f : Nat := body / 2 ^ 11 % 2 ^ 30 * unitsPerNs + body / 2 ^ 41 % 2 ^ 15 * 2 ^ 49
  let s := e.tb / unitsPerSec
  let d : Int := (f : Int) - ((e.tb % unitsPerSec : Nat) : Int)
  if unitsPerSec < 2 * d ∧ 0 < s then (s - 1) * unitsPerSec + f
  else if 2 * d < -(unitsPerSec : Int) then (s + 1) * unitsPerSec + f
  else s * unitsPerSec + f

def Eng.mlnRxTrig (e : Eng) (src body : Nat) : Eng :=
  if src = e.mlnPos ∧ e.mlnSpeaks then e
  else if 16 ≤ e.mln.fifo.length then e.inc Pg.MLN0 MLN0.RX_DROP_CNT.COUNT
  else
    (e.onMln fun x => { x with fifo := x.fifo ++ [⟨body % 8, src, body / 8 % 256, e.trigTime body⟩] }).ist Pg.MLN0 MLN0.IST.TRIG

/-- A read of RX_TRIG0 (R381): the oldest entry leaves the FIFO and its time words are captured; an empty FIFO reads 0. -/
def Eng.rxPop (e : Eng) (who : Src) : Eng :=
  match e.readDenied who Pg.MLN0 0x60 with
  | some e' => e'
  | none =>
    match e.mln.fifo with
    | [] => { e with resp := ⟨0, [0]⟩ }
    | t :: r =>
      let e1 := (((e.put Pg.MLN0 MLN0.RX_TRIG0.TRG t.trg).put Pg.MLN0 MLN0.RX_TRIG0.SRC t.src).put Pg.MLN0 MLN0.RX_TRIG0.TAG t.tag).put
        Pg.MLN0 MLN0.RX_TRIG1.TB96 (tb96 t.tb)
      { e1.onMln fun x => { x with fifo := r } with resp := ⟨0, [t.trg + 2 ^ 8 * t.src + 2 ^ 16 * t.tag]⟩ }

/-! ### The commands -/

def execMlnRxIdle (src : Fin 8) (evt : BitVec 16) : State → Host.Outcome State Fault Refusal :=
  onEng fun e => e.mlnGood evt.toNat fun e => e.mlnPass 0 src 0
def execMlnRxProbe (src : Fin 8) (evt : BitVec 16) (body : BitVec 56) (ring : Fin 1048576) : State → Host.Outcome State Fault Refusal :=
  onEng fun e => e.mlnGood evt.toNat fun e => e.mlnRxProbe src body.toNat ring
def execMlnRxTimeHi (src : Fin 8) (evt : BitVec 16) (body : BitVec 56) : State → Host.Outcome State Fault Refusal :=
  onEng fun e => e.mlnGood evt.toNat fun e => (e.onMln fun x => { x with timeHi := some (body.toNat % 2 ^ 48) }).mlnPass 2 src body.toNat
def execMlnRxTimeLo (src : Fin 8) (evt : BitVec 16) (body : BitVec 56) (late : Nat) : State → Host.Outcome State Fault Refusal :=
  onEng fun e => e.mlnGood evt.toNat fun e => (e.mlnRxLo body.toNat late).mlnPass 3 src body.toNat
def execMlnRxTimeRate (src : Fin 8) (evt : BitVec 16) (body : BitVec 56) : State → Host.Outcome State Fault Refusal :=
  onEng fun e => e.mlnGood evt.toNat fun e => (e.mlnRxRate body.toNat).mlnPass 4 src body.toNat
def execMlnRxArm (src : Fin 8) (evt : BitVec 16) (body : BitVec 56) : State → Host.Outcome State Fault Refusal :=
  onEng fun e => e.mlnGood evt.toNat fun e =>
    (if src.val = e.mlnPos ∧ e.mlnSpeaks then e else e.mlnRxArm body.toNat).mlnPass 5 src body.toNat
def execMlnRxArmAck (src : Fin 8) (evt : BitVec 16) (body : BitVec 56) : State → Host.Outcome State Fault Refusal :=
  onEng fun e => e.mlnGood evt.toNat fun e => (e.mlnAck (body.toNat / 2 ^ 12 % 8) (body.toNat / 2 ^ 8 % 16)).mlnPass 6 src body.toNat
def execMlnRxTrig (src : Fin 8) (evt : BitVec 16) (body : BitVec 56) : State → Host.Outcome State Fault Refusal :=
  onEng fun e => e.mlnGood evt.toNat fun e => (e.mlnRxTrig src body.toNat).mlnPass 7 src body.toNat
def execMlnRxReserved (src : Fin 8) (evt : BitVec 16) (ty : Fin 8) (body : BitVec 56) : State → Host.Outcome State Fault Refusal :=
  onEng fun e => e.mlnGood evt.toNat fun e => (e.mlnCount MLN0.UNK_CNT.COUNT).mlnPass (8 + ty) src body.toNat
def execMlnCrcError : State → Host.Outcome State Fault Refusal := onEng Eng.mlnCrcError
def execMlnClockLoss : State → Host.Outcome State Fault Refusal := onEng Eng.mlnUnframe
def execMlnProbeSend : State → Host.Outcome State Fault Refusal := onEng Eng.mlnProbe
def execMlnProbeTimeout : State → Host.Outcome State Fault Refusal := onEng Eng.mlnProbeTimeout
def execMlnTimeSend : State → Host.Outcome State Fault Refusal := onEng Eng.mlnTimeSend
def execMlnArmSubmit (who : Src) (data : Word) : State → Host.Outcome State Fault Refusal := onEng fun e => e.armSubmit who data
def execMlnArmExecute : State → Host.Outcome State Fault Refusal := onBoth fun e m => e.armExecute m
def execRxTrigPop (who : Src) : State → Host.Outcome State Fault Refusal := onEng fun e => e.rxPop who
def execMlnFramed : State → Host.Outcome State Fault Refusal := onEng Eng.mlnFramed

end Sys2Proof.Machine
end

