-- ==== Sys2Proof/Machine/FaultReset.lean ====
section
/-! DEFINITION. Commands to the fault queue (R386, R391, R403), the reset domains (R392-R397, R404) and start-up
(R18, R96, R399-R401). -/
namespace Sys2Proof.Machine

/-! ### FLT.CMD (R386) -/

/-- The partition that a record names. -/
def Eng.fltNames (e : Eng) (i : Nat) : Nat := (e.flt.getD i FltRec.free).part

def Eng.fltSet (e : Eng) (i st : Nat) : Eng := { e with flt := e.flt.set i { e.flt.getD i FltRec.free with st := st } }

/-- PURGE: every slot FREE, the counters and marks cleared, the next SEQ 0. -/
def Eng.fltPurge (e : Eng) : Eng :=
  let p := Pg.FLT
  let e1 := { e with flt := List.replicate 32 FltRec.free }
  ((((e1.put p FLT.LOST.COUNT 0).put p FLT.EVICT_CNT.COUNT 0).put p FLT.STS.OVF 0).put p FLT.STS.CORRUPT 0).put p FLT.NEXT.SEQ 0

/-- A write of FLT.CMD. A partition may ACK the records that name it. PURGE leaves nothing for ACK and CLEAR in the same word. -/
def Eng.fltCmd (e : Eng) (who : Src) (data : Word) : Eng :=
  let slot := data.toNat % 32
  let ack := data.getLsbD 8
  let clear := data.getLsbD 9
  let purge := data.getLsbD 10
  let r := e.flt.getD slot FltRec.free
  match e.denied who Pg.FLT 0x44 false with
  | some e' => e'
  | none =>
    let foreign := match who with
      | .part n => purge || clear || (ack && r.part != n.val)
      | _ => false
    if foreign then e.notOwner who 0x44
    else if (ack || clear) && !purge && (r.isFree || r.seq != data.toNat / 2 ^ 16) then e.refuse who Pg.FLT 0x44 .range
    else if e.busyFor who Pg.FLT || (clear && !ack && !purge && r.st == 1) then e.refuse who Pg.FLT 0x44 .busy
    else
      let e0 := { e with resp := ⟨0, []⟩ }
      if purge then e0.fltPurge
      else if clear then e0.fltSet slot 3
      else if ack && r.st == 1 then e0.fltSet slot 2
      else e0

/-- FLT_PARITY: slot 31, which nothing else uses, and CORRUPT (R385, R391). -/
def Eng.fltParity (e : Eng) : Eng :=
  let p := Pg.FLT
  let e1 := (e.put p FLT.STS.CORRUPT 1).ist p FLT.IST.CORRUPT
  let r := e.flt.getD 31 FltRec.free
  if r.st = 1 then { e1 with flt := e1.flt.set 31 { r with reps := min (r.reps + 1) 0xFFFF, tLast := tb96 e.tb / 2 ^ 16 % 2 ^ 64 } }
  else
    let seq := e1.get p FLT.NEXT.SEQ
    let e2 := { e1 with flt := e1.flt.set 31 ⟨if e.lock then tb96 e.tb else 0, p, 0, 3, 1, 8, seq, 0, e1.stsWord p, 0⟩ }
    ((e2.put p FLT.NEXT.SEQ (seq + 1)).put p FLT.NEXT.SLOT 31).fltNotify 3 8

/-! ### POR and RESET_N (R392, R393) -/

def Eng.onRst (e : Eng) (f : RstRt → RstRt) : Eng := { e with rst := f e.rst }

/-- Everything as POR leaves it, with the cause. The board, the OTP slots (a programming under way ends in an ACTIVE slot, or
in one that reads BAD at fuse load), the levels at the input balls and what left the engine stay; RESET_N does not reset
the test access port (log entry 85). -/
def Eng.cold (e : Eng) (cause : Nat) (rail : Bool) : Eng :=
  let k := match e.key.run with
    | some c => if c.cmd = 5 then e.programmed c else e
    | none => e
  let n := Eng.por e.dev k.key.slots
  let e1 := { n with
    xpt := { n.xpt with a := e.xpt.a, b := e.xpt.b, idx := e.xpt.idx, ctl := e.xpt.ctl }
    wcp := Vector.ofFn fun i => { WcpRt.fresh with vd := e.wcp[i].vd }
    rst := { n.rst with rail := rail }
    tap := if cause = 1 then e.tap else { Tap.fresh with wait := e.tap.wait }
    epoch := e.epoch + 1, sent := e.sent, freeCtr := e.freeCtr, resp := e.resp }
  ((e1.put Pg.RST RST.CAUSE.LAST cause).put Pg.XPT XPT.STS.READY (e.get Pg.XPT XPT.STS.READY)).put
    Pg.EVR EVR.EVIO_IN.LEVEL (e.get Pg.EVR EVR.EVIO_IN.LEVEL)

/-- RESET_N; a rail below its threshold holds the engine all the same. -/
def Eng.resetN (e : Eng) : Eng := if e.rst.rail then e else e.cold 1 false

/-! ### Pages at a soft reset or PERST# (R392) -/

/-- Drop every stored field, shadow and half access of the pages that a test selects: they read their reset values. -/
def Eng.clearWhere (e : Eng) (q : Nat → Bool) : Eng :=
  let keep (x : Nat × Nat) : Bool := !q (keyPage x.1)
  { e with live := e.live.filter keep, shad := e.shad.filter keep, latch := e.latch.filter keep, snap := e.snap.filter keep }

/-- Pages that a soft reset keeps: BUD, CLK, FLT, RST, TIM, USE, KEY, ARR, the ROM, DRAM's, SPI and DBG (log entry 38). -/
def softKeeps (p : Nat) : Bool :=
  match kindOf (p % 256) with
  | .bud | .clk | .flt | .rst | .tim | .usage | .key | .arr | .rom | .dmx | .dmc | .spi | .dbg => true
  | _ => false

/-- Pages that PERST# keeps: those, but for DRAM's and SPI. -/
def perstKeeps (p : Nat) : Bool :=
  match kindOf (p % 256) with
  | .dmx | .dmc | .spi => false
  | _ => softKeeps p

/-- Pages with a running state of their own that return to start-up. -/
def warmPages : List Nat := allPages ++ (List.range 4).map Pg.CAL ++ [Pg.MCV, Pg.WCP, Pg.EVR]

/-- The pages in fixed place that some reset keeps. -/
def fixedPages : List Nat :=
  [Pg.BUD, Pg.CLK, Pg.FLT, Pg.RST, Pg.TIM, Pg.USE, Pg.KEY, Pg.ARR, Pg.FROM, Pg.DMX, Pg.SPI, Pg.DBG] ++ (List.range 8).map Pg.DMC

/-- What such a reset clears of a page that it keeps: shadows reload from the live values (R39), XU falls (R35), GEN is 0 (R392),
a pending commit is gone, and so are the diagnostics (R34), but for those whose chapter keeps them. A retune under way keeps its
setting, which step 2 applies. `diag`: the diagnostics of the page. -/
def Eng.keptPage (e : Eng) (diag : Nat → List Fld) (p : Nat) : Eng :=
  let hdr := [HDR.CTL.XU, HDR.GEN.COUNT] ++ (if p = Pg.CLK then [] else [HDR.STS.PENDING, HDR.STS.GROUPED])
  let e1 := (hdr ++ diag p).foldl (fun a f => a.put p f 0) e
  if p = Pg.CLK ∧ e.bit p HDR.STS.PENDING then e1 else { e1 with shad := e1.shad.filter fun x => keyPage x.1 != p }

/-- Diagnostics that a soft reset or PERST# clears on the pages it keeps (R34): the counters of BUD, whose DTS readings follow the
sensors, of ARR, FROM and SPI, and of DRAM, whose contents alone are kept (R395). CLK's, RST's, and those of KEY, TIM and USE
stay (R29, R361, R404). -/
def keptDiag (p : Nat) : List Fld :=
  match kindOf p with
  | .bud => [BUD.REFUSE_CNT.COUNT, BUD.SHED_CNT.COUNT, BUD.AVS_ERR_CNT.COUNT]
  | .arr | .rom | .dmx | .dmc | .spi => ((kindOf p).rows.map fun r => r.f).filter fun f => decide (0xE00 ≤ f.off)
  | _ => []

/-- Every partition is destroyed and every page that the reset does not keep returns to start-up; READY stays as it is. -/
def Eng.warmStart (e : Eng) (keeps : Nat → Bool) : Eng :=
  let fix : List (Nat × Fld) :=
    [(Pg.XPT, XPT.STOPSTS.OVR), (Pg.XPT, XPT.STS.READY), (Pg.EVR, EVR.EVIO_IN.LEVEL), (Pg.ENG, ENG.STS.READY)] ++
    (List.range 4).map (fun c => (Pg.CAL c, CAL.STS.WARM_OK))
  let e1 := warmPages.foldl (fun a p => (a.switchOff p).pageStart false p) e
  let e1 := (fixedPages.filter keeps).foldl (fun a p => a.keptPage keptDiag p) (e1.clearWhere fun p => !keeps p)
  let e2 := fix.foldl (fun a x => a.put x.1 x.2 (e.get x.1 x.2)) e1
  let e3 := (List.range 4).foldl (fun a c => a.putCores (fin4 c) e.cal[fin4 c].snap) e2
  let e4 := { e3 with
    drains := [], grpReady := [], dmaStop := false, dma := DmaRt.fresh, evr := EvrRt.fresh
    xpt := { e3.xpt with deferred := [] }
    rst := { e3.rst with blk := [] } }
  let e5 := e4.onBud fun b => { b with boost := 0, powerWait := [], target := e4.maxDiv }
  (e5.put Pg.RST RST.STS.BLK_BUSY 0).settleOver

/-- PCI fields and link state that only PCI Express or a wider reset changes. -/
def pciKept : List Fld := [PCI.STS.LINK_UP, PCI.STS.SPEED, PCI.STS.WIDTH, PCI.ID.VENDOR, PCI.ID.DEVICE, PCI.VFS.NUMVF, PCI.VFS.VF_EN, PCI.VFS.ARI]

/-- HELD_TRIP follows the waits of R93. -/
def Eng.showHeld (e : Eng) : Eng := e.putB Pg.RST RST.STS.HELD_TRIP (e.rst.held.isSome || e.rst.wait)

/-- The trip is over: the divider's loop is free again unless AVSBus failed or an emergency lasts (R92, R95). -/
def Eng.untrip (e : Eng) : Eng :=
  e.onBud fun b => { b with trip := false, frozen := e.bit Pg.BUD BUD.STS.AVS_FAIL || e.bit Pg.BUD BUD.STS.EMERG }

/-- A warm reset is complete: RST_WARM with the cause (R402), and READY. -/
def Eng.warmDone (e : Eng) (cause : Nat) : Eng := ((e.untrip).record Pg.RST 0 0 8 cause).upReady

/-! ### The supervisor soft reset (R395) -/

/-- Step 1, and the drains of step 2. A block reset under way is abandoned (R397). -/
def Eng.softStart (e : Eng) (cause : Nat) : Eng :=
  let e1 := (e.onRst fun r => { r with soft := some cause, held := none, blk := [] }).showHeld
  let e2 := { (e1.put Pg.RST RST.CAUSE.LAST cause) with xpt := { e1.xpt with deferred := [] } }
  let e3 := (((e2.put Pg.RST RST.STS.SOFT_BUSY 1).put Pg.RST RST.STS.BLK_BUSY 0)).put Pg.ENG ENG.STS.READY 0
  let e4 := (List.range 10).foldl (fun a v => a.grpEnd v) e3
  let e5 := (List.range 8).foldl (fun a n => a.partReset n) e4
  let e6 := e5.endWhere (fun u => e5.owner (Pg.ACQ u) == 8 && !(e5.outrunAcq == some u)) 5
  e6.startDrain 8 .reset

/-- A request: absorbed by a start-up or a reset as wide that runs, held after a trip until every DTS is below EMERG, else
started. -/
def Eng.softReq (e : Eng) (cause : Nat) : Eng :=
  if e.starting ∨ e.rst.perst.isSome ∨ e.rst.soft.isSome ∨ e.rst.held.isSome then e
  else if e.bud.trip ∧ e.hot e.emergT then (e.onRst fun r => { r with held := some cause }).showHeld
  else (e.softStart cause).runDeferred

/-- RST.SOFT: GO with its key. -/
def Eng.rstSoft (e : Eng) (who : Src) (data : Word) : Eng :=
  let go := data.getLsbD 0
  e.order who Pg.RST 0x40 (go && data.toNat / 2 ^ 16 != 0x5253) false fun e0 =>
    if go then e0.softReq (if who = .manager then 6 else 5) else e0

/-- FLR of the PF: PCI Express resets the function and clears VF Enable, and a soft reset follows (R311). -/
def Eng.pfFlr (e : Eng) : Eng := ((e.fnReset 0).put Pg.PCI PCI.VFS.VF_EN 0).softReq 7

/-- Step 4: channels in self-refresh train with contents kept; a failed map is initialised anew. -/
def Eng.softDram (e : Eng) (eyes : List Nat) : Eng :=
  if e.mapBad then e.dramUp eyes
  else
    let was := (units8.filter fun (d : Fin 8) => e.dmcState d == 5)
    was.foldl (fun a d => a.retrained eyes d) e.wake

/-- Steps 3 to 5, once every drain is over, no outrun runs and a keyed command that was in progress is complete. `eyes`: what the channels show where step 4 trains them. -/
def Eng.softDone (e : Eng) (eyes : List Nat) : Eng :=
  match e.rst.soft with
  | none => e
  | some cause =>
    if e.drains ≠ [] ∨ e.outrunAcq.isSome ∨ !e.lock ∨ e.retune ∨ e.key.run.isSome then e
    else
      let e1 := e.keeping Pg.PCI pciKept fun a => (a.warmStart softKeeps).onRst fun r => { r with soft := none }
      let e2 := (e1.softDram eyes).put Pg.RST RST.STS.SOFT_BUSY 0
      ((e2.inc Pg.RST RST.SOFT_CNT.COUNT).ist Pg.RST RST.IST.SOFT_DONE).warmDone cause

/-! ### PERST#, hot reset and link-down reset (R394) -/

/-- POP and the state of every DRAM channel before initialisation (R220, R245). -/
def Eng.dramCold (e : Eng) : Eng :=
  let n := channelsOf e.dev.ly6440 e.dev.dpop
  let e1 := { e with dmc := Vector.replicate 8 DmcRt.fresh, retrainQ := [], mapBad := false, mapNext := [], mapGood := [] }
  let e2 := (e1.put Pg.DMX DMX.POP.DPOP e.dev.dpop).put Pg.DMX DMX.POP.N n
  (List.range 8).foldl (fun a d => a.put (Pg.DMC d) DMC.STS.STATE (if d < n then 1 else 0)) e2

/-- Steps 1 and 2 from the assertion, and the start of step 3: DRAM is initialised, or stays in self-refresh while the junction
is hot after a trip (R93). It supersedes a soft reset. -/
def Eng.perstStart (e : Eng) (cause : Nat) : Eng :=
  let e1 := e.put Pg.ENG ENG.STS.READY 0
  let e2 := e1.endWhere (fun u => e1.armed u) 5
  let hot := e.bud.trip && e.hot e.emergT
  let e3 := (e2.keeping Pg.PCI [PCI.ID.VENDOR, PCI.ID.DEVICE] fun a => a.warmStart perstKeeps).put Pg.SPI SPI.STS.PRELOCK 0
  let e3 := if hot then units8.foldl (fun a d => if a.dmcState d = 1 then a.put (Pg.DMC d) DMC.STS.STATE 5 else a) e3.dramCold else e3.dramCold
  let e4 := e3.onRst fun r => { r with soft := none, held := none, perst := some cause, wait := hot }
  let e5 := { (e4.put Pg.RST RST.STS.SOFT_BUSY 0).put Pg.RST RST.STS.PERST_BUSY 1 with unmasked := [], msiPend := [], spiErr := [] }
  (e5.put Pg.RST RST.CAUSE.LAST cause).showHeld

/-- A PERST# event: absorbed by a start-up or a PERST# reset that runs. -/
def Eng.perst (e : Eng) (cause : Nat) : Eng := if e.starting ∨ e.rst.perst.isSome then e else e.perstStart cause

/-! ### Start-up (R399) -/

/-- The synthesizer's setting for a strap (R18): REFIN in Hz, RDIV, NINT, NFRAC, NMOD. -/
def strapSet (s : Nat) : Nat × Nat × Nat × Nat × Nat :=
  match s with
  | 0 => (10000000, 1, 2000, 0, 1)
  | 1 => (25000000, 1, 800, 0, 1)
  | 2 => (27000000, 1, 740, 20, 27)
  | 3 => (100000000, 1, 200, 0, 1)
  | 4 => (148500000, 2, 269, 107, 297)
  | 5 => (148351648, 2, 269, 17, 27)
  | 6 => (156250000, 2, 256, 0, 1)
  | _ => (250000000, 2, 160, 0, 1)

def Eng.strap (e : Eng) : Eng :=
  let (f, r, n, k, m) := strapSet e.dev.refsel
  ((((((e.put Pg.CLK CLK.REFSEL.STRAP e.dev.refsel).put Pg.CLK CLK.REF_FREQ.FREQ f).put Pg.CLK CLK.SYN_DIV.RDIV (r - 1)).put
    Pg.CLK CLK.SYN_DIV.NINT n).put Pg.CLK CLK.SYN_FRAC.NFRAC k).put Pg.CLK CLK.SYN_MOD.NMOD m)

/-- Fuse load ends: straps, keys (a slot whose ECC fails is BAD), nonce and device number, the ROM check, and the first
tickets (R96). -/
def Eng.fuseLoad (e : Eng) (nonce : Nat) (badSlots : List Nat) (romOk : Bool) : Eng :=
  if e.fused ∨ e.rst.rail then e
  else
    let half := e.dev.ly6440
    let slots := e.key.slots.zipIdx.map fun x => if badSlots.contains x.2 then { x.1 with st := 3 } else x.1
    let e1 := (({ e with fused := true, key := { e.key with slots := slots } }.strap).dramCold)
    let e2 := (e1.put Pg.KEY KEY.NONCE.VAL nonce).put Pg.KEY KEY.DEVID.VAL e.dev.devid
    let e3 := (e2.put Pg.PCI PCI.ID.VENDOR 0x1F3A).put Pg.PCI PCI.ID.DEVICE (if half then 0x6440 else 0x6480)
    let e4 := ((e3.setTix Pg.CLK 12 (if half then 3 else 6)).setTix Pg.ENG 24 0).setTix Pg.PCI 16 0
    let e5 := if slots.any (fun k => k.st == 3) then e4.raise Pg.KEY 2 1 8 else e4
    e5.romCheck romOk

/-- Warm-up begins: the cores and loops of every channel hold their tickets (R96), and the loops start from factory trim (R129). -/
def Eng.warmUp (e : Eng) : Eng :=
  let half := e.dev.ly6440
  (List.range 4).foldl (fun a c =>
    (((a.setTix (Pg.CNV c) (if half then 3 else 6) 0).setTix (Pg.CAL c) (if half then 2 else 4) (if half then 16 else 32)).putCores (fin4 c)
      ((List.range 16).map trimRow)).onCal (fin4 c) fun r => { r with warming := true }) e

/-- RS locks for the first time: TB96 counts, the port opens, and DRAM initialisation begins, after the thermal wait if any
DTS is at or above EMERG. Without a valid population DRAM is not initialised (R220). -/
def Eng.rsLock (e : Eng) : Eng :=
  if !e.fused ∨ !e.bit Pg.SPI SPI.STS.PRELOCK then e
  else
    let e1 := (e.put Pg.CLK CLK.STS.LOCK 1).put Pg.SPI SPI.STS.PRELOCK 0
    if e1.get Pg.DMX DMX.POP.N = 0 then (e1.raise Pg.DMX 0 3 8).warmUp
    else (e1.onRst fun r => { r with wait := e1.hot e1.emergT }).showHeld

/-- RS has not locked by 3 ms: CLK_UNLOCK, and READY is held while it lasts (R400). -/
def Eng.lockTimeout (e : Eng) : Eng :=
  if !e.fused ∨ !e.bit Pg.SPI SPI.STS.PRELOCK then e
  else
    let e1 := (e.inc Pg.CLK CLK.UNLOCK_CNT.COUNT).ist Pg.CLK CLK.IST.LOCK_LOST
    (e1.raise Pg.CLK 1 3 8).alert 6

/-- DRAM initialisation ends: the last step of a PERST# reset, or the warm-up of a start-up follows. -/
def Eng.dramInitDone (e : Eng) (eyes : List Nat) : Eng :=
  let e1 := e.dramInit eyes
  if e1.epoch = e.epoch then e
  else
    match e.rst.perst with
    | some cause =>
      let e2 := (e1.onRst fun r => { r with perst := none }).put Pg.RST RST.STS.PERST_BUSY 0
      ((e2.inc Pg.RST RST.PERST_CNT.COUNT).ist Pg.RST RST.IST.PERST_DONE).warmDone cause
    | none => e1.warmUp

/-- A channel's warm-up ends; after the last READY may rise. -/
def Eng.warmupEnd (e : Eng) (c : Fin 4) (ok : Bool) (rows : List (List Int)) : Eng :=
  let start := e.cal[c].warming
  let e1 := e.warmEnd c ok rows
  if start && !((List.range 4).any fun k => e1.cal[fin4 k].warming) then e1.upReady else e1

/-- Resets that wait for a cool junction go on (R93). -/
def Eng.cooled (e : Eng) : Eng :=
  if e.hot e.emergT then e
  else
    let e0 := if e.rst.wait then e.wake else e
    let e1 := (e0.onRst fun r => { r with wait := false }).showHeld
    match e1.rst.held with
    | some cause => (e1.softStart cause).runDeferred
    | none => e1

/-! ### RST.PART and RST.BLK (R396, R404) -/

def Eng.rstPart (e : Eng) (who : Src) (data : Word) : Eng :=
  let ns := (List.range 8).filter fun n => data.getLsbD n
  e.order who Pg.RST 0x44 (ns.any fun n => !e.created n) false fun e0 => (ns.foldl (fun a n => a.partReset n) e0).runDeferred

/-- Pages that a block reset applies to. -/
def blkPage (p : Nat) : Bool :=
  match kindOf p with
  | .cnv | .cal | .fch | .trg | .acq | .his | .mcv | .wcp | .evr | .xpt | .sfe | .dmq | .mln0 | .mln1 => true
  | _ => false

/-- The requester owns the page, or something on WCP or EVR. -/
def Eng.blkRight (e : Eng) (who : Src) (p : Nat) : Bool :=
  match who with
  | .part n =>
    if p = Pg.WCP then (List.range 8).any fun w => e.wcpOwner w == n.val
    else if p = Pg.EVR then (List.range 64).any fun d => e.evrOwner d == n.val
    else e.owner p == n.val
  | _ => e.owner p == 8

/-- A reset of the whole engine or of the page's partition runs, which absorbs a block reset. -/
def Eng.blkAbsorbed (e : Eng) (who : Src) : Bool :=
  e.starting || e.rst.perst.isSome || e.rst.soft.isSome ||
  (match who with
   | .part n => e.partState n == 3
   | _ => false)

def Eng.rstBlk (e : Eng) (who : Src) (data : Word) : Eng :=
  let p := data.toNat % 256
  match e.denied who Pg.RST 0x48 false with
  | some e' => e'
  | none =>
    let e0 := { e with resp := ⟨0, []⟩ }
    if !data.getLsbD 8 then e0
    else if !e.blkRight who p then e.notOwner who 0x48
    else if !blkPage p then e.refuse who Pg.RST 0x48 .range
    else if e.blkAbsorbed who then e0
    else if e.rst.blk.any fun x => x.1 == p then e.refuse who Pg.RST 0x48 .busy
    else
      let e1 := (e0.onRst fun r => { r with blk := r.blk ++ [(p, who.owner)] }).put Pg.RST RST.STS.BLK_BUSY 1
      if e1.servesOutrun p then { e1 with xpt := { e1.xpt with deferred := e1.xpt.deferred ++ [(3, p)] } }
      else (e1.blkBegin p who.owner).runDeferred

/-- Start-up of WCP or EVR for one partition, or for every owner: GEN and PGEN of each count. -/
def Eng.blkShared (e : Eng) (p o : Nat) : Eng :=
  let mine (x : Nat) : Bool := o == 8 || x == o
  let os := if o < 8 then [o] else
    (List.range 9).filter fun q => q == 8 ||
      (if p = Pg.WCP then (List.range 8).any fun w => e.wcpOwner w == q else (List.range 64).any fun d => e.evrOwner d == q)
  let gens := os.map fun q => (q, e.get (hdrPage p q) HDR.GEN.COUNT)
  let e0 := if o = 8 then e.pageStart true p else e
  let e1 := if p = Pg.WCP then (List.range 8).foldl (fun a w => if mine (a.wcpOwner w) then a.wcpStart w else a) e0
    else (List.range 64).foldl (fun a d => if mine (a.evrOwner d) then a.evrStart d else a) e0
  gens.foldl (fun a x => (((a.put (hdrPage p x.1) HDR.GEN.COUNT (x.2 + 1)).put (hdrPage p x.1) HDR.CTL.XU 0).put
    (hdrPage p x.1) HDR.STS.PENDING 0).pgen x.1) e1

/-- Steps 2 and 3 of a block reset, after its drain. -/
def Eng.blkDone (e : Eng) (p : Nat) : Eng :=
  match e.rst.blk.find? (fun x => x.1 == p) with
  | none => e
  | some (_, o) =>
    if e.drainsFor (.blk p) ∨ e.xpt.deferred.contains (3, p) then e
    else
      let e1 :=
        if p = Pg.WCP ∨ p = Pg.EVR then e.blkShared p o
        else
          let g := e.get p HDR.GEN.COUNT
          ((e.pageStart true p).put p HDR.GEN.COUNT (g + 1)).pgen (e.owner p)
      let e2 := e1.onRst fun r => { r with blk := r.blk.filter fun x => x.1 != p }
      let e3 := if p = Pg.EVR ∧ o = 8 then e2.put Pg.EVR EVR.STS.PARITY_OK 1 else e2
      ((e3.putB Pg.RST RST.STS.BLK_BUSY (!e3.rst.blk.isEmpty)).inc Pg.RST RST.BLK_CNT.COUNT).ist Pg.RST RST.IST.BLK_DONE

/-! ### The commands -/

def execFltAck (who : Src) (data : Word) : State → Host.Outcome State Fault Refusal := onEng fun e => e.fltCmd who data
def execFltClear (who : Src) (data : Word) : State → Host.Outcome State Fault Refusal := onEng fun e => e.fltCmd who data
def execFltPurge (who : Src) : State → Host.Outcome State Fault Refusal := onEng fun e => e.fltCmd who 0x400
def execFltParity : State → Host.Outcome State Fault Refusal := onEng Eng.fltParity
def execPor : State → Host.Outcome State Fault Refusal := onEng fun e => e.cold 0 false
def execResetN : State → Host.Outcome State Fault Refusal := onEng Eng.resetN
def execPerst (cause : Fin 3) : State → Host.Outcome State Fault Refusal := onEng fun e => e.perst (2 + cause)
def execRstSoft (who : Src) (data : Word) : State → Host.Outcome State Fault Refusal := onEng fun e => e.rstSoft who data
def execSoftResetDone (eyes : List Nat) : State → Host.Outcome State Fault Refusal :=
  onBoth fun e m =>
    let e1 := e.softDone eyes
    (e1, if e1.epoch = e.epoch then m else [])
def execRstPart (who : Src) (data : Word) : State → Host.Outcome State Fault Refusal := onEng fun e => e.rstPart who data
def execRstBlk (who : Src) (data : Word) : State → Host.Outcome State Fault Refusal := onEng fun e => e.rstBlk who data
def execBlockResetDone (page : Fin 256) : State → Host.Outcome State Fault Refusal := onEng fun e => (e.blkDone page).runDeferred
def execPfFlr : State → Host.Outcome State Fault Refusal := onEng Eng.pfFlr
def execFuseLoadDone (nonce : Fin 18446744073709551616) (badSlots : List Nat) (romOk : Bool) : State → Host.Outcome State Fault Refusal :=
  onEng fun e => e.fuseLoad nonce badSlots romOk
def execRsLock : State → Host.Outcome State Fault Refusal := onEng Eng.rsLock
def execRsLockTimeout : State → Host.Outcome State Fault Refusal := onEng Eng.lockTimeout
def execWarmupEnd (ch : Fin 4) (ok : Bool) (cores : List (List Int)) : State → Host.Outcome State Fault Refusal :=
  onEng fun e => e.warmupEnd ch ok cores
def execDramInitDone (eyes : List Nat) : State → Host.Outcome State Fault Refusal :=
  onBoth fun e m =>
    let e1 := e.dramInitDone eyes
    (e1, if e1.epoch = e.epoch then m else [])
def execDtsSample (temps : List (Option Int)) : State → Host.Outcome State Fault Refusal := onEng fun e => (e.dtsSample temps).cooled
def execRailBelowPorThreshold : State → Host.Outcome State Fault Refusal := onEng fun e => e.cold 0 true

end Sys2Proof.Machine
end

