-- ==== Sys2Proof/Machine/Check.lean ====
section
/-! DEFINITION. What a commit is checked against (R40, R44, and the chapters of the pages): the shadows that the committing
function stages on a page, in the order of R36. -/
namespace Sys2Proof.Machine

/-- The field a check reads on page `p`: the shadow where the page is among the members `ms` that commit together, else the
live value. -/
def Eng.seen (e : Eng) (ms : List Nat) (p : Nat) (f : Fld) : Nat := e.rd (ms.contains p) p f

/-- The staged fields of a page that owner `o` stages. -/
def Eng.staged (e : Eng) (p o : Nat) : List Row :=
  (kindOf p).rows.filter fun r => (r.acc == .rws || r.acc == .rwls) && e.partOf p o r.f.off

/-- The shadow of a field differs from its live value. -/
def Eng.changed (e : Eng) (p : Nat) (f : Fld) : Bool := e.sh p f != e.get p f

/-! ### OWNER -/

/-- Units of a mask that owner `o` does not own. -/
def Eng.foreignAcq (e : Eng) (o m : Nat) : Bool := (List.range 8).any fun u => m.testBit u && e.owner (Pg.ACQ u) != o
def Eng.foreignTrg (e : Eng) (o m : Nat) : Bool := (List.range 8).any fun t => m.testBit t && e.owner (Pg.TRG t) != o

/-- A destination's shadows differ from its live values. -/
def Eng.dstDirty (e : Eng) (d : Nat) : Bool := e.shadAt Pg.EVR fun o => decide (0x100 + 8 * d ≤ o ∧ o < 0x108 + 8 * d)

/-- A zone's stop of the transport is set or enabled by this commit (R209). -/
def Eng.xstopNew (e : Eng) (p : Nat) : Bool :=
  (List.range 4).any fun k => e.sh p (HIS.ZACT.XSTOP k) == 1 &&
    (e.changed p (HIS.ZACT.XSTOP k) || ((e.sh p HIS.MASK_CTL.ZEN).testBit k && !(e.get p HIS.MASK_CTL.ZEN).testBit k))

/-- The channel of a chain, with the members `ms` of the commit. -/
def Eng.chanSeen (e : Eng) (ms : List Nat) (f : Nat) : Nat := e.seen ms (Pg.FCH f) FCH.INPUT.CH

/-- An acquisition's settings select a channel that `o` may not use (R59): the raw channel, or the input of the chain that
Capture or the stream reads. -/
def Eng.acqForeign (e : Eng) (ms : List Nat) (p o : Nat) : Bool :=
  let chain := e.seen ms p ACQ.SRC.KIND == 1
  (!chain && !e.mayUse o (e.seen ms p ACQ.SRC.CH)) ||
    ((chain || e.seen ms p ACQ.MODE.STR == 1) && !e.mayUse o (e.chanSeen ms (e.seen ms p ACQ.SRC.FCH)))

/-- The shadows name a resource that the owner `o` of the page's part may not use (R58, R59, R140, R158, R162, R177, R196, R209,
R264, R281, R283, R377, R379). -/
def Eng.cmtOwner (e : Eng) (ms : List Nat) (p o : Nat) : Bool :=
  match kindOf p with
  | .fch => !e.mayUse o (e.sh p FCH.INPUT.CH)
  | .trg =>
    e.owner (Pg.FCH (e.sh p TRG.SRC.FCH)) != o || !e.mayUse o (e.chanSeen ms (e.sh p TRG.SRC.FCH)) ||
    (List.range 16).any fun g => e.sh p (TRG.GATE_BR.RDEST_EN g) == 1 && e.evrOwner (e.sh p (TRG.GATE_BR.RDEST g)) != o
  | .acq => e.acqForeign (p :: ms) p o
  | .his =>
    (e.sh p HIS.CFG.BIND == 1 &&
      (e.owner (Pg.ACQ (e.sh p HIS.CFG.ACQ)) != o || e.acqForeign ms (Pg.ACQ (e.sh p HIS.CFG.ACQ)) o)) || (e.xstopNew p && e.owner Pg.XPT != o)
  | .evr =>
    (List.range 64).any fun d => e.evrOwner d == o && e.dstDirty d &&
      (List.range 4).any fun k => evrListed (e.sh p (EVR.DST_SEL.SRC d k)) && !e.evrRight o (e.sh p (EVR.DST_SEL.SRC d k))
  | .xpt =>
    (e.sh p XPT.STOP_SRC.EN == 1 && e.evrOwner (e.sh p XPT.STOP_SRC.DEST) != o) ||
    (e.sh p XPT.OUT_CFG.ACQ_EN == 1 && e.owner (Pg.ACQ (e.sh p XPT.OUT_CFG.ACQ)) != o)
  | .mln0 =>
    (decide (o < 8) && e.changed p MLN0.CFG.ROLE) ||
    (List.range 8).any fun j => e.foreignAcq o (e.sh p (MLN0.ARMMAP.ACQ j))
  | .mln1 => e.foreignTrg o (e.sh p MLN1.TRGMASK.TRG)
  | _ => false

/-! ### RANGE -/

/-- Ratios that HIRES allows (R142). -/
def hiresRatio (d : Nat) : Bool :=
  (List.range 17).any fun a => d == 2 ^ a || (decide (a ≤ 14) && d == 3 * 2 ^ a) || (decide (a ≤ 13) && d == 5 * 2 ^ a)

/-- A chain's shadows (R142, R143, R155). A coefficient RAM of length 0 gives no response, so it is refused as well. -/
def Eng.fchRange (e : Eng) (p : Nat) : Bool :=
  let d := e.sh p FCH.DEC.RATIO
  let hi := e.sh p FCH.DEC.MODE == 2
  (hi && !hiresRatio d) ||
  (e.sh p FCH.RESP.SRC == 1 && e.get p FCH.COEF_CFG.LEN == 0) ||
  (e.fchRam true p && decide (16384 < e.spw (e.sh p FCH.INPUT.CH) * ceilDiv (e.fchLen true p) (max d 1))) ||
  (e.fchRom true p && !e.bit Pg.FROM FROM.STS.ROM_OK)

/-- The levels a tracer is to find (R134). -/
def Eng.declRange (e : Eng) (c : Nat) : Bool :=
  let p := Pg.CAL c
  let fs : Int := fsMv (e.get (Pg.CNV c) CNV.INPUT.GAIN)
  let ls := e.declared true p
  e.sh p CAL.DECL_CFG.MODE != 0 &&
  (ls.any (fun v => decide (v < -(500 * fs) ∨ 500 * fs < v)) ||
   (List.zipWith (fun a b => decide (b - a < 125 * fs ∨ b ≤ a)) ls (ls.drop 1)).any id)

/-- Branch codes that R161 allows: 0 next, 1 else, 2 reset. -/
def branchOk (which code : Nat) : Bool :=
  decide (code < 16) || (code == 0x1E && which != 0) || (code == 0x1F && which != 2)

/-- One gate's shadows (R160-R162, R177); `pair`: the source chain runs PEAK. -/
def Eng.gateRange (e : Eng) (p : Nat) (pair : Bool) (g : Nat) : Bool :=
  let ty := e.sh p (TRG.GATE_COND.TYPE g)
  let pol := e.sh p (TRG.GATE_COND.POL g)
  let line := e.sh p (TRG.GATE_PARAM.LINE g)
  decide (7 < ty) || (ty == 7 && e.evrOwner (e.sh p (TRG.GATE_COND.DEST g)) != e.owner p) ||
  (ty == 2 && pol == 3) || ((ty == 3 || ty == 4 || ty == 5) && decide (1 < pol)) ||
  ((ty == 3 || ty == 5) && decide (e.shI p (TRG.GATE_LVL.B g) < e.shI p (TRG.GATE_LVL.A g))) ||
  (ty == 4 && decide (2 ≤ e.sh p (TRG.GATE_COND.REL g)) && decide (e.sh p (TRG.GATE_W2.SAMPLES g) < e.sh p (TRG.GATE_W1.SAMPLES g))) ||
  !branchOk 0 (e.sh p (TRG.GATE_BR.NEXT g)) || !branchOk 1 (e.sh p (TRG.GATE_BR.ELSE g)) ||
  !branchOk 2 (e.sh p (TRG.GATE_BR.RESET g)) ||
  line == 0 || decide (e.sh p TRG.SYNC_FRAME.LPF < line) || e.sh p (TRG.GATE_PARAM.FIELD g) == 3 ||
  (pair && !(ty == 0 || ty == 1 || ty == 2 || ty == 7))

/-- A sequencer's shadows (R159, R177). -/
def Eng.trgRange (e : Eng) (ms : List Nat) (p : Nat) : Bool :=
  let c := Pg.FCH (e.sh p TRG.SRC.FCH)
  let per := e.sh p TRG.SYNC_LINE.PER
  !e.trgOk (ms.contains c) c || (per != 0 && decide (per < 256)) || decide (e.sh p TRG.SYNC_FRAME.LPF < e.sh p TRG.SYNC_FRAME.FIRST) ||
  (List.range 16).any fun g => e.gateRange p (e.seen ms c FCH.DEC.MODE == 1) g

/-- An acquisition's shadows (R184, R195). -/
def Eng.acqRange (e : Eng) (p : Nat) : Bool :=
  let bytes := 256 * e.sh p ACQ.STR_SIZE.U256
  let blk := 2 ^ e.sh p ACQ.STR_CFG.BLK
  decide (64 * e.sh p ACQ.SEG.LEN64 < e.sh p ACQ.PRE.SAMPLES) ||
  (e.sh p ACQ.MODE.CAP == 1 && decide (e.sh p ACQ.BUF.MIB < 2)) ||
  (e.sh p ACQ.MODE.STR == 1 && e.sh p ACQ.STR_CFG.DEST == 0 && (bytes % blk != 0 || decide (bytes < 2 * blk)))

/-- An accumulation unit's shadows (R198, R201, R207). -/
def Eng.hisRangeCmt (e : Eng) (ms : List Nat) (p : Nat) : Bool :=
  let t := e.sh p HIS.CFG.TYPE
  let a := Pg.ACQ (e.sh p HIS.CFG.ACQ)
  let pair := e.seen ms a ACQ.SRC.KIND == 1 && e.seen ms (Pg.FCH (e.seen ms a ACQ.SRC.FCH)) FCH.DEC.MODE == 1
  let zen := e.sh p HIS.MASK_CTL.ZEN
  (t == 2 && decide (65536 < e.sh p HIS.AVG_N.N * e.sh p HIS.XDIV.N)) ||
  ((t == 1 || t == 2) && e.sh p HIS.CFG.BIND == 1 && pair) ||
  decide (e.sh p HIS.GRID.XBINS * e.sh p HIS.XDIV.N < e.sh p HIS.REC_PRE.WORDS) ||
  decide (e.sh p HIS.TRACK.UNLOCK_TH ≤ e.sh p HIS.TRACK.LOCK_TH) ||
  zen &&& e.get p HIS.MASK_STS.LOADED != zen

/-- A comparator's shadows (R257, R260): a spacing below H + 3.125 mV, or a majority out of range. The spacing counts for a
channel that is enabled or whose levels this commit changes (DEDUCED, log entry 39). -/
def Eng.wcpRange (e : Eng) (n : Nat) : Bool :=
  let p := Pg.WCP
  let own := e.shadAt p fun o => decide (0x100 + 0x20 * n ≤ o ∧ o < 0x120 + 0x20 * n)
  let gap := e.shI p (WCP.CH_THR.HI n) - e.shI p (WCP.CH_THR.LO n)
  let k := e.sh p (WCP.CH_FLT.K n)
  let m := wcpN (e.sh p (WCP.CH_FLT.NSEL n))
  let lev := e.sh p (WCP.CH_CFG.EN n) == 1 || e.changed p (WCP.CH_THR.HI n) || e.changed p (WCP.CH_THR.LO n) ||
    e.changed p (WCP.CH_CFG.HYST n)
  own && ((lev && decide (25 * gap < 80 * (e.sh p (WCP.CH_CFG.HYST n) : Int) + 100)) || decide (k < (m + 2) / 2 ∨ m < k))

/-- A destination's shadows name a reserved source, or a tentative one without TENT, or TENT where it may not be set (R263,
R264, R266). -/
def Eng.dstRange (e : Eng) (d : Nat) : Bool :=
  let p := Pg.EVR
  let tent := e.sh p (EVR.DST_CFG.TENT d) == 1
  e.dstDirty d && ((List.range 4).any fun k =>
    let s := e.sh p (EVR.DST_SEL.SRC d k)
    !evrListed s || (tentative s && !tent)) || (e.dstDirty d && tent && decide (32 ≤ d ∧ d < 48))

/-- A sensor's shadows (R299, R301, R302): the tone in 1 kHz to 50 kHz is FREQ × MT / CYC, in 0.01 Hz. -/
def Eng.sfeRange (e : Eng) (p : Nat) : Bool :=
  let tone := e.sh p SFE.EXC.FREQ * e.sh p SFE.IMP.MT
  let cyc := e.sh p SFE.DEMOD.CYC
  let x (k : Nat) : Int := e.shI p (SFE.LIN.X k)
  decide (e.sh p SFE.ZWIN.ZMAX < e.sh p SFE.ZWIN.ZMIN) || decide (e.sh p SFE.OUT_FRQ.FMAX ≤ e.sh p SFE.OUT_FRQ.FMIN) ||
  (List.range 32).any (fun k => decide (x (k + 1) ≤ x k)) ||
  decide (3000 < e.sh p SFE.AMP.MVPP + e.sh p SFE.IMP.AMP) ||
  (e.sh p SFE.IMP.AMP != 0 && (e.sh p SFE.IMP.MT == cyc || decide (tone < 100000 * cyc ∨ 5000000 * cyc < tone)))

/-- A shadow lies outside its stated range, or the shadows break a combination that the page's chapter states. -/
def Eng.cmtRange (e : Eng) (ms : List Nat) (p o : Nat) : Bool :=
  (e.staged p o).any (fun r => !r.inRange (e.sh p r.f)) ||
  match kindOf p with
  | .cal => e.declRange (p - 0x18)
  | .fch => e.fchRange p
  | .trg => e.trgRange ms p
  | .acq => e.acqRange p
  | .his => e.hisRangeCmt ms p
  | .wcp => (List.range 8).any fun n => e.wcpOwner n == o && e.wcpRange n
  | .evr => (List.range 64).any fun d => e.evrOwner d == o && e.dstRange d
  | .sfe => e.sfeRange p
  | .tim => e.setErr != 0
  | _ => false

/-! ### QUIESCE, BUSY, NOCREDIT -/

/-- A change that needs quiescence (R224). -/
def Eng.cmtQuiesce (e : Eng) (p : Nat) : Bool := kindOf p == .dmx && e.changed p DMX.CFG.IECC && !e.quiescent

/-- States in which a page takes no commit: an outrun on XPT (R283), a region in use at a change of IECC (R224), a time that
follows the Miolan root (R376). -/
def Eng.cmtHeld (e : Eng) (p : Nat) : Bool :=
  match kindOf p with
  | .xpt => e.outrunAcq.isSome
  | .dmx => e.changed p DMX.CFG.IECC && (List.range 8).any fun n => e.get Pg.PRT (PRT.P_REGION.COUNT n) != 0
  | .tim => e.sh p TIM.SETCTL.SEL != 0 && e.timeHeld
  | _ => false

/-- A commit is pending on the page for the function, alone or in a group. -/
def Eng.cmtPending (e : Eng) (p o : Nat) : Bool := e.bit (hdrPage p o) HDR.STS.PENDING || e.bit (hdrPage p o) HDR.STS.GROUPED

/-- The first check that the shadows fail, tickets apart, for the commit of members `ms` together. -/
def Eng.cmtCode (e : Eng) (ms : List Nat) (p o : Nat) : Option Code :=
  if e.cmtOwner ms p o then some .owner
  else if e.cmtRange ms p o then some .range
  else if e.cmtQuiesce p then some .quiesce
  else if e.cmtPending p o || e.cmtHeld p then some .busy
  else none

/-- The tickets that the commit of the members together asks for (R82): each enabled one at its cost with the shadows. On WCP
only the committing function's channels count. `cap`: the partition whose caps count. -/
def Eng.cmtReq (e : Eng) (ms : List Nat) (o : Nat) : TixReq :=
  let wcp := (List.range 8).any fun n => e.wcpCounts (e.wcpOwner n == o) n
  let one (p : Nat) : Nat × Nat × Nat :=
    if p = Pg.WCP then (p, if wcp then 1 else 0, 0) else (p, (e.costNow true p).1, (e.costNow true p).2)
  ⟨(ms.filter fun p => costed p && e.en p).map one, o, ms.headD 255, false⟩

end Sys2Proof.Machine
end

