-- ==== Sys2Proof/Machine/Apply.lean ====
section
/-! DEFINITION. What a block does when its shadows apply, page by page, and when it powers up (R39-R43, R109, R111, R114, R131,
R132, R134, R149, R176, R251, R257-R261). -/
namespace Sys2Proof.Machine

/-! ### Power-up of a block whose enable was granted -/

/-- A calibration resumes from the held corrections; after a converter's power-up it is a calibration reset (R126, R131, R132). -/
def Eng.calOn (e : Eng) (c : Fin 4) : Eng :=
  let p := Pg.CAL c
  let e1 := if e.cal[c].powered then (e.calReset c).onCal c fun r => { r with powered := false } else e
  (((e1.put p CAL.STS.HELD 0).showLoops c).tmoRestart c).calRun c (e1.bit (Pg.CNV c) CNV.STS.UP)

/-- A sequencer starts: its shadows apply, both evaluators enter gate 0, the tag is 0 (R176, R177). A tentative trigger that
must still resolve is kept. -/
def Eng.trgOn (e : Eng) (t : Fin 8) : Eng :=
  let p := Pg.TRG t
  let o := e.owner p
  let e1 := if e.bit p HDR.STS.GROUPED then e
    else if e.bit p HDR.STS.PENDING then (e.applied p o).pgen o else e.applyShad p fun _ => true
  let e2 := e1.onTrg t fun r =>
    { TrgRt.fresh with tent := r.tent, tentTag := r.tentTag, abort := r.abort, inval := r.inval, fault := r.fault }
  (((e2.put p TRG.STS.SYNC_LOCK 0).put p TRG.STS.LATBAD 0).gate0 t (e2.cnv[e2.trgCh t].idx)).trgReach t

/-- A ring restarts after a halt (R318). -/
def Eng.ringOn (e : Eng) (i : Nat) : Eng :=
  let p := Pg.DMQ i
  let e1 := ((e.put p DMQ.STS.HALTED 0).put p DMQ.STS.RUN 1).maskBit Pg.DMA DMA.STS.HALTED i false
  { e1 with dmq := Vector.ofFn fun j => if j.val = i then { e1.dmq[j] with halt := false } else e1.dmq[j] }

/-- The block powers up. -/
def Eng.powerOn (e : Eng) (p : Nat) : Eng :=
  match kindOf p with
  | .cnv => e.powerUp (fin4 (p - 0x10))
  | .cal => e.calOn (fin4 (p - 0x18))
  | .fch => let f := fin8 (p - 0x20); ((e.chainStart f).detReset f true true true).fchRefresh f
  | .trg => e.trgOn (fin8 (p - 0x30))
  | .dmq => e.ringOn (p - 0x88)
  | .his => e.hisRun (fin8 (p - 0x48)) (e.get p HIS.CFG.ACQ)
  | .mcv => e.mcvStart
  | .xpt => (e.put p XPT.STS.RUN 1).showSlots
  | .sfe => (e.put p SFE.STS.RUN 1).onSfe (fin4 (p - 0x79)) fun r => { r with skip := true }
  | _ => e

/-! ### Applying shadows -/

/-- INPUT and CM_TRIM (R109, R110): the span of invalid words, its count, and what a gain step means to the tracer. On a
channel that the arrangement does not contain nothing but the values changes (R100). SETTLE_CNT counts every commit that changes
one of the fields, also where the running span is as long (DESIGN CHOICE, log entry 74). -/
def Eng.cnvApply (e : Eng) (p o : Nat) : Eng :=
  let c := fin4 (p - 0x10)
  let gain := e.changed p CNV.INPUT.GAIN
  let slow := e.changed p CNV.INPUT.TERM || e.changed p CNV.INPUT.COUP || e.changed p CNV.CM_TRIM.MV
  let e1 := e.applied p o
  if !presentIn e.arr c || !(gain || slow) then e1
  else
    let n := max (if slow then 64 else 16) e1.cnv[c].left
    let e2 := (((e1.onCnv c fun r => { r with left := n }).put p CNV.STS.SETTLING 1).put p CNV.SETTLE.CYCLES (n - 1)).inc p
      CNV.SETTLE_CNT.COUNT
    if gain then e2.gainChanged c else e2

/-- Declared levels (R134): the tracer seeks, or is off. -/
def Eng.calApply (e : Eng) (p o : Nat) : Eng :=
  let c := fin4 (p - 0x18)
  let e1 := e.applied p o
  if e1.get p CAL.DECL_CFG.MODE = 0 then (e1.put p CAL.DECL_STS.STATE 0).put p CAL.DECL_STS.FOUND 0 else e1.seek c

/-- INPUT, DEC, RESP and DET (R149, R150, R154); a detector whose bit changes starts again. A commit that changes DEC or RESP flushes for 4 CKD cycles; one that changes
INPUT alone starts the grid at once. -/
def Eng.fchApply (e : Eng) (p o : Nat) : Eng :=
  let f := fin8 (p - 0x20)
  let resp := e.changed p FCH.DEC.MODE || e.changed p FCH.DEC.RATIO || e.changed p FCH.RESP.SRC || e.changed p FCH.RESP.ROM
  let input := e.changed p FCH.INPUT.CH
  let e1 := e.applied p o
  let e2 := if !e1.en p then e1
    else if resp then
      let i := e1.cnv[fin4 (e1.get p FCH.INPUT.CH)].idx
      let n := e1.fchInvalid p
      let a := e1.onFch f fun r =>
        let r1 := if input then { r with base := i, hist := [], sN := i, schussCut := i } else r
        { r1 with run := false, flush := 5 }
      ((a.put p FCH.STS.RUN 0).put p FCH.INVALID.COUNT (min n 65535)).putB p FCH.STS.SETTLING (decide (n ≠ 0))
    else if input then e1.chainStart f
    else e1
  let e3 := e2.detReset f (e.changed p FCH.DET.PK) (e.changed p FCH.DET.RMS) (e.changed p FCH.DET.ENV)
  units8.foldl (fun a u => a.acqRefresh u) (e3.fchRefresh f)

/-- Mask shadow stores become live (R207); a unit that the commit binds or unbinds starts or stops (R196). -/
def Eng.hisApply (e : Eng) (p o : Nat) : Eng :=
  let h := fin8 (p - 0x48)
  let e1 := e.applied p o
  let e2 := if e1.get p HIS.MASK_STS.LOADED = 0 then e1 else e1.onHis h fun r => { r with live := r.shad }
  e2.hisRun h (e.get p HIS.CFG.ACQ)

/-- What the arrangement shows beside its mode (R100, R114): remaining enabled channels power up again, with a calibration
reset, and chains start their grids anew. Of any other channel a core that it had keeps its corrections, and one that comes to it
has those of the warm-up snapshot (log entry 78). -/
def Eng.arrChange (e : Eng) (m : Nat) : Eng :=
  let p := Pg.ARR
  let e1 := ((e.put p ARR.LIVE.MODE m).ist p ARR.IST.CHANGED).inc p ARR.CHANGE_CNT.COUNT
  let e2 := [0, 1, 2, 3].foldl (fun a (c : Fin 4) =>
    if a.en (Pg.CNV c) && presentIn m c then (a.powerUp c).calReset c
    else a.putCores c ((List.range 16).map fun k =>
      if (coresIn e.dev.ly6440 e.arr c).contains k then (List.range 4).map fun i => e.getI (Pg.CAL c) (coreFld i k)
      else e.cal[c].snap.getD k [])) e1
  let e3 := units8.foldl (fun a f => if a.en (Pg.FCH f) && presentIn m (a.get (Pg.FCH f) FCH.INPUT.CH) then a.chainStart f else a) e2
  units8.foldl (fun a (u : Fin 8) => a.acqRefresh u) (units8.foldl (fun a f => a.fchRefresh f) e3)

/-- Pages whose cost follows the arrangement (R86). -/
def arrPages : List Nat :=
  (List.range 4).map Pg.CNV ++ (List.range 4).map Pg.CAL ++ (List.range 8).map Pg.FCH ++ (List.range 8).map Pg.ACQ

def Eng.arrApply (e : Eng) (o : Nat) : Eng :=
  let m := e.sh Pg.ARR ARR.ARR.MODE
  let e1 := e.applied Pg.ARR o
  let e2 := if m = e.arr then e1 else e1.arrChange m
  arrPages.foldl (fun a p => a.relax p) e2

/-- Inline ECC (R224): DRAM contents become unspecified and the capacity follows. -/
def Eng.dmxApply (e : Eng) (o : Nat) : Eng :=
  let p := Pg.DMX
  let ch := e.changed p DMX.CFG.IECC
  let e1 := e.applied p o
  if ch then
    let e2 := (e1.put p DMX.STS.IECC (e1.get p DMX.CFG.IECC)).unspecified
    (e2.put p DMX.CAP.GRAN (e2.granFor e2.mapGood.length)).put p DMX.CAP.GRAN_NEXT (e2.granFor e2.mapNext.length)
  else e1

/-- After a commit of SCAN the scan restarts at the lowest enabled entry, and the abort counts clear (R251). -/
def Eng.mcvApply (e : Eng) (o : Nat) : Eng :=
  (((e.applied Pg.MCV o).onMcv fun m => { m with next := 0, aborts := [], redo := none })).mcvStart

/-- One comparator channel after its shadows applied (R259-R262). `en0`: it was enabled before; the flags say what changed. -/
def Eng.wcpAfter (e : Eng) (n : Fin 8) (en0 hi lo hyst flt : Bool) : Eng :=
  let p := Pg.WCP
  let on := e.bit p (WCP.CH_CFG.EN n)
  if !on then (if en0 then (e.wcpDisable n).onWcp n fun r => { r with hist := [], cnt := 0, checking := false, due := false } else e)
  else
    let e1 := if !en0 then (((e.put p (WCP.CH_STS.STATE n) 0).wcpForce n true true).wcpRestart n)
      else if hi || lo || hyst then e.wcpForce n (hi || hyst) (lo || hyst) else e
    let e2 := if flt then e1.wcpRestart n else e1
    if hi || lo then (e2.wcpDiscard n).onWcp n fun r => { r with due := true } else e2

/-- The channels of owner `o` on WCP. -/
def Eng.wcpApply (e : Eng) (o : Nat) : Eng :=
  let p := Pg.WCP
  let e1 := e.applied p o
  units8.foldl (fun a (n : Fin 8) =>
    if e.wcpOwner n = o then
      a.wcpAfter n (e.bit p (WCP.CH_CFG.EN n)) (e.changed p (WCP.CH_THR.HI n)) (e.changed p (WCP.CH_THR.LO n)) (e.changed p (WCP.CH_CFG.HYST n))
        (e.changed p (WCP.CH_FLT.NSEL n) || e.changed p (WCP.CH_FLT.K n) || e.changed p (WCP.CH_FLT.M n))
    else a) e1

/-- The shadows of owner `o` on a page apply together, with their effect; PGEN apart (R40, R45). -/
def Eng.applyPage (e : Eng) (p o : Nat) : Eng :=
  match kindOf p with
  | .cnv => e.cnvApply p o
  | .cal => e.calApply p o
  | .fch => e.fchApply p o
  | .trg => (e.applied p o).trgReach (fin8 (p - 0x30))
  | .acq => ((e.applied p o).acqRefresh (fin8 (p - 0x40))).hisRuns (fin8 (p - 0x40))
  | .his => e.hisApply p o
  | .arr => e.arrApply o
  | .dmx => e.dmxApply o
  | .mcv => e.mcvApply o
  | .wcp => e.wcpApply o
  | .xpt => (e.applied p o).showSlots
  | .sfe => e.sfeApply (fin4 (p - 0x79)) o
  | .tim => e.timApply o
  | _ => e.applied p o

/-- What waits to be written of a unit is written under the configuration it was stored in, before that configuration goes. -/
def Eng.settleWrites (e : Eng) (m : Mem) (p : Nat) : Eng × Mem :=
  match kindOf p with
  | .acq => e.flushAcq m (fin8 (p - 0x40))
  | .his => e.snapDone m (fin8 (p - 0x48))
  | _ => (e, m)

/-- Apply the shadows of a page, with DRAM. -/
def Eng.applyMem (e : Eng) (m : Mem) (p o : Nat) : Eng × Mem :=
  let x := e.settleWrites m p
  let e1 := x.1.applyPage p o
  (e1, if e1.epoch = x.1.epoch then x.2 else [])

end Sys2Proof.Machine
end

