-- ==== Sys2Proof/Machine/Commit.lean ====
section
/-! DEFINITION. CTL of a page (R33, R35, R40-R43, R82, R83, R85, R114) and commit groups (R44-R47). -/
namespace Sys2Proof.Machine

/-! ### Commits -/

/-- A refused commit; an OWNER refusal is also counted (R31, R36, R40). -/
def Eng.refuseCmt (e : Eng) (who : Src) (p : Nat) (c : Code) : Eng :=
  let e1 := e.refuseCommit who p c
  if c = .owner then e1.inc (vw who.code Pg.ENG) ENG.OWNER_CNT.COUNT else e1

/-- The owner code whose shadows a requester commits on a page: its own on WCP and EVR (R47). -/
def Eng.cmtOf (e : Eng) (who : Src) (p : Nat) : Nat := if p = Pg.WCP ∨ p = Pg.EVR then who.owner else e.owner p

/-- The function owns a comparator channel or a destination of a page that keeps commit state per function; the supervisor
owns these pages (R47). -/
def Eng.partHas (e : Eng) (o p : Nat) : Bool :=
  o == 8 || (p == Pg.WCP && (List.range 8).any fun n => e.wcpOwner n == o) ||
    (p == Pg.EVR && (List.range 64).any fun d => e.evrOwner d == o)

/-- A page whose CTL the function may not command although it sees the page: ENG's and PRT's one set of shadows is the
supervisor's, and WCP and EVR are commanded by functions with a part there (R31, R47, R49). -/
def Eng.ctlDenied (e : Eng) (who : Src) (p off : Nat) : Option Eng :=
  match e.denied who p off false with
  | some e' => some e'
  | none =>
    match who with
    | .part n =>
      if (p = Pg.WCP ∨ p = Pg.EVR) && e.partHas n p then none
      else if sharedPage p || viewWord p 0x10 || e.owner p != n then some (e.notOwner who off)
      else none
    | _ => none

/-- The reason of CAL_STS.ERR that a refused time set leaves (R349). -/
def Eng.setErrShown (e : Eng) (p : Nat) : Eng :=
  if kindOf p = .tim ∧ (e.setErr = 1 ∨ e.setErr = 2) then e.put p TIM.CAL_STS.ERR e.setErr else e

/-- CTL.COMMIT = 1 on a page other than CLK and ARR (R40, R47). -/
def Eng.pageCommit (e : Eng) (who : Src) (p : Nat) : Eng :=
  match e.ctlDenied who p 0x10 with
  | some e' => e'
  | none =>
    let o := e.cmtOf who p
    let code := match e.cmtCode [p] p o with
      | some .busy | none => if e.busyFor who p ∨ e.cmtPending p o ∨ e.cmtHeld p then some Code.busy else none
      | some c => some c
    match code with
    | some c => (if c = .range then e.setErrShown p else e).refuseCmt who p c
    | none =>
      let r := e.cmtReq [p] o
      match e.tixCause r with
      | some k => (e.tixRefused who r k).refuseCmt who p .noCredit
      | none => ({ e with resp := ⟨0, []⟩ }.grantTix r).put (hdrPage p o) HDR.STS.PENDING 1

/-- The enabled pages whose cost follows the arrangement, at their costs under arrangement `m` (R114). -/
def Eng.arrReq (e : Eng) (m : Nat) : TixReq :=
  ⟨(arrPages.filter fun p => e.en p).map fun p =>
    (p, (e.costAt m (max e.maxDiv 1) false p).1, (e.costAt m (max e.maxDiv 1) false p).2), 9, Pg.ARR, true⟩

/-- A channel that arrangement `m` removes is still in use (R114). -/
def Eng.arrBusy (e : Eng) (m : Nat) : Bool :=
  (List.range 4).any fun c => presentIn e.arr c && !presentIn m c &&
    (e.en (Pg.CNV c) || decide (e.owner (Pg.CNV c) < 8) || e.tapped c)

/-- CTL.COMMIT = 1 on ARR (R114, R118). -/
def Eng.arrCommit (e : Eng) (who : Src) : Eng :=
  let p := Pg.ARR
  let m := e.sh p ARR.ARR.MODE
  match e.denied who p 0x10 false with
  | some e' => e'
  | none =>
    if 2 < m then e.refuseCommit who p .range
    else if !e.quiescent then e.refuseCommit who p .quiesce
    else if e.busyFor who p ∨ e.arrBusy m ∨ e.cmtPending p 8 then e.refuseCommit who p .busy
    else
      match e.tixCause (e.arrReq m) with
      | some k => (e.tixRefused who (e.arrReq m) k).refuseCommit who p .noCredit
      | none => ({ e with resp := ⟨0, []⟩ }.grantTix (e.arrReq m)).put p HDR.STS.PENDING 1

/-- CTL.COMMIT = 1. -/
def Eng.commit (e : Eng) (who : Src) (p : Nat) : Eng :=
  match kindOf p with
  | .clk => e.clkCommit who
  | .arr => e.arrCommit who
  | _ => e.pageCommit who p

/-- A page of a grant that still waits for boost to be released (R85). -/
def Eng.waitsPower (e : Eng) (p : Nat) : Bool := e.bud.powerWait.any fun x => x % 256 == p || (p == Pg.ARR && arrPages.contains (x % 256))

/-- An enabled block stands at a commit point of R42 where the event meets it; a disabled one commits in the next CKC cycle. A
sequencer commits at its own re-arm, a sensor at the end of its period, CLK in its retune, KEY at a keyed command; an
accumulation unit with no record open, or at the end of a free run (R198, R199). -/
def Eng.atPoint (e : Eng) (p : Nat) : Bool :=
  match kindOf p with
  | .trg | .sfe => !e.en p
  | .acq =>
    let u := fin8 (p - 0x40)
    !e.armed u || (e.acq[u].rearm && e.acq[u].seg.isNone) || (!e.bit p ACQ.MODE.CAP && e.acq[u].cur.isNone)
  | .fch => !e.en p || e.atOutput (fin8 (p - 0x20))
  | .his =>
    let h := fin8 (p - 0x48)
    let r := e.his[h]
    !r.on || (if e.freeRun h then r.recW == 0 || decide (65536 ≤ r.recW) else r.cur.isNone)
  | .dmq => e.dmq[p - 0x88]?.all fun q => q.cur.isNone
  | .mcv => !e.en p || e.mcv.run.isNone
  | .key => false
  | .tim => !e.setWaits
  | .clk => false
  | _ => true

/-- A pending commit of one page reaches the commit point (R40, R42, R43). -/
def Eng.commitApply (e : Eng) (m : Mem) (p fn : Nat) : Eng × Mem :=
  let o := if p = Pg.WCP ∨ p = Pg.EVR then fn else e.owner p
  let q := hdrPage p o
  if e.bit q HDR.STS.PENDING && !e.bit q HDR.STS.GROUPED && !e.waitsPower p && e.atPoint p then
    let x := e.applyMem m p o
    (x.1.pgen o, x.2)
  else (e, m)

/-- CTL.ABORT = 1: a pending commit is withdrawn, or the whole group that the page is in (R41). -/
def Eng.abortOf (e : Eng) (p o : Nat) : Eng :=
  let q := hdrPage p o
  if e.bit q HDR.STS.GROUPED then
    match (List.range 10).find? fun v => viewOwner v == o && e.grpPending v && (e.grpMembers v).contains p with
    | some v => (e.grpEnd v).mcvStart
    | none => e
  else if e.bit q HDR.STS.PENDING then
    let e1 := e.put q HDR.STS.PENDING 0
    if p = Pg.ARR then arrPages.foldl (fun a x => a.relax x) e1
    else if p = Pg.MCV then (e1.relax p).mcvStart
    else e1.relax p
  else e

def Eng.abort (e : Eng) (who : Src) (p : Nat) : Eng :=
  match e.denied who p 0x10 true with
  | some e' => e'
  | none =>
    match who with
    | .part n =>
      if sharedPage p && !((p = Pg.WCP ∨ p = Pg.EVR) && e.partHas n p) || viewWord p 0x10 then e.notOwner who 0x10
      else if e.busyFor who p then e.refuse who p 0x10 .busy
      else { e with resp := ⟨0, []⟩ }.abortOf p (e.cmtOf who p)
    | _ =>
      if e.busyFor who p then e.refuse who p 0x10 .busy
      else { e with resp := ⟨0, []⟩ }.abortOf p (e.cmtOf who p)

/-! ### CTL.EN -/

/-- The page's resource is being taken away or reset: an enable is not taken (DESIGN CHOICE, log entry 40). -/
def Eng.leaving (e : Eng) (p : Nat) : Bool :=
  e.drainsFor (.revoke p) || e.drainsFor (.blk p) || e.rst.blk.any fun x => x.1 == p

/-- The first check that CTL.EN = 1 fails on a page, tickets apart (R59, R65, R100, R129, R177). -/
def Eng.enCode (e : Eng) (who : Src) (p : Nat) : Option Code :=
  let o := e.owner p
  let owner := match kindOf p with
    | .fch => !e.mayUse o (e.get p FCH.INPUT.CH)
    | .trg => e.cmtOwner [p] p o
    | _ => false
  let range := match kindOf p with
    | .cnv => !presentIn e.arrNext (p - 0x10)
    | .trg => e.cmtRange [p] p o
    | _ => false
  let busy := e.busyFor who p || e.suspended who || e.leaving p ||
    (kindOf p == .cnv && e.bit (p + 8) CAL.STS.REWARM)
  if owner then some .owner else if range then some .range else if busy then some .busy else none

/-- The tickets CTL.EN = 1 asks for; a sequencer's shadows apply with the enable (R82, R177). -/
def Eng.enReq (e : Eng) (p : Nat) : TixReq :=
  let c := tixMax (e.costNow (kindOf p == .trg || e.bit p HDR.STS.PENDING) p) (e.costNow (kindOf p == .trg) p)
  ⟨[(p, c.1, c.2)], e.owner p, p, true⟩

/-- CTL.EN = 1 granted: CTL.EN shows it, and the block powers up, after the release where boost was reclaimed (R82, R85). -/
def Eng.enGrant (e : Eng) (p : Nat) : Eng :=
  let e1 := (e.grantTix (e.enReq p)).put p HDR.CTL.EN 1
  if e1.bud.powerWait.contains p then e1.onBud fun b => { b with powerWait := b.powerWait ++ [p + 256] } else e1.powerOn p

/-- CTL.EN = 1. On a block that is already enabled it changes nothing and is taken, in a SUSPENDED partition too (R65; DESIGN
CHOICE, log entry 70). -/
def Eng.enSet (e : Eng) (who : Src) (p : Nat) : Eng :=
  match e.ctlDenied who p 0x10 with
  | some e' => e'
  | none =>
    if kindOf p = .dma then
      if e.busyFor who p then e.refuse who p 0x10 .busy else { e with dmaStop := false, resp := ⟨0, []⟩ }
    else if e.en p then { e with resp := ⟨0, []⟩ }
    else
      match e.enCode who p with
      | some .owner => e.refuseOwner who p 0x10
      | some c => e.refuse who p 0x10 c
      | none =>
        match e.tixCause (e.enReq p) with
        | some k => (e.tixRefused who (e.enReq p) k).refuse who p 0x10 .noCredit
        | none => { e with resp := ⟨0, []⟩ }.enGrant p

/-- CTL.EN falls: a page that serves an outrun falls at its end (R287). -/
def Eng.enOff (e : Eng) (p : Nat) : Eng :=
  if e.servesOutrun p then
    if e.xpt.deferred.contains (0, p) then e else { e with xpt := { e.xpt with deferred := e.xpt.deferred ++ [(0, p)] } }
  else
    let e1 := (e.disable p 13).onBud fun b => { b with powerWait := b.powerWait.filter fun x => x % 256 != p }
    (if kindOf p = .mcv then e1.mcvStart else e1).runDeferred

/-- CTL.EN = 0: a safe-direction write, which the supervisor may make on every page (R66, R83, R325). -/
def Eng.enClear (e : Eng) (who : Src) (p : Nat) : Eng :=
  match e.denied who p 0x10 true with
  | some e' => e'
  | none =>
    if who.owner < 8 ∧ (sharedPage p ∨ viewWord p 0x10) then e.notOwner who 0x10
    else if e.busyFor who p then e.refuse who p 0x10 .busy
    else
      let e0 := { e with resp := ⟨0, []⟩ }
      if kindOf p = .dma then { e0 with dmaStop := true }
      else if fixedEn p ∨ !e.en p then e0
      else e0.enOff p

/-- CTL.XU: the page's owner writes it, so a partition does on no shared page (R35). -/
def Eng.xuSet (e : Eng) (who : Src) (p : Nat) (on : Bool) : Eng :=
  let held := match who with
    | .part n => !e.bit Pg.PRT (PRT.P_CFG.XA n)
    | _ => false
  match e.ctlDenied who p 0x10 with
  | some e' => e'
  | none =>
    if who.owner < 8 ∧ sharedPage p then e.notOwner who 0x10
    else if on && held then e.refuse who p 0x10 .locked
    else if e.busyFor who p then e.refuse who p 0x10 .busy
    else { e with resp := ⟨0, []⟩ }.putB p HDR.CTL.XU on

/-- Boost has been released: blocks whose grant waited for it power up (R85). -/
def Eng.powerUps (e : Eng) : Eng :=
  if 0 ≤ e.freeC then
    (e.bud.powerWait.filter fun x => decide (256 ≤ x)).foldl (fun a x => if a.en (x % 256) then a.powerOn (x % 256) else a)
      (e.onBud fun b => { b with powerWait := [] })
  else e

/-! ### Commit groups (R44-R47) -/

/-- A member that the requester may not name. -/
def Eng.grpForeign (e : Eng) (who : Src) (p : Nat) : Bool :=
  if p = Pg.WCP ∨ p = Pg.EVR then !e.partHas who.owner p
  else
    match who with
    | .part n => sharedPage p || e.owner p != n
    | .host => e.owner p != 8
    | .manager => e.owner p != 8 || p == Pg.PRT

/-- A member that may not join a group, or that is not there. -/
def Eng.grpBad (e : Eng) (p : Nat) : Bool :=
  match kindOf p with
  | .clk | .arr | .key | .none => true
  | _ => e.fusedOff p

/-- Members that fail a class of checks, in the order of R36. -/
def Eng.grpFails (e : Eng) (who : Src) (ms : List Nat) : Code → List Nat
  | .owner => ms.filter fun p => e.grpForeign who p || e.cmtOwner ms p (e.cmtOf who p)
  | .range => ms.filter fun p => e.grpBad p || e.cmtRange ms p (e.cmtOf who p)
  | .quiesce => ms.filter fun p => e.cmtQuiesce p
  | .busy => ms.filter fun p => e.busyFor who p || e.cmtPending p (e.cmtOf who p) || e.cmtHeld p
  | _ => []

/-- The first code that some member fails, with those members. -/
def Eng.grpCode (e : Eng) (who : Src) (ms : List Nat) : Option (Code × List Nat) :=
  ([Code.owner, .range, .quiesce, .busy].map fun c => (c, e.grpFails who ms c)).find? fun x => !x.2.isEmpty

/-- A refused GO: ERR in the function's view of ENG, CMT_REFUSED on the offending members it owns. -/
def Eng.grpRefuse (e : Eng) (who : Src) (bad : List Nat) (c : Code) : Eng :=
  let e1 := bad.foldl (fun a p =>
    if !e.grpForeign who p && kindOf p != .none then a.ist (hdrPage p (e.cmtOf who p)) HDR.IST.CMT_REFUSED else a) e
  let e2 := if bad.contains Pg.TIM && c == .range then e1.setErrShown Pg.TIM else e1
  let e3 := e2.refuse who Pg.ENG 0xA0 c
  if c = .owner then e3.inc (vw who.code Pg.ENG) ENG.OWNER_CNT.COUNT else e3

/-- The one request of a GO for all its members (R82). -/
def Eng.grpReq (e : Eng) (ms : List Nat) (o : Nat) : TixReq := { e.cmtReq ms o with always := true }

/-- An accepted GO marks every member and takes the tickets in one request. "The next GO" that clears DONE and TIMEOUT is the
next accepted one: a refused GO leaves both (R7, R49; DESIGN CHOICE, log entry 68). -/
def Eng.grpAccept (e : Eng) (who : Src) (ms : List Nat) : Eng :=
  let v := vw who.code Pg.ENG
  let e1 := e.grantTix (e.grpReq ms who.owner)
  let e2 := ms.foldl (fun a p =>
    let q := hdrPage p (e.cmtOf who p)
    (a.put q HDR.STS.GROUPED 1).put q HDR.STS.PENDING 1) e1
  (((e2.put v ENG.GRP_STS.PENDING 1).put v ENG.GRP_STS.DONE 0).put v ENG.GRP_STS.TIMEOUT 0)

/-- GRP_CTL.GO (R44). -/
def Eng.grpGo (e : Eng) (who : Src) : Eng :=
  let ms := e.grpMembers who.code
  match e.denied who Pg.ENG 0xA0 false with
  | some e' => e'
  | none =>
    match e.grpCode who ms with
    | some (.busy, bad) => e.grpRefuse who bad .busy
    | some (c, bad) => e.grpRefuse who bad c
    | none =>
      if e.busyFor who Pg.ENG ∨ e.grpPending who.code then e.refuse who Pg.ENG 0xA0 .busy
      else
        let r := e.grpReq ms who.owner
        match e.tixCause r with
        | some k =>
          (e.tixRefused who r k).grpRefuse who ((r.pages.filter fun x => e.heldC x.1 < x.2.1 || e.heldA x.1 < x.2.2).map (·.1)) .noCredit
        | none => { e with resp := ⟨0, []⟩ }.grpAccept who ms

/-- A member stands at its commit point, where it is held (R42, R45, R47): a sequencer before gate 0, an acquisition before its
re-arm. -/
def Eng.atHold (e : Eng) (p : Nat) : Bool :=
  match kindOf p with
  | .trg => !e.en p || e.trg[fin8 (p - 0x30)].held
  | .acq =>
    let u := fin8 (p - 0x40)
    !e.armed u || e.acq[u].held || (!e.bit p ACQ.MODE.CAP && e.acq[u].cur.isNone)
  | .tim => true
  | _ => e.atPoint p || kindOf p == .sfe

def Eng.memberReady (e : Eng) (v p : Nat) : Eng :=
  if e.grpPending v && (e.grpMembers v).contains p && !e.grpReady.contains (v, p) && e.atHold p then
    let e1 := { e with grpReady := e.grpReady ++ [(v, p)] }
    if p = Pg.MCV then e1.mcvStart else e1
  else e

def Eng.grpAllReady (e : Eng) (v : Nat) : Bool := (e.grpMembers v).all fun p => e.grpReady.contains (v, p)

/-- Every member is ready: all apply in one cycle (R45). -/
def Eng.grpApply (e : Eng) (m : Mem) (v : Nat) : Eng × Mem :=
  let ms := e.grpMembers v
  if e.grpPending v && e.grpAllReady v && ms.all (fun p => !e.waitsPower p) then
    let o := viewOwner v
    let x := ms.foldl (fun a p =>
      let y := a.1.applyMem a.2 p o
      (y.1.unhold p, y.2)) (e, m)
    let w := vw v Pg.ENG
    let e1 := ((x.1.pgen o).put w ENG.GRP_STS.PENDING 0).put w ENG.GRP_STS.DONE 1
    ({ e1.inc w ENG.GRP_APPLIED_CNT.COUNT with grpReady := e1.grpReady.filter fun y => y.1 != v }, x.2)
  else (e, m)

/-- COMMIT_TMO passed with a member not ready (R46): BUSY with SRC = engine; the members' CMT_REFUSED is DEDUCED from R36
(log entry 41). -/
def Eng.grpTimeout (e : Eng) (v : Nat) : Eng :=
  let ms := e.grpMembers v
  if e.grpPending v && !e.grpAllReady v then
    let lag := (ms.find? fun p => !e.grpReady.contains (v, p)).getD 0
    let e1 := (e.grpEnd v).mcvStart
    let e2 := ms.foldl (fun a p => a.ist (hdrPage p (viewOwner v)) HDR.IST.CMT_REFUSED) e1
    let w := vw v Pg.ENG
    let e3 := ((e2.put w ENG.GRP_STS.TIMEOUT 1).put w ENG.GRP_STS.LAGGARD lag).inc w ENG.GRP_TIMEOUT_CNT.COUNT
    { e3.errAt w 0xA0 0xA .busy with resp := e.resp }
  else e

/-- GRP_CTL.CANCEL (R46). The group ends as at a timeout; TIMEOUT and LAGGARD, which tell of a timeout, are left alone (DESIGN
CHOICE, log entry 68). -/
def Eng.grpCancel (e : Eng) (who : Src) : Eng :=
  match e.denied who Pg.ENG 0xA0 false with
  | some e' => e'
  | none =>
    if e.busyFor who Pg.ENG then e.refuse who Pg.ENG 0xA0 .busy
    else ({ e with resp := ⟨0, []⟩ }.grpEnd who.code).mcvStart

/-! ### The commands -/

def execCtlEnSet (who : Src) (page : Fin 256) : State → Host.Outcome State Fault Refusal := onEng fun e => e.enSet who page
def execCtlEnClear (who : Src) (page : Fin 256) : State → Host.Outcome State Fault Refusal := onEng fun e => e.enClear who page
def execCtlCommit (who : Src) (page : Fin 256) : State → Host.Outcome State Fault Refusal := onEng fun e => e.commit who page
def execCommitApply (page : Fin 256) (fn : Fin 9) : State → Host.Outcome State Fault Refusal :=
  onBoth fun e m => e.commitApply m page fn
def execCtlAbort (who : Src) (page : Fin 256) : State → Host.Outcome State Fault Refusal := onEng fun e => e.abort who page
def execCtlXu (who : Src) (page : Fin 256) (on : Bool) : State → Host.Outcome State Fault Refusal := onEng fun e => e.xuSet who page on
def execBoostReclaimPowerup : State → Host.Outcome State Fault Refusal := onEng Eng.powerUps
def execArrCommit (who : Src) : State → Host.Outcome State Fault Refusal := onEng fun e => e.arrCommit who
def execGrpGo (who : Src) : State → Host.Outcome State Fault Refusal := onEng fun e => e.grpGo who
def execGrpMemberReady (view : Fin 10) (page : Fin 256) : State → Host.Outcome State Fault Refusal := onEng fun e => e.memberReady view page
def execGrpApply (view : Fin 10) : State → Host.Outcome State Fault Refusal := onBoth fun e m => e.grpApply m view
def execGrpTimeout (view : Fin 10) : State → Host.Outcome State Fault Refusal := onEng fun e => e.grpTimeout view
def execGrpCancel (who : Src) : State → Host.Outcome State Fault Refusal := onEng fun e => e.grpCancel who

end Sys2Proof.Machine
end

