-- ==== Sys2Proof/Machine/Read.lean ====
section
/-! DEFINITION. What a read of a register word returns (R30-R33, R38, R39): the stored fields, the words that follow the rest of
the state, each function's view, and the snapshot of a wide field. -/
namespace Sys2Proof.Machine

/-! ### Views and the header -/

/-- The page under which the store keeps a word for a requester: registers that exist once per function are kept in its view
(R47, R49, R78, R97, R253, R330, R340). The supervisor's PGEN is one (R43). ENG's IST and IEN, which tell of ERR, are kept once
per function as ERR is (R49; DESIGN CHOICE, log entry 69). -/
def viewPage (who : Src) (p off : Nat) : Nat :=
  match kindOf p with
  | .eng =>
    if off = 0x4C then vw who.owner p
    else if [0x18, 0x1C, 0x20, 0x50, 0xA0, 0xA4, 0xE00, 0xE04].contains off ∨ 0x80 ≤ off ∧ off < 0xA0 then vw who.code p else p
  | .wcp | .evr => if off = 0x0C ∨ 0x18 ≤ off ∧ off ≤ 0x20 then hdrPage p who.owner else p
  | .prt => if off = 0x50 ∨ off = 0x54 then vw who.code p else p
  | .bud => if off = 0x58 then vw who.code p else p
  | .mcv => if off = 0xC0 ∨ 0xD0 ≤ off ∧ off ≤ 0xE8 then vw who.code p else p
  | .pci => if [0x18, 0x1C, 0x48, 0x4C, 0x50, 0xE04].contains off then vw who.code p else p
  | .key =>
    if [0x18, 0x1C, 0x94, 0xF4, 0xF8].contains off ∨ 0x40 ≤ off ∧ off < 0x88 ∨ 0xA0 ≤ off ∧ off < 0xE0 then vw who.code p else p
  | _ => p

/-- The first page number of a page's block family (R33 PID.TYPE). -/
def familyOf (p : Nat) : Nat :=
  match kindOf p with
  | .cnv => 0x10 | .cal => 0x18 | .fch => 0x20 | .trg => 0x30 | .acq => 0x40 | .his => 0x48 | .dmc => 0x60 | .sfe => 0x79
  | .dmq => 0x88 | .mln0 | .mln1 => 0xB0
  | _ => p

/-- PID: type, instance, version, format 1. -/
def pidWord (p : Nat) : Nat :=
  let t := familyOf p
  t + 2 ^ 8 * (p - t) + 2 ^ 16 * (Config.pidVer t).toNat + 2 ^ 24

/-- Some part of the page is visible to more than one function (R33). -/
def Eng.sharedShown (e : Eng) (p : Nat) : Bool :=
  sharedPage p || [Pg.FROM, Pg.TIM, Pg.BUD, Pg.FLT, Pg.RST, Pg.PCI].contains p ||
    ((kindOf p == .cnv || kindOf p == .cal) && e.tapped (p % 4))

/-- OWN: owner, shared, leased, taps. -/
def Eng.ownWord (e : Eng) (p : Nat) : Nat :=
  let leased := match leaseOf p with
    | some r => decide (e.owner p < 8 ∧ e.leaseState r ≠ 0)
    | none => false
  let taps := if kindOf p = .cnv ∨ kindOf p = .cal then e.get Pg.PRT (PRT.TAP_CNV.TAP (p % 4)) else 0
  e.owner p + 16 * (e.sharedShown p).toNat + 32 * leased.toNat + 256 * taps

/-- TIX: tickets held, and what the block would hold with CTL.EN = 1 and its shadows applied. -/
def Eng.tixWord (e : Eng) (p : Nat) : Nat :=
  let need := if costed p then e.cost true p else (e.heldC p, e.heldA p)
  min (e.heldC p) 255 + 2 ^ 8 * min need.1 255 + 2 ^ 16 * min (e.heldA p) 255 + 2 ^ 24 * min need.2 255

/-- STS as a function sees it: the commit bits of WCP and EVR are its own (R47). -/
def Eng.stsSeen (e : Eng) (p o : Nat) : Nat :=
  if p = Pg.WCP ∨ p = Pg.EVR then
    let low := e.rawWord p 0x14 % 2 ^ 29
    low + 2 ^ 29 * e.get (hdrPage p o) HDR.STS.GROUPED + 2 ^ 30 * (e.dirty p o).toNat + 2 ^ 31 * e.get (hdrPage p o) HDR.STS.PENDING
  else e.stsWord p

/-! ### Words that follow the rest of the state -/

/-- RS in kHz, rounded; until the straps give a setting, the reset value of RS_FREQ, 20 GHz (R29). -/
def Eng.rsKhz (e : Eng) : Nat := if e.fused then (2 * e.rsNum + 1000 * e.rsDen) / (max (2000 * e.rsDen) 1) else 20000000

/-- A quantity in a signed field of 11 bits and one of 11 bits from bit 16 (FREE). -/
def pair11 (c a : Int) : Nat := unsigned 11 c + 2 ^ 16 * unsigned 11 a

/-- One record of the fault queue, eight words (R384). -/
def FltRec.words (r : FltRec) : List Nat :=
  [r.tRaise % 2 ^ 32, r.tRaise / 2 ^ 32 % 2 ^ 32, r.tRaise / 2 ^ 64 % 2 ^ 32,
   r.page + 2 ^ 8 * r.index + 2 ^ 16 * (r.sev + 4 * r.st) + 2 ^ 24 * r.part, r.seq + 2 ^ 16 * r.reps, r.detail,
   r.tLast % 2 ^ 32, r.tLast / 2 ^ 32 % 2 ^ 32]

/-- Passband edge and stopband edge of a ROM response in 1/1024 Fo, rounded (DESIGN CHOICE, log entry 6), and its attenuation
and ripple (R144, R157). A ripple that the manual does not give is a free value. -/
def romDirectory (r : Nat) : Nat × Nat × Nat × Nat :=
  let i := if 12 ≤ r ∧ r ≤ 22 then r - 12 else r
  if i < 4 then (410, 512, 50 + 20 * i, [50, 20, 10, 5].getD i 0)
  else if i < 8 then (256, 512, 60 + 20 * (i - 4), 20)
  else if r = 23 then (82, 256, 40, (Config.freeRipple r).toNat)
  else ([51, 102, 205, 307].getD (i - 8) 0, [128, 256, 512, 768].getD (i - 8) 0, 60, (Config.freeRipple i).toNat)

/-- Word `w` of FROM entry `r`. -/
def romWord (r w : Nat) : Nat :=
  let d := romDirectory r
  if w = 0 then (if r = 23 then 2 else (romMin r).toNat) + 2 ^ 8 * romM r
  else if w = 1 then d.1 + 2 ^ 16 * d.2.1
  else if w = 2 then d.2.2.1 + 2 ^ 8 * d.2.2.2
  else if w < 7 then romGd r (2 * (w - 3)) + 2 ^ 16 * romGd r (2 * (w - 3) + 1)
  else 0

/-- CAL_NOW0 and CAL_NOW1 (R349). -/
def Eng.calNow (e : Eng) : Nat × Nat :=
  if e.calValid then
    let s := e.utc.toNat
    let d := dateOf (s / 86400)
    (s % 60 + 2 ^ 8 * (s / 60 % 60) + 2 ^ 16 * (s / 3600 % 24) + 2 ^ 24 * weekday (s / 86400), d.2.2 + 2 ^ 8 * d.2.1 + 2 ^ 16 * d.1)
  else (0, 0)

/-- GRANT_DMQ: the owners of eight rings from ring `b` (R55, R78). -/
def Eng.dmqOwners (e : Eng) (b : Nat) : Nat := (List.range 8).foldl (fun a i => a + e.owner (Pg.DMQ (b + i)) * 2 ^ (4 * i)) 0

/-- ARR.CORE_MAP: the channel of each core, 0 for a fused-off one (R98, R118). -/
def Eng.coreMap (e : Eng) : Nat :=
  (List.range 4).foldl (fun a c => (coresIn e.dev.ly6440 e.arr c).foldl (fun b k => b + c * 4 ^ k) a) 0

/-- Words of the open period for a partition (R366): M0, M1, M2 low, M2 high, M3, M4. -/
def Eng.useWord (e : Eng) (n w : Nat) : Nat :=
  let u := e.useUnits n
  let m (i : Nat) := u.getD i 0
  if w = 2 then m 2 % 2 ^ 32 else if w = 3 then m 2 / 2 ^ 32 % 2 ^ 16
  else min ([m 0, m 1, 0, 0, m 3, m 4].getD w 0) (2 ^ 32 - 1)

/-- KEY.SLOTS (R364). -/
def Eng.slotsWord (e : Eng) : Nat :=
  (List.range 4).foldl (fun a s => a + 2 ^ (8 * s) * ((e.keySlot s).st + 16 * (e.keySlot s).mask)) 0

/-- DBG is open to the requester (R339). -/
def Eng.dbgOpen (e : Eng) (who : Src) : Bool := decide (8 ≤ who.code) && e.key.dbg == some (senderOf who)

/-- A word that is not kept as fields, if this is one. Words whose content the manual leaves open (trace words, DMA
throughput, glitch and correctable error counts) are free values (log entry 43). -/
def Eng.derived (e : Eng) (who : Src) (p off : Nat) : Option Nat :=
  let free := (Config.freeWord e.freeCtr).toNat
  if off = 0x00 then some (pidWord p)
  else if off = 0x04 then some (e.ownWord p)
  else if off = 0x08 then some (e.tixWord p)
  else if off = 0x10 then some ((e.en p).toNat + 8 * e.get p HDR.CTL.XU + 16 * e.get p HDR.CTL.RDLIVE)
  else if off = 0x14 then some (e.stsSeen p who.owner)
  else
    match kindOf p with
    | .eng =>
      if off = 0x40 then
        some (e.dev.ly6440.toNat + 2 ^ 8 * (if e.dev.ly6440 then 8 else 16) + 2 ^ 16 * (2 ^ e.nDmc - 1) + 2 ^ 24 * e.nParts)
      else if off = 0x44 then some e.rsKhz
      else if off = 0x48 then some e.div
      else none
    | .bud =>
      if off = 0x48 then some (e.sumC + 2 ^ 16 * e.sumA)
      else if off = 0x4C then some (pair11 e.freeC e.freeA)
      else if off = 0x50 then some e.bud.boost
      else if off = 0x54 then some (e.ownC who.owner + 2 ^ 16 * e.ownA who.owner)
      else none
    | .clk => if off = 0x54 then some e.rsKhz else none
    | .flt =>
      if 0x100 ≤ off ∧ off < 0x500 then some (((e.flt.getD ((off - 0x100) / 32) FltRec.free).words).getD ((off - 0x100) / 4 % 8) 0) else none
    | .tim =>
      if 0x40 ≤ off ∧ off < 0x4C then some (tb96 e.tb / 2 ^ (8 * (off - 0x40)) % 2 ^ 32)
      else if off = 0x70 then some e.calNow.1
      else if off = 0x74 then some e.calNow.2
      else none
    | .usage => if 0x100 ≤ off ∧ off < 0x200 ∧ off % 32 < 24 then some (e.useWord ((off - 0x100) / 32) (off / 4 % 8)) else none
    | .key => if off = 0xE0 then some e.slotsWord else none
    | .prt =>
      if off = 0x328 then some (e.dmqOwners 0)
      else if off = 0x32C then some (if e.dev.ly6440 then 0 else e.dmqOwners 8)
      else
      match who with
      | .part n =>
        if off = 0x40 then some (n + 2 ^ 8 * e.partState n)
        else if off = 0x48 then
          some ((List.range 7).foldl (fun a r => if e.owner (leasePage r) = n.val then a + e.leaseState r * 4 ^ r else a) 0)
        else none
      | _ =>
        if off = 0x40 ∨ off = 0x48 ∨ off = 0x50 ∨ off = 0x54 then some 0
        else if off = 0x60 then some (bitsOf ((List.range 8).filter fun n => e.created n))
        else if 0x100 ≤ off ∧ off < 0x300 ∧ e.noPart ((off - 0x100) / 0x40) then some 0
        else none
    | .cnv =>
      let c := p - 0x10
      if off = 0x48 then some (bitsOf (coresIn e.dev.ly6440 e.arr c))
      else if off = 0x4C then some (e.spw c)
      else if off = 0x54 then some (fsMv (e.get p CNV.INPUT.GAIN))
      else none
    | .arr =>
      if off = 0x44 then some (e.arr + 2 ^ 8 * bitsOf ((List.range 4).filter fun c => presentIn e.arr c))
      else if off = 0x48 then some e.coreMap
      else if off = 0x4C then some (if e.dev.ly6440 then 0x3333 else 0xFFFF)
      else none
    | .fch =>
      if off = 0x4C then
        let s := e.get p FCH.COEF_CFG.SYM
        some (e.get p FCH.COEF_CFG.LEN + 2 ^ 16 * s + 2 ^ 17 * (if s = 1 then 0 else e.get p FCH.COEF_CFG.PHASE))
      else none
    | .rom => if 0x40 ≤ off ∧ off < 0x340 then some (romWord ((off - 0x40) / 32) ((off - 0x40) / 4 % 8)) else none
    | .trg => if off = 0x70 then some (e.rawWord p off + 2 ^ 8 * e.trgPhase (fin8 (p - 0x30))) else none
    | .evr =>
      if off = 0x50 ∨ off = 0x54 then some (bitsOf ((e.evr.dst.filter fun d => d / 32 = (off - 0x50) / 4).map fun d => d % 32)) else none
    | .xpt =>
      if off = 0x44 then some (unsigned 48 e.xpt.pos % 2 ^ 32)
      else if off = 0x48 then some (unsigned 48 e.xpt.pos / 2 ^ 32)
      else if off = 0xE04 then some free
      else none
    | .pci => if off = 0xE08 then some free else none
    | .dma => if off = 0x40 then some (min (e.dmaRate false) 65535 + 2 ^ 16 * min (e.dmaRate true) 65535) else none
    | .dbg => if 0x100 ≤ off then some free else none
    | _ => none

/-! ### Fields -/

/-- The part of a field that the word at `off` shows. -/
def Fld.part (f : Fld) (off v : Nat) : Nat := v * 2 ^ f.lo / 2 ^ (8 * (off - f.off)) % 2 ^ 32

/-- What a read shows of a field: nothing of a write-only one; of a staged one its shadow, or its live value under RDLIVE
(R39). -/
def Eng.shown (e : Eng) (vp p : Nat) (r : Row) : Nat :=
  match r.acc with
  | .wo => 0
  | .rws | .rwls => if e.bit p HDR.CTL.RDLIVE then e.get p r.f else e.sh p r.f
  | _ => e.get vp r.f

/-- A word from its stored fields. -/
def Eng.fieldWord (e : Eng) (vp p off : Nat) : Nat :=
  (rowsAt (kindOf p) off).foldl (fun a r => a + r.f.part off (e.shown vp p r)) 0 % 2 ^ 32

/-- A word as the owner of the page sees it. -/
def Eng.wordAt (e : Eng) (who : Src) (p off : Nat) : Nat := (e.derived who p off).getD (e.fieldWord (viewPage who p off) p off)

/-! ### What a partition sees of a shared page -/

/-- Bits of a mask of eight fields of `w` bits that belong to the numbers that satisfy a test. -/
def fieldMask (k w : Nat) (q : Nat → Bool) : Nat := (List.range k).foldl (fun a i => if q i then a + (2 ^ w - 1) * 2 ^ (w * i) else a) 0

/-- Nibble `i` of the word at `off` is an owner code of PRT (R78); the other bits of the grant registers are reserved. -/
def grantNibble (off i : Nat) : Bool :=
  off == 0x328 || off == 0x32C || (rowsAt .prt off).any fun r => r.f.off == off && r.f.lo == 4 * i

/-- Nibbles of a grant register that a partition does not own read 0xF (ch. 3, "PRT page"); reserved ones read 0 (R5). -/
def grantSeen (n off w : Nat) : Nat :=
  (List.range 8).foldl (fun a i =>
    let x := w / 16 ^ i % 16
    a + (if !grantNibble off i then 0 else if x = n then x else 0xF) * 16 ^ i) 0

/-- The word of a shared page in partition `n`'s view. -/
def Eng.partSees (e : Eng) (n : Fin 8) (p off w : Nat) : Nat :=
  match kindOf p with
  | .bud => if off = 0x00 ∨ off = 0x14 ∨ off = 0x54 ∨ off = 0x58 then w else 0
  | .rst => 0
  | .flt => if 0x100 ≤ off ∧ off < 0x500 ∧ (e.flt.getD ((off - 0x100) / 32) FltRec.free).part = n.val then w else 0
  | .prt =>
    if [0x00, 0x04, 0x08, 0x0C, 0x10, 0x40, 0x48, 0x50, 0x54].contains off then w
    else if 0x100 ≤ off ∧ off < 0x300 ∧ (off - 0x100) / 0x40 = n.val then w
    else if off = 0x304 then (List.range 4).foldl (fun a c => if e.taps c n then a + (w / 2 ^ (8 * c) % 256) * 2 ^ (8 * c) else a) 0
    else if 0x300 ≤ off ∧ off < 0x360 then grantSeen n off w
    else 0
  | .wcp =>
    let own (c : Nat) : Bool := e.wcpOwner c == n.val
    if off = 0x14 then (w &&& fieldMask 8 1 own) + (w / 2 ^ 8 &&& fieldMask 8 1 own) * 2 ^ 8 + w / 2 ^ 29 * 2 ^ 29
    else if off < 0x40 then w
    else if off = 0x40 then w &&& fieldMask 8 2 own
    else if 0x100 ≤ off ∧ off < 0x200 then (if own ((off - 0x100) / 32) then w else 0)
    else if 0xE00 ≤ off ∧ off < 0xE20 then (if own ((off - 0xE00) / 4) then w else 0)
    else 0
  | .evr =>
    let own (d : Nat) : Bool := e.evrOwner d == n.val
    if off < 0x40 then w
    else if off = 0x40 ∨ off = 0x44 then w &&& fieldMask 16 1 fun k => own (48 + k)
    else if off = 0x50 ∨ off = 0x54 then w &&& fieldMask 32 1 fun k => own (8 * (off - 0x50) + k)
    else if 0x100 ≤ off ∧ off < 0x300 then (if own ((off - 0x100) / 8) then w else 0)
    else 0
  | _ => w

/-! ### A read -/

/-- The words that a read of a wide field's lowest word captures: those of the wide RO and RW fields that begin there, and
CAL_NOW1 with CAL_NOW0 (R38, R365). -/
def captured (p off : Nat) : List Nat :=
  let ws := ((rowsAt (kindOf p) off).filter fun r => r.f.off == off && decide (1 < r.f.words) && r.acc != .rws && r.acc != .rwls).flatMap fun r =>
    (List.range (r.f.words - 1)).map fun i => off + 4 * (i + 1)
  if p = Pg.TIM ∧ off = 0x70 then [0x74] else ws

/-- The word is an upper word of a wide RO or RW field. -/
def isUpper (p off : Nat) : Bool :=
  (p == Pg.TIM && off == 0x74) ||
    (rowsAt (kindOf p) off).any fun r => decide (r.f.off < off) && r.acc != .rws && r.acc != .rwls

/-- Where a latched or captured word is kept. -/
def wordKey (vp off : Nat) : Nat := (vp * 4096 + off) * 128

/-- No word: what an unlisted entry of the latch and the snapshot reads as. -/
def noWord : Nat := 2 ^ 32

/-- The read of a word by a requester that sees the page. -/
def Eng.readShown (e : Eng) (who : Src) (p off : Nat) : Eng :=
  let vp := viewPage who p off
  let seen (a : Nat) : Nat :=
    match who with
    | .part n => e.partSees n p a (e.wordAt who p a)
    | _ => e.wordAt who p a
  let s := Store.get e.snap (wordKey vp off) noWord
  let w := if isUpper p off ∧ s ≠ noWord then s else seen off
  let e1 := (captured p off).foldl (fun a o => { a with snap := Store.put a.snap (wordKey vp o) (seen o) noWord }) e
  { e1.fresh with resp := ⟨0, [w]⟩ }

/-- A read of one word. A read of COEF_DATA counts COEF_ADDR on, one of RX_TRIG0 takes the oldest entry (R146, R380). -/
def Eng.readWord (e : Eng) (who : Src) (p off : Nat) : Eng :=
  match e.readDenied who p off with
  | some e' => e'
  | none =>
    if p = Pg.DBG ∧ !e.dbgOpen who then { e with resp := ⟨0, [0]⟩ }
    else if kindOf p = .fch ∧ off = 0x58 then e.coefRead (fin8 (p - 0x20))
    else if p = Pg.MLN0 ∧ off = 0x60 then e.rxPop who
    else e.readShown who p off

end Sys2Proof.Machine
end

