-- ==== Sys2Proof/Machine/Bus.lean ====
section
/-! DEFINITION. A write of a register word: CTL, the words that a command of the table gives a meaning, every other word (R7,
R36-R39), contests of host and manager (R324-R327), and the frames of the management port (R319-R322). -/
namespace Sys2Proof.Machine

/-- What a command does. -/
abbrev Cmd := State → Host.Outcome State Fault Refusal

/-- The second command follows where the first was not refused. -/
def andThen (f g : Cmd) (s : State) : Host.Outcome State Fault Refusal :=
  match f s with
  | .next t => if t.eng.resp.code = 0 then g t else .next t
  | o => o

/-! ### CTL as one word -/

/-- The first check that a commit fails, tickets apart. -/
def Eng.commitCode (e : Eng) (who : Src) (p : Nat) : Option Code :=
  let o := e.cmtOf who p
  match kindOf p with
  | .clk => if !e.synOk then some .range else if !e.quiescent then some .quiesce else if e.cmtPending p 8 ∨ e.retune then some .busy else none
  | .arr =>
    let m := e.sh p ARR.ARR.MODE
    if 2 < m then some .range else if !e.quiescent then some .quiesce else if e.arrBusy m ∨ e.cmtPending p 8 then some .busy else none
  | _ => e.cmtCode [p] p o

/-- Codes in the order of R36. -/
def Code.rank : Code → Nat
  | .conflict => 0 | .owner => 1 | .locked => 2 | .range => 3 | .quiesce => 4 | .busy => 5 | .noCredit => 6 | .auth => 7 | .stale => 8
  | .ok => 9

def firstCode (l : List (Option Code)) : Option Code :=
  l.foldl (fun a c =>
    match a, c with
    | some x, some y => if y.rank < x.rank then some y else a
    | none, _ => c
    | _, none => a) none

/-- A write of CTL whole: refused whole by the first check that any of its fields fails (R7, R36). EN is taken before COMMIT,
and ABORT with COMMIT is taken as ABORT (DESIGN CHOICE, log entry 44). Where the commit's tickets are refused, so is the
enable, and the record of the refusal is that of the whole request (R82). -/
def Eng.ctlWhole (e : Eng) (who : Src) (p : Nat) (d : Word) : Eng :=
  let en := d.getLsbD 0
  let abort := d.getLsbD 2
  let commit := d.getLsbD 1 && !abort
  let xu := d.getLsbD 3
  let own := who.owner == 8 || !sharedPage p
  let held := match who with
    | .part n => !e.bit Pg.PRT (PRT.P_CFG.XA n)
    | _ => false
  let dma := kindOf p == .dma
  let rise := own && !dma && en && !e.en p
  let fall := own && !dma && !en && !fixedEn p && e.en p
  let codes := firstCode
    [if rise then e.enCode who p else none,
     if xu && !own then some .owner else if xu && held then some .locked else none,
     if commit then e.commitCode who p else none,
     if e.busyFor who p then some .busy else none]
  match codes with
  | some c =>
    if commit then (if c = .range then e.setErrShown p else e).refuseCmt who p c
    else if c = .owner then e.refuseOwner who p 0x10 else e.refuse who p 0x10 c
  | none =>
    let e1 := if rise then e.enSet who p else if fall then e.enClear who p else { e with resp := ⟨0, []⟩ }
    if e1.resp.code ≠ 0 then (if commit then e1.ist (hdrPage p who.owner) HDR.IST.CMT_REFUSED else e1)
    else
      let e2 := if abort then e1.abort who p else if commit then e1.commit who p else e1
      if e2.resp.code ≠ 0 then
        (if rise ∨ fall then
          let r := e1.cmtReq [p] (e.cmtOf who p)
          (match e.tixCause r with | some k => e.tixRefused who r k | none => e).refuseCmt who p .noCredit
         else e2)
      else
        let e3 := if own then (e2.putB p HDR.CTL.XU xu).putB p HDR.CTL.RDLIVE (d.getLsbD 4) else e2
        if dma then { e3 with dmaStop := !en } else e3

/-- A write of the CTL word. On a page that a partition owns the supervisor may write only EN = 0 and ABORT = 1 (R66). -/
def Eng.ctlWord (e : Eng) (who : Src) (p : Nat) (d : Word) : Eng :=
  match e.ctlDenied who p 0x10 with
  | some e' =>
    if who = .host ∧ e.owner p < 8 ∧ d.toNat % 32 &&& 0x1B = 0 then
      let e1 := if e.bit p HDR.CTL.EN then e.enClear who p else { e with resp := ⟨0, []⟩ }
      if d.getLsbD 2 ∧ e1.resp.code = 0 then e1.abort who p else e1
    else e'
  | none => e.ctlWhole who p d

/-! ### Words without a command of their own -/

/-- The partition whose block of PRT a word belongs to (R78). -/
def prtPart (off : Nat) : Nat := (off - 0x100) / 0x40

/-- Words of a shared page that a partition may write: those of its view and of its channels and destinations. -/
def partWrites (p off : Nat) : Bool :=
  match kindOf p with
  | .eng => [0x18, 0x1C, 0x20].contains off || decide (0x80 ≤ off ∧ off < 0xA0)
  | .prt => off == 0x50 || off == 0x54
  | .wcp => [0x18, 0x1C, 0x20].contains off || decide (0x100 ≤ off ∧ off < 0x200)
  | .evr => [0x18, 0x1C, 0x20, 0x40].contains off || decide (0x100 ≤ off ∧ off < 0x300)
  | _ => true

/-- Bits of EVIO_DIR that a write would set for balls whose destination the writer does not own (R267). -/
def Eng.evioForeign (e : Eng) (o d : Nat) : Bool :=
  (List.range 16).any fun k => e.evrOwner (48 + k) != o &&
    (d.testBit k != (if o = 8 then (e.get Pg.EVR EVR.EVIO_DIR.OUT).testBit k else false))

/-- The word names a resource that the writer does not own on a page where it has a part. -/
def Eng.wordOwner (e : Eng) (who : Src) (p off d : Nat) : Bool :=
  match kindOf p with
  | .spi => who == .host && (off == 0x44 || off == 0x48)
  | .wcp => decide (0x100 ≤ off ∧ off < 0x200) && e.wcpOwner ((off - 0x100) / 0x20) != who.owner
  | .evr =>
    (decide (0x100 ≤ off ∧ off < 0x300) && e.evrOwner ((off - 0x100) / 8) != who.owner) ||
    (off == 0x40 && e.evioForeign who.owner d)
  | _ => false

/-- A field's value once the word at `off` is replaced by `d` in `v`. -/
def Fld.merge (f : Fld) (off d v : Nat) : Nat :=
  let raw := v * 2 ^ f.lo
  let k := 8 * (off - f.off)
  (raw % 2 ^ k + d * 2 ^ k + raw / 2 ^ (k + 32) * 2 ^ (k + 32)) / 2 ^ f.lo % 2 ^ f.w

/-- The value a wide RW field takes from the latched lower words and the highest one (R38). -/
def Eng.latched (e : Eng) (vp : Nat) (f : Fld) (d : Nat) : Nat :=
  let live := e.get vp f * 2 ^ f.lo
  let low := (List.range (f.words - 1)).foldl (fun a i =>
    let w := Store.get e.latch (wordKey vp (f.off + 4 * i)) noWord
    a + (if w = noWord then live / 2 ^ (32 * i) % 2 ^ 32 else w) * 2 ^ (32 * i)) 0
  (low + d * 2 ^ (32 * (f.words - 1))) / 2 ^ f.lo % 2 ^ f.w

/-- What a write of `d` would store in an RW or RWL field; none for a lower word of a wide field, which is latched. -/
def Eng.stored (e : Eng) (vp off d : Nat) (r : Row) : Option Nat :=
  if r.f.words = 1 then some (d / 2 ^ r.f.lo % 2 ^ r.f.w)
  else if off = r.f.off + 4 * (r.f.words - 1) then some (e.latched vp r.f d)
  else none

def Row.direct (r : Row) : Bool := r.acc == .rw || r.acc == .rwl
def Row.locked (r : Row) : Bool := r.acc == .rwl || r.acc == .rwls

/-- The value lies outside its range, or breaks a combination of its word (R80, R91, R97). -/
def Eng.wordRange (e : Eng) (vp p off d : Nat) : Bool :=
  (rowsAt (kindOf p) off).any (fun r => r.direct && (e.stored vp off d r).any fun v => !r.inRange v) ||
  match kindOf p with
  | .bud =>
    if off = 0x60 then decide (d / 2 ^ 8 % 256 < d % 256 + 2)
    else if off = 0x404 then
      let lo := d % 1024
      let hi := d / 2 ^ 16 % 1024
      decide (hi < lo) || lo % 5 != 0 || hi % 5 != 0
    else false
  | .prt => decide (0x100 ≤ off ∧ off < 0x300) && e.noPart (prtPart off)
  | _ => false

/-- States in which the word takes no write (R103, R146, R312, R376, R49). -/
def Eng.wordBusy (e : Eng) (who : Src) (p off : Nat) : Bool :=
  e.busyFor who p ||
  match kindOf p with
  | .cnv => off == 0x44 && e.en p
  | .fch => (off == 0x4C || off == 0x50 || off == 0x54) && e.en p
  | .dmq => (off == 0x40 || off == 0x44 || off == 0x48) && e.en p
  | .eng => decide (0x80 ≤ off ∧ off < 0xA0) && e.grpPending who.code
  | .tim => off == 0x50 && e.timeHeld
  | _ => false

/-- Bits of IEN that exist: those of IST (R32). -/
def istMask (p : Nat) : Nat := (rowsAt (kindOf p) 0x18).foldl (fun a r => a ||| (2 ^ r.f.w - 1) * 2 ^ r.f.lo) 0

/-- A write of one field of a word. -/
def Eng.fieldWrite (e : Eng) (vp p off d : Nat) (r : Row) : Eng :=
  match r.acc with
  | .rw | .rwl =>
    match e.stored vp off d r with
    | some v => e.put vp r.f (if off = 0x1C then v &&& istMask p else v)
    | none => { e with latch := Store.put e.latch (wordKey vp off) d noWord }
  | .rws | .rwls => e.shPut p r.f (r.f.merge off d (e.sh p r.f))
  | .w1c => e.put vp r.f (e.get vp r.f - (e.get vp r.f &&& d / 2 ^ r.f.lo))
  | _ => e

/-- Interrupts that a write of IEN lets through (R310). -/
def Eng.ienShown (e : Eng) (was : Eng) (p vp : Nat) : Eng :=
  if p = Pg.PRT then
    (List.range 8).foldl (fun a n =>
      let m := 2 ^ n * 0x10101
      if was.istPend vp &&& m = 0 ∧ e.istPend vp &&& m ≠ 0 then a.msix 0 (32 + n) else a) e
  else if was.istPend vp = 0 ∧ e.istPend vp ≠ 0 then e.pageMsg vp
  else e

/-- What a stored word means at once: FREEZE shows (R123). -/
def Eng.wordEffect (e : Eng) (was : Eng) (p vp off : Nat) : Eng :=
  if off = 0x1C then e.ienShown was p vp
  else if kindOf p = .cal ∧ off = 0x404 ∧ e.en p then e.calStatus (fin4 (p - 0x18))
  else if kindOf p = .fch ∧ (off = 0x4C ∨ off = 0x50) then e.fchRefresh (fin8 (p - 0x20))
  else e

/-- The word is written, every check passed. -/
def Eng.wordPut (e : Eng) (who : Src) (p off d : Nat) : Eng :=
  let vp := viewPage who p off
  let d' := if p = Pg.EVR ∧ off = 0x40 then
      (List.range 16).foldl (fun a k =>
        a + (if e.evrOwner (48 + k) = who.owner then d.testBit k else (e.get p EVR.EVIO_DIR.OUT).testBit k).toNat * 2 ^ k) 0
    else d
  let e1 := (rowsAt (kindOf p) off).foldl (fun a r => a.fieldWrite vp p off d' r) { e with resp := ⟨0, []⟩ }
  e1.wordEffect e p vp off

/-- A write that has no command of its own (R30, R31, R35-R39): dropped, refused by the first check it fails, or taken. A write
that meets no writable field is ignored. -/
def Eng.wordWrite (e : Eng) (who : Src) (p off d : Nat) : Eng :=
  let vp := viewPage who p off
  let rows := (rowsAt (kindOf p) off).filter fun r => r.acc != .ro && r.acc != .wo
  match e.denied who p off false with
  | some e' => e'
  | none =>
    if p = Pg.DBG ∧ !e.dbgOpen who then e.errAt (vw who.code Pg.ENG) off who.code .locked
    else if rows = [] then { e with resp := ⟨0, []⟩ }
    else if who.owner < 8 ∧ sharedPage p ∧ !partWrites p off then e.notOwner who off
    else if 8 ≤ who.owner ∧ p = Pg.PRT ∧ (off = 0x50 ∨ off = 0x54) then { e with resp := ⟨0, []⟩ }
    else if e.wordOwner who p off d then e.refuseOwner who p off
    else if rows.any Row.locked ∧ !e.bit p HDR.CTL.XU then e.refuse who p off .locked
    else if e.wordRange vp p off d then e.refuse who p off .range
    else if e.wordBusy who p off then e.refuse who p off .busy
    else e.wordPut who p off d

def execPlainWrite (who : Src) (p off : Nat) (d : Word) : Cmd := onEng fun e => e.wordWrite who p off d.toNat

/-! ### Command words -/

/-- The code that a command refuses its requester with, if it does. -/
def refusalOf (s : State) (c : Cmd) : Option Code :=
  match c s with
  | .next t => Code.ofNum t.eng.resp.code
  | _ => none

/-- A word of command bits is taken or refused whole (R7): the commands of the bits that are 1, in turn. Where one of them is
refused as the state stands, or after those before it, the word has the effect of the refusal that comes first in the order
of R36 alone. With no bit set only the access is checked. -/
def bits (who : Src) (p off : Nat) (l : List (Bool × Cmd)) (s : State) : Host.Outcome State Fault Refusal :=
  let cs := (l.filter fun x => x.1).map fun x => x.2
  match cs with
  | [] => onEng (fun e => e.order who p off false false id) s
  | [c] => c s
  | _ =>
    match firstCode (cs.map (refusalOf s)) with
    | some k => ((cs.find? fun c => refusalOf s c == some k).getD (onEng id)) s
    | none =>
      match cs.foldl andThen (onEng fun e => { e with resp := ⟨0, []⟩ }) s with
      | .next t =>
        match Code.ofNum t.eng.resp.code with
        | some k => onEng (fun e => e.refuse who p off k) s
        | none => .next t
      | o => o

/-- ACQ.CMD: STOP with ARM leaves the unit stopped, and the ARM is refused BUSY (R188). -/
def execAcqCmd (who : Src) (u : Fin 8) (stop arm : Bool) : Cmd :=
  if stop && arm then andThen (execAcqStop who u) (onEng fun e => e.refuse who (Pg.ACQ u) 0x60 .busy)
  else bits who (Pg.ACQ u) 0x60 [(stop, execAcqStop who u), (arm, execAcqArm who u)]

/-- ARM0 is kept until ARM1 submits it (R377). -/
def execArm0 (who : Src) (d : Word) : Cmd :=
  onEng fun e => e.order who Pg.MLN1 0x44 false false fun e0 =>
    (e0.put Pg.MLN1 MLN1.ARM0.GROUPS (d.toNat % 256)).put Pg.MLN1 MLN1.ARM0.SEC (d.toNat / 2 ^ 8 % 256)

/-- BAR2_MARK_HI: a write of 0 clears the mark, another value is ignored (R330). -/
def execMarkWrite (who : Src) (d : Word) : Cmd :=
  if d = 0 then execBar2MarkClear who else onEng fun e => e.order who Pg.PCI 0x50 false false id

/-- LINK_CAP: MAX_SPEED, then RETRAIN. -/
def execLinkCap (who : Src) (d : Word) : Cmd :=
  if d.getLsbD 8 then andThen (execPlainWrite who Pg.PCI 0x400 d) (execLinkRetrain who) else execPlainWrite who Pg.PCI 0x400 d

/-- The command that a write of a word is, where the table gives it one; none for a word of plain fields. -/
def wordCmd (who : Src) (p off : Nat) (d : Word) : Option Cmd :=
  let b := d.getLsbD
  if off = 0x10 ∧ kindOf p ≠ .none then some (onEng fun e => e.ctlWord who p d)
  else
    match kindOf p with
    | .eng => if off = 0xA0 then some (if b 1 then execGrpCancel who else bits who p off [(b 0, execGrpGo who)]) else none
    | .bud => if off = 0x40 then some (execLimitWrite who d) else if off = 0x44 then some (onEng fun e => e.budgetSet who d) else none
    | .clk => if off = 0x58 then some (execCkhLimitsWrite who d) else none
    | .flt => if off = 0x44 then some (execFltAck who d) else none
    | .rst =>
      if off = 0x40 then some (execRstSoft who d) else if off = 0x44 then some (execRstPart who d)
      else if off = 0x48 then some (execRstBlk who d) else none
    | .tim => if off = 0x54 then some (execTimStep who d) else none
    | .usage => if off = 0x40 then some (execBoundWrite who d) else none
    | .key => if off = 0x90 then some (onEng fun e => e.doorbell who) else none
    | .prt =>
      let n := fin8 (prtPart off)
      if off = 0x44 then some (execHeartbeat who)
      else if 0x100 ≤ off ∧ off < 0x300 then
        let r := off % 0x40
        if r = 0x08 then
          some (if d.toNat % 8 = 0 then onEng fun e => e.prtOrder who off (e.noPart n) false id
            else bits who p off [(b 0, execPrtReset who n), (b 1, execPrtSuspend who n), (b 2, execPrtResume who n)])
        else if r = 0x0C then some (execRegionWrite who n d)
        else if r = 0x10 ∨ r = 0x14 then some (onEng fun e => e.qosWrite who off d)
        else if r = 0x18 then some (execTixcapWrite who n d)
        else none
      else if off = 0x304 then some (execTapWrite who d)
      else if 0x300 ≤ off ∧ off < 0x360 ∧ off ≠ 0x320 ∧ off ≠ 0x328 ∧ off ≠ 0x32C then
        some (onEng fun e => (e.grantWrite who off d).runDeferred)
      else none
    | .cal =>
      let c := fin4 (p - 0x18)
      if off = 0x40 then some (bits who p off [(b 0, execCalReset who c), (b 1, execCalDeclReset who c), (b 2, execCalRewarm who c)]) else none
    | .fch =>
      let f := fin8 (p - 0x20)
      if off = 0x58 then some (execCoefDataWrite who f d)
      else if off = 0x84 ∧ b 31 then some (andThen (execPlainWrite who p off d) (execPkHoldClr who f))
      else none
    | .trg =>
      let t := fin8 (p - 0x30)
      if off = 0x68 then some (bits who p off [(b 0, execTrgForce who t), (b 1, execTrgRearm who t)]) else none
    | .acq =>
      let u := fin8 (p - 0x40)
      if off = 0x60 then some (execAcqCmd who u (b 1) (b 0))
      else if off = 0x84 then some (execStrRdWrite who u d)
      else none
    | .his =>
      let h := fin8 (p - 0x48)
      if off = 0x70 then some (bits who p off [(b 0, execHisSnap who h), (b 1, execHisClear who h), (b 2, execHisMload who h)]) else none
    | .dmc => if off = 0x44 then some (bits who p off [(b 0, execDmcRetrain who (fin8 (p - 0x60)))]) else none
    | .dmx => if off = 0x4C then some (bits who p off [(b 0, execDmxRemap who)]) else none
    | .mcv =>
      if off = 0xC0 then some (execMcvUrg who d)
      else if off = 0xD0 then some (onEng fun e => e.accSel who (d.toNat % 64) (b 8) (b 9))
      else none
    | .wcp =>
      if 0x100 ≤ off ∧ off < 0x200 ∧ off % 0x20 = 0x10 then some (bits who p off [(b 0, execWcpCheck who (fin8 ((off - 0x100) / 0x20)))])
      else none
    | .evr => if off = 0x48 then some (execEvrForce who false d) else if off = 0x4C then some (execEvrForce who true d) else none
    | .xpt =>
      if off = 0x98 then some (bits who p off [(b 0, execXptStopReq who), (b 1, execXptRelease who), (b 2, execXptLoad who)]) else none
    | .pci =>
      if off = 0x50 then some (execMarkWrite who d) else if off = 0x400 then some (execLinkCap who d) else none
    | .dmq => if off = 0x4C then some (onEng fun e => e.tailWrite who ⟨(p - 0x88) % 16, Nat.mod_lt _ (by decide)⟩ d) else none
    | .spi => if off = 0x4C then some (bits who p off [(b 0, execClogClr who)]) else none
    | .mln1 => if off = 0x44 then some (execArm0 who d) else if off = 0x48 then some (execMlnArmSubmit who d) else none
    | _ => none

/-- A write of one word by one requester. -/
def busWrite (who : Src) (p off : Nat) (d : Word) : Cmd := (wordCmd who p off d).getD (execPlainWrite who p off d)

/-! ### Contests (R324-R327) -/

/-- A contest's winner. -/
inductive Win where
  | host (safe : Bool)
  | manager (safe : Bool)
  | merged (w : Nat)
  deriving DecidableEq, Repr

/-- The pair of two-field words of BUD: the lower per field wins, whole where one write is lower or equal on both, else merged
with the remaining bits of the manager's word. `w`: width of a field, `at'`: place of the second. -/
def lowerPair (w at' h m : Nat) : Option Win :=
  let h0 := h % 2 ^ w
  let m0 := m % 2 ^ w
  let h1 := h / 2 ^ at' % 2 ^ w
  let m1 := m / 2 ^ at' % 2 ^ w
  if h0 = m0 ∧ h1 = m1 then none
  else if h0 ≤ m0 ∧ h1 ≤ m1 then some (.host true)
  else if m0 ≤ h0 ∧ m1 ≤ h1 then some (.manager true)
  else some (.merged (m - m0 - m1 * 2 ^ at' + min h0 m0 + min h1 m1 * 2 ^ at'))

/-- One write holds the safe order and the other the order it stands against. -/
def orderPair (safe other h m : Nat) : Option Win :=
  if h.testBit safe && m.testBit other && !m.testBit safe then some (.host true)
  else if m.testBit safe && h.testBit other && !h.testBit safe then some (.manager true)
  else none

/-- A reset request against a write without it (R325). -/
def resetPair (mask h m : Nat) : Option Win :=
  let a := h &&& mask
  let b := m &&& mask
  if a = b then none else if a ||| b = a then some (.host true) else if a ||| b = b then some (.manager true) else none

/-- Settlement by the safe direction, then by page precedence (R325). -/
def settle (p off h m : Nat) : Win :=
  let pair : Option Win :=
    if off = 0x10 then
      (if h % 2 ≠ m % 2 then some (if h % 2 = 0 then .host true else .manager true) else orderPair 2 1 h m)
    else
      match kindOf p with
      | .bud =>
        if off = 0x40 ∨ off = 0x44 then lowerPair 10 16 h m
        else if off = 0x60 then lowerPair 8 8 h m
        else none
      | .xpt => if off = 0x98 then orderPair 0 1 h m else none
      | .acq => if off = 0x60 then orderPair 1 0 h m else none
      | .rst => if off = 0x40 then resetPair 1 h m else if off = 0x44 then resetPair 0xFF h m else none
      | _ => none
  pair.getD (match kindOf p with
    | .bud | .flt | .rst | .key | .tim => .manager false
    | _ => .host false)

/-- Two writes of one word contest: both masters may write it, and it is not kept per master (log entry 45). RST.BLK is a view
(R404). -/
def Eng.contests (e : Eng) (p off : Nat) (h m : Word) : Bool :=
  kindOf p != .none && kindOf p != .dbg && (e.denied .host p off false).isNone && (e.denied .manager p off false).isNone &&
  !e.wordOwner .host p off h.toNat && !e.wordOwner .manager p off m.toNat && viewPage .host p off == viewPage .manager p off &&
  !(p = Pg.RST && off == 0x48) && !(rowsAt (kindOf p) off).isEmpty &&
  (h != m || (p = Pg.KEY && off == 0x90))

/-- A conflict log entry (R326, R327): 16 in turn, the oldest overwritten while it is not cleared. -/
def Eng.clog (e : Eng) (p off : Nat) (w : Win) : Eng :=
  let s := Pg.SPI
  let i := e.get s SPI.CLOG_PTR.NEXT
  let lost := (e.get s (SPI.CLOG.INFO i)).testBit 31
  let info := match w with
    | .host f => 2 * f.toNat
    | .manager f => 1 + 2 * f.toNat
    | .merged _ => 7
  let e1 := if lost then e.inc s SPI.CLOG_LOST.COUNT else e
  let e2 := (e1.put s (SPI.CLOG.TIME i) (tb96 e.tb / 2 ^ 16)).put s (SPI.CLOG.ADDR i) (p + 2 ^ 8 * (off / 4))
  (((e2.put s (SPI.CLOG.INFO i) (info + 2 ^ 31)).put s SPI.CLOG_PTR.NEXT (i + 1)).inc s SPI.CONFLICT_CNT.COUNT).alert 2

/-- The losing write (R326). -/
def Eng.conflict (e : Eng) (who : Src) (p off : Nat) : Eng := e.refuse who p off .conflict

/-- The answer to a requester is CONFLICT. -/
def answerConflict : Cmd := onEng fun e => { e with resp := ⟨7, []⟩ }

/-- The command after a change of the engine; what it answers is followed by `g`. -/
def around (f : Eng → Eng) (c : Cmd) (g : Eng → Eng) (s : State) : Host.Outcome State Fault Refusal :=
  match c { s with eng := f s.eng } with
  | .next t => .next { t with eng := g t.eng }
  | o => o

/-- Host and manager write one word in one cycle; `who` is the one whose answer is shown. -/
def contest (who : Src) (p off : Nat) (h m : Word) (s : State) : Host.Outcome State Fault Refusal :=
  let mine (winner : Bool) (e : Eng) : Eng := if winner then e else { e with resp := ⟨7, []⟩ }
  match settle p off h.toNat m.toNat with
  | .host f => around (fun e => (e.conflict .manager p off).clog p off (.host f)) (busWrite .host p off h) (mine (who = .host)) s
  | .manager f => around (fun e => (e.conflict .host p off).clog p off (.manager f)) (busWrite .manager p off m) (mine (who = .manager)) s
  | .merged w =>
    around (fun e => ((e.conflict .host p off).conflict .manager p off).clog p off (.merged w))
      (busWrite .manager p off (BitVec.ofNat 32 w)) (mine false) s

/-! ### Other writes of one CKC cycle (R68, R69, R84) -/

def accWord (a : Access) : Nat := a.off / 4 * 4
def accWrite (a : Access) : Cmd := busWrite a.who a.page (accWord a) a.data

/-- The write is one of CTL. -/
def accCtl (a : Access) : Bool := (accWord a) == 0x10

/-- The write returns tickets: CTL.EN = 0 of an enabled block, CTL.ABORT, or a group's CANCEL (R83). -/
def Eng.releases (e : Eng) (a : Access) : Bool :=
  ((accCtl a) && ((!a.data.getLsbD 0 && !fixedEn a.page && e.en a.page) || a.data.getLsbD 2)) ||
    (a.page == Pg.ENG && (accWord a) == 0xA0 && a.data.getLsbD 1)

/-- Place in the order of one cycle: releases; then a commit of CLK or ARR, which an arm or an enable of the same cycle is
checked after (ch. 1 and 5, "When things meet"); a group's GO after a member's commit (ch. 2). -/
def Eng.cycleClass (e : Eng) (a : Access) : Nat :=
  if e.releases a then 0
  else if (accCtl a) && (a.page == Pg.CLK || a.page == Pg.ARR) then 1
  else if a.page == Pg.ENG && (accWord a) == 0xA0 then 3 else 2

/-- The manager, the host, then P0 to P7 (R84). -/
def srcTurn : Src → Nat
  | .manager => 0
  | .host => 1
  | .part n => 2 + n

/-- `a` goes before `b` in one cycle: the supervisor's action before a partition's write to the same resource (R68), else
releases first, then requester by requester and by ascending page (R84). -/
def Eng.goesFirst (e : Eng) (a b : Access) : Bool :=
  let table (x : Access) : Bool := x.page == Pg.PRT || x.page == Pg.RST || x.page == Pg.KEY
  if a.who.owner = 8 ∧ b.who.owner < 8 ∧ (a.page = b.page ∨ table a) then true
  else if b.who.owner = 8 ∧ a.who.owner < 8 ∧ (a.page = b.page ∨ table b) then false
  else
    let x := (e.cycleClass a * 16 + srcTurn a.who) * 256 + a.page
    let y := (e.cycleClass b * 16 + srcTurn b.who) * 256 + b.page
    decide (x ≤ y)

/-- The resource that an access writes. -/
def accRes (a : Access) : GRes :=
  if a.page = Pg.WCP then .wcp (((accWord a) - 0x100) / 0x20)
  else if a.page = Pg.EVR then .evr (((accWord a) - 0x100) / 8)
  else if kindOf a.page = .cal then .page (a.page - 8)
  else .page a.page

/-- Between two states the resource began to leave partition `o` (R56, R58). -/
def leftBetween (e e1 : Eng) (o : Nat) (r : GRes) : Bool :=
  (e.resOwner r == o && (e1.resOwner r != o || (e1.revoking r && !e.revoking r)))

/-- The outcome of a partition's write after the supervisor's action of the same cycle on the same resource (R68, R69); none
where the write is checked as ever against the result. `e`: before the action, `e1`: after it. -/
def metBy (e e1 : Eng) (a b : Access) : Option (Eng → Eng) :=
  if a.who.owner ≠ 8 ∨ 8 ≤ b.who.owner ∨ e1.resp.code ≠ 0 then none
  else if leftBetween e e1 b.who.owner (accRes b) then some fun x => x.notOwner b.who (accWord b)
  else if a.page = b.page ∧ (accCtl a) ∧ e.owner a.page = b.who.owner ∧
      (((accCtl b) ∧ (b.data.getLsbD 0 ∨ b.data.getLsbD 1)) ∨ (kindOf b.page = .acq ∧ (accWord b) = 0x60 ∧ b.data.getLsbD 0)) then
    some fun x => x.order b.who b.page (accWord b) false true id
  else none

/-- Two accesses of one cycle in their order; `second` says whose answer is shown. -/
def inOrder (a b : Access) (second : Bool) (s : State) : Host.Outcome State Fault Refusal :=
  match (accWrite a) s with
  | .next t =>
    let r := match metBy s.eng t.eng a b with
      | some f => onEng f t
      | none => (accWrite b) t
    match r with
    | .next u => .next (if second then u else { u with eng := { u.eng with resp := t.eng.resp } })
    | o => o
  | o => o

/-- Two accesses of one cycle in their order; `a`'s answer is shown. -/
def bothTaken (a b : Access) (s : State) : Host.Outcome State Fault Refusal :=
  if s.eng.goesFirst a b then inOrder a b false s else inOrder b a true s

/-- Both are masters of the same word. -/
def accSame (a b : Access) : Bool :=
  a.page == b.page && (accWord a) == (accWord b) && a.who != b.who && a.who.owner == 8 && b.who.owner == 8

/-- Host and manager write the same word: a contest is settled, two equal writes of one register are taken as one, and any others
are both taken (R324). -/
def mastersWrite (a b : Access) (s : State) : Host.Outcome State Fault Refusal :=
  let off := accWord a
  let (h, m) := if a.who = .host then (a.data, b.data) else (b.data, a.data)
  if s.eng.contests a.page off h m then contest a.who a.page off h m s
  else if h = m ∧ viewPage .host a.page off = viewPage .manager a.page off then (accWrite a) s
  else bothTaken a b s

/-- A write, and another requester's write of the same CKC cycle. -/
def cycleWrite (a : Access) (rival : Option Access) (s : State) : Host.Outcome State Fault Refusal :=
  match rival with
  | none => (accWrite a) s
  | some b => if accSame a b then mastersWrite a b s else bothTaken a b s

/-! ### The management port (R319-R322) -/

/-- CRC-8 with polynomial x^8 + x^2 + x + 1 from 0 (R320). -/
def crc8 (bs : List Nat) : Nat :=
  bs.foldl (fun c b =>
    (List.range 8).foldl (fun x _ => if 128 ≤ x then (2 * x % 256) ^^^ 7 else 2 * x) (c ^^^ b % 256)) 0

/-- A read frame: STATUS, the data word and the CRC. Where the access was refused without data, the word is a free value. -/
def Eng.spiRead (e : Eng) (addr : Nat) : Eng :=
  let e1 := e.readWord .manager (addr / 4096) (addr / 4 * 4 % 4096)
  let e2 := e1.fresh
  let w := e1.resp.data.headD (Config.freeWord e1.freeCtr).toNat
  let st := e2.spiStatus e1.resp.code false false
  let bytes := [st, w % 256, w / 2 ^ 8 % 256, w / 2 ^ 16 % 256, w / 2 ^ 24 % 256]
  { e2 with resp := ⟨e1.resp.code, [st, w, crc8 bytes]⟩ }

/-- A write frame answers its STATUS. -/
def Eng.spiWrote (e : Eng) : Eng := { e with resp := ⟨e.resp.code, [e.spiStatus e.resp.code false false]⟩ }

/-! ### The commands -/

/-- The word at `off` is part of a wide field. -/
def wideAt (p off : Nat) : Bool := (rowsAt (kindOf p) off).any fun r => decide (1 < r.f.words)

/-- REGISTER_WRITE: a write of one word; `rival` is a write that another requester makes in the same cycle. -/
def execRegisterWrite (who : Src) (page : Fin 256) (off : Fin 4096) (data : Word) (rival : Option Access) (s : State) :
    Host.Outcome State Fault Refusal :=
  cycleWrite ⟨who, page, off, data⟩ rival s

/-- The other master. -/
def otherMaster : Src → Src
  | .host => .manager
  | .manager => .host
  | .part n => .part n

/-- BUDGET_WRITE: a write of BUD.BUDGET (R80, R81), with the other master's. -/
def execBudgetWrite (who : Src) (data : Word) (rival : Option Word) (s : State) : Host.Outcome State Fault Refusal :=
  let acc (w : Src) (d : Word) : Access := ⟨w, ⟨Pg.BUD, by decide⟩, 0x44, d⟩
  cycleWrite (acc who data) (if who.owner = 8 then rival.map (acc (otherMaster who)) else none) s

/-- MULTIWORD_LATCH_WRITE: a write of a word of a wide field (R38). -/
def execMultiwordLatchWrite (who : Src) (page : Fin 256) (off : Fin 4096) (data : Word) (s : State) : Host.Outcome State Fault Refusal :=
  if wideAt page (off / 4 * 4) then busWrite who page (off / 4 * 4) data s else .next s

/-- MULTIWORD_SNAPSHOT_READ: a read of one word; of a wide field's lowest word it captures the others (R38). -/
def execMultiwordSnapshotRead (who : Src) (page : Fin 256) (off : Fin 4096) : State → Host.Outcome State Fault Refusal :=
  onEng fun e => e.readWord who page (off / 4 * 4)

/-- SPI_READ_FRAME (R320). -/
def execSpiReadFrame (addr : Fin 1048576) : State → Host.Outcome State Fault Refusal := onEng fun e => e.spiRead addr

/-- SPI_WRITE_FRAME (R320). -/
def execSpiWriteFrame (addr : Fin 1048576) (data : Word) (s : State) : Host.Outcome State Fault Refusal :=
  around id (busWrite .manager (addr / 4096) (addr / 4 * 4 % 4096) data) Eng.spiWrote s

end Sys2Proof.Machine
end

