-- ==== Sys2Proof/Machine/Dispatch.lean ====
section
/-! DEFINITION. Every command to its meaning. -/
namespace Sys2Proof.Machine
open Sys2Proof

/-- What a command does to everything but the queue. -/
def exec (i : Instr) (s : State) : Host.Outcome State Fault Refusal :=
  match i with
  -- Register pages (R30-R49)
  | .registerWrite who page off data rival => Sys2Proof.Machine.execRegisterWrite who page off data rival s
  | .multiwordLatchWrite who page off data => Sys2Proof.Machine.execMultiwordLatchWrite who page off data s
  | .multiwordSnapshotRead who page off => Sys2Proof.Machine.execMultiwordSnapshotRead who page off s
  | .ctlEnSet who page => Sys2Proof.Machine.execCtlEnSet who page s
  | .ctlEnClear who page => Sys2Proof.Machine.execCtlEnClear who page s
  | .ctlCommit who page => Sys2Proof.Machine.execCtlCommit who page s
  | .commitApply page fn => Sys2Proof.Machine.execCommitApply page fn s
  | .ctlAbort who page => Sys2Proof.Machine.execCtlAbort who page s
  | .ctlXu who page on => Sys2Proof.Machine.execCtlXu who page on s
  | .grpGo who => Sys2Proof.Machine.execGrpGo who s
  | .grpMemberReady view page => Sys2Proof.Machine.execGrpMemberReady view page s
  | .grpApply view => Sys2Proof.Machine.execGrpApply view s
  | .grpTimeout view => Sys2Proof.Machine.execGrpTimeout view s
  | .grpCancel who => Sys2Proof.Machine.execGrpCancel who s
  -- The clock (R14-R29, R87-R88)
  | .clkCommit who => Sys2Proof.Machine.execClkCommit who s
  | .retuneRelock => Sys2Proof.Machine.execRetuneRelock s
  | .retuneDone eyes => Sys2Proof.Machine.execRetuneDone eyes s
  | .refMeasure hz => Sys2Proof.Machine.execRefMeasure hz s
  | .holdTmoExpiry => Sys2Proof.Machine.execHoldTmoExpiry s
  | .lockLost => Sys2Proof.Machine.execLockLost s
  | .ckhLimitsWrite who data => Sys2Proof.Machine.execCkhLimitsWrite who data s
  | .ckhLoopEval slack => Sys2Proof.Machine.execCkhLoopEval slack s
  | .ckhDivStep => Sys2Proof.Machine.execCkhDivStep s
  | .slackBelowTarget => Sys2Proof.Machine.execSlackBelowTarget s
  | .boostReclaimPowerup => Sys2Proof.Machine.execBoostReclaimPowerup s
  -- Partitions (R50-R78)
  | .grantWrite who off data => Sys2Proof.Machine.execGrantWrite who off data s
  | .tapWrite who data => Sys2Proof.Machine.execTapWrite who data s
  | .regionWrite who n data => Sys2Proof.Machine.execRegionWrite who n data s
  | .qosWrite who off data => Sys2Proof.Machine.execQosWrite who off data s
  | .tixcapWrite who n data => Sys2Proof.Machine.execTixcapWrite who n data s
  | .prtReset who n => Sys2Proof.Machine.execPrtReset who n s
  | .partResetDone n => Sys2Proof.Machine.execPartResetDone n s
  | .prtSuspend who n => Sys2Proof.Machine.execPrtSuspend who n s
  | .prtResume who n => Sys2Proof.Machine.execPrtResume who n s
  | .heartbeat who => Sys2Proof.Machine.execHeartbeat who s
  | .leaseLapse n => Sys2Proof.Machine.execLeaseLapse n s
  | .drainDone n => Sys2Proof.Machine.execDrainDone n s
  | .drainTimeout n => Sys2Proof.Machine.execDrainTimeout n s
  | .drainBudgetExhausted n => Sys2Proof.Machine.execDrainBudgetExhausted n s
  | .grantInconsistent => Sys2Proof.Machine.execGrantInconsistent s
  -- The current budget (R79-R97)
  | .limitWrite who data => Sys2Proof.Machine.execLimitWrite who data s
  | .budgetWrite who data rival => Sys2Proof.Machine.execBudgetWrite who data rival s
  | .avsUpdate ckd ckh => Sys2Proof.Machine.execAvsUpdate ckd ckh s
  | .avsTransactionDone retries current => Sys2Proof.Machine.execAvsTransactionDone retries current s
  | .dtsSample temps => Sys2Proof.Machine.execDtsSample temps s
  | .thermShedStep => Sys2Proof.Machine.execThermShedStep s
  | .dtsFail k => Sys2Proof.Machine.execDtsFail k s
  | .xchkPeriod => Sys2Proof.Machine.execXchkPeriod s
  -- Converters and calibration (R98-R139)
  | .datapathWord ch ph samples clips => Sys2Proof.Machine.execDatapathWord ch ph samples clips s
  | .settleEnd ch => Sys2Proof.Machine.execSettleEnd ch s
  | .cnvPowerUpDone ch => Sys2Proof.Machine.execCnvPowerUpDone ch s
  | .cnvPwrTimeout ch => Sys2Proof.Machine.execCnvPwrTimeout ch s
  | .arrCommit who => Sys2Proof.Machine.execArrCommit who s
  | .arrMap => Sys2Proof.Machine.execArrMap s
  | .calBlockEnd ch stats => Sys2Proof.Machine.execCalBlockEnd ch stats s
  | .calUpdateApply ch => Sys2Proof.Machine.execCalUpdateApply ch s
  | .starveLimit ch loop => Sys2Proof.Machine.execStarveLimit ch loop s
  | .calTmo ch => Sys2Proof.Machine.execCalTmo ch s
  | .calReset who ch => Sys2Proof.Machine.execCalReset who ch s
  | .calDeclReset who ch => Sys2Proof.Machine.execCalDeclReset who ch s
  | .calRewarm who ch => Sys2Proof.Machine.execCalRewarm who ch s
  | .warmupEnd ch ok cores => Sys2Proof.Machine.execWarmupEnd ch ok cores s
  | .declWindowEnd ch => Sys2Proof.Machine.execDeclWindowEnd ch s
  -- Filter chains (R140-R157)
  | .schussValue f => Sys2Proof.Machine.execSchussValue f s
  | .carveOutput f => Sys2Proof.Machine.execCarveOutput f s
  | .fchGridStart f => Sys2Proof.Machine.execFchGridStart f s
  | .coefDataWrite who f data => Sys2Proof.Machine.execCoefDataWrite who f data s
  | .coefDataRead who f => Sys2Proof.Machine.execCoefDataRead who f s
  | .pkHoldClr who f => Sys2Proof.Machine.execPkHoldClr who f s
  | .pkHoldEnd f => Sys2Proof.Machine.execPkHoldEnd f s
  | .fchCoef f => Sys2Proof.Machine.execFchCoef f s
  | .fromCheck ok => Sys2Proof.Machine.execFromCheck ok s
  -- Sequencers (R158-R177)
  | .tent t => Sys2Proof.Machine.execTent t s
  | .tentResolve t => Sys2Proof.Machine.execTentResolve t s
  | .gateTmaxExpiry t lead => Sys2Proof.Machine.execGateTmaxExpiry t lead s
  | .holdoffEnd t => Sys2Proof.Machine.execHoldoffEnd t s
  | .trgForce who t => Sys2Proof.Machine.execTrgForce who t s
  | .trgRearm who t => Sys2Proof.Machine.execTrgRearm who t s
  | .syncLost t => Sys2Proof.Machine.execSyncLost t s
  | .trgParity t => Sys2Proof.Machine.execTrgParity t s
  -- Capture and stream (R178-R195)
  | .acqArm who u => Sys2Proof.Machine.execAcqArm who u s
  | .segmentClose u => Sys2Proof.Machine.execSegmentClose u s
  | .segmentWritten u hdrUe => Sys2Proof.Machine.execSegmentWritten u hdrUe s
  | .acqRearmDone u => Sys2Proof.Machine.execAcqRearmDone u s
  | .acqStop who u => Sys2Proof.Machine.execAcqStop who u s
  | .acqOverflowEnd u => Sys2Proof.Machine.execAcqOverflowEnd u s
  | .streamBlockClose u => Sys2Proof.Machine.execStreamBlockClose u s
  | .strRdWrite who u data => Sys2Proof.Machine.execStrRdWrite who u data s
  -- Accumulation (R196-R218)
  | .hisRecordClose h => Sys2Proof.Machine.execHisRecordClose h s
  | .hisFoldDone h => Sys2Proof.Machine.execHisFoldDone h s
  | .maskPostExpiry u => Sys2Proof.Machine.execMaskPostExpiry u s
  | .hisSnap who h => Sys2Proof.Machine.execHisSnap who h s
  | .snapshotDone h => Sys2Proof.Machine.execSnapshotDone h s
  | .hisClear who h => Sys2Proof.Machine.execHisClear who h s
  | .hisMload who h => Sys2Proof.Machine.execHisMload who h s
  | .mloadDone h => Sys2Proof.Machine.execMloadDone h s
  | .hisTile h => Sys2Proof.Machine.execHisTile h s
  | .hisMask h => Sys2Proof.Machine.execHisMask h s
  -- DRAM (R219-R248)
  | .dramRequest ck req => Sys2Proof.Machine.execDramRequest ck req s
  | .dramCommandIssue dmc ck blocked ecc => Sys2Proof.Machine.execDramCommandIssue dmc ck blocked ecc s
  | .pageIdleClose dmc bank => Sys2Proof.Machine.execPageIdleClose dmc bank s
  | .refreshDue dmc bank => Sys2Proof.Machine.execRefreshDue dmc bank s
  | .mr4Read dmc rank code => Sys2Proof.Machine.execMr4Read dmc rank code s
  | .snowplough dmc bank row => Sys2Proof.Machine.execSnowplough dmc bank row s
  | .throttleDouble dmc bank row => Sys2Proof.Machine.execThrottleDouble dmc bank row s
  | .refreshWindowBoundary dmc => Sys2Proof.Machine.execRefreshWindowBoundary dmc s
  | .dramInitDone eyes => Sys2Proof.Machine.execDramInitDone eyes s
  | .wck2dqOscRead dmc drift => Sys2Proof.Machine.execWck2dqOscRead dmc drift s
  | .retrainPeriod dmc => Sys2Proof.Machine.execRetrainPeriod dmc s
  | .leccRetrainTrigger dmc => Sys2Proof.Machine.execLeccRetrainTrigger dmc s
  | .dmcRetrain who dmc => Sys2Proof.Machine.execDmcRetrain who dmc s
  | .retrainStart dmc => Sys2Proof.Machine.execRetrainStart dmc s
  | .retrainPass dmc => Sys2Proof.Machine.execRetrainPass dmc s
  | .shortCheckDone dmc ok => Sys2Proof.Machine.execShortCheckDone dmc ok s
  | .marginalRetrain dmc => Sys2Proof.Machine.execMarginalRetrain dmc s
  | .dmxRemap who => Sys2Proof.Machine.execDmxRemap who s
  | .dmxMap => Sys2Proof.Machine.execDmxMap s
  -- Monitor, comparators, events (R249-R273)
  | .mcvConversionDone v => Sys2Proof.Machine.execMcvConversionDone v s
  | .mcvUrg who data => Sys2Proof.Machine.execMcvUrg who data s
  | .mcvRefCheck => Sys2Proof.Machine.execMcvRefCheck s
  | .accSnap who input clear => Sys2Proof.Machine.execAccSnap who input clear s
  | .accClear who input => Sys2Proof.Machine.execAccClear who input s
  | .wcpLiveChange n vd => Sys2Proof.Machine.execWcpLiveChange n vd s
  | .wcpFilterSample n => Sys2Proof.Machine.execWcpFilterSample n s
  | .wcpCheckPeriod n => Sys2Proof.Machine.execWcpCheckPeriod n s
  | .wcpCheckAfterCommit n => Sys2Proof.Machine.execWcpCheckAfterCommit n s
  | .wcpCheck who n => Sys2Proof.Machine.execWcpCheck who n s
  | .evrForce who half data => Sys2Proof.Machine.execEvrForce who half data s
  | .evioInputChange k level => Sys2Proof.Machine.execEvioInputChange k level s
  | .evrParity => Sys2Proof.Machine.execEvrParity s
  -- Transport and sensors (R274-R303)
  | .tachEdge a b => Sys2Proof.Machine.execTachEdge a b s
  | .idxEdge => Sys2Proof.Machine.execIdxEdge s
  | .ctlEdge rising => Sys2Proof.Machine.execCtlEdge rising s
  | .xportReadyEdge rising => Sys2Proof.Machine.execXportReadyEdge rising s
  | .xptLoad who => Sys2Proof.Machine.execXptLoad who s
  | .velUpdate => Sys2Proof.Machine.execVelUpdate s
  | .xptStopReq who => Sys2Proof.Machine.execXptStopReq who s
  | .evrStopEdge => Sys2Proof.Machine.execEvrStopEdge s
  | .outrunEnd => Sys2Proof.Machine.execOutrunEnd s
  | .xptRelease who => Sys2Proof.Machine.execXptRelease who s
  | .sfePeriodEnd n vi q z => Sys2Proof.Machine.execSfePeriodEnd n vi q z s
  | .sfeImpCheck n => Sys2Proof.Machine.execSfeImpCheck n s
  | .sfeGuard n => Sys2Proof.Machine.execSfeGuard n s
  -- Host and management ports (R304-R333)
  | .bar0BadAccess who => Sys2Proof.Machine.execBar0BadAccess who s
  | .bar2Read who addr len ue => Sys2Proof.Machine.execBar2Read who addr len ue s
  | .bar2Write who addr bytes => Sys2Proof.Machine.execBar2Write who addr bytes s
  | .bar2MarkClear who => Sys2Proof.Machine.execBar2MarkClear who s
  | .msixUnmask fn vec => Sys2Proof.Machine.execMsixUnmask fn vec s
  | .vfFlr n => Sys2Proof.Machine.execVfFlr n s
  | .pfFlr => Sys2Proof.Machine.execPfFlr s
  | .dmqTailWrite who r data => Sys2Proof.Machine.execDmqTailWrite who r data s
  | .descStream r d => Sys2Proof.Machine.execDescStream r d s
  | .descRead r d ue => Sys2Proof.Machine.execDescRead r d ue s
  | .descWrite r d bytes => Sys2Proof.Machine.execDescWrite r d bytes s
  | .descComplete r d => Sys2Proof.Machine.execDescComplete r d s
  | .dmqCoalTimeout r => Sys2Proof.Machine.execDmqCoalTimeout r s
  | .dmaHost r tmo => Sys2Proof.Machine.execDmaHost r tmo s
  | .pciLink => Sys2Proof.Machine.execPciLink s
  | .pciAerUe => Sys2Proof.Machine.execPciAerUe s
  | .linkRetrain who => Sys2Proof.Machine.execLinkRetrain who s
  | .numvfsWrite num en ari => Sys2Proof.Machine.execNumvfsWrite num en ari s
  | .spiReadFrame addr => Sys2Proof.Machine.execSpiReadFrame addr s
  | .spiWriteFrame addr data => Sys2Proof.Machine.execSpiWriteFrame addr data s
  | .spiFrameAbandon => Sys2Proof.Machine.execSpiFrameAbandon s
  | .spiUnknownOpcode crc => Sys2Proof.Machine.execSpiUnknownOpcode crc s
  | .clogClr who => Sys2Proof.Machine.execClogClr who s
  -- Keyed commands, time and usage (R334-R366)
  | .partCreate who => Sys2Proof.Machine.execPartCreate who s
  | .partDestroy who => Sys2Proof.Machine.execPartDestroy who s
  | .partDestroyDone => Sys2Proof.Machine.execPartDestroyDone s
  | .xptGrant who => Sys2Proof.Machine.execXptGrant who s
  | .xptOverride who => Sys2Proof.Machine.execXptOverride who s
  | .keyRotate who => Sys2Proof.Machine.execKeyRotate who s
  | .keyRotateDone => Sys2Proof.Machine.execKeyRotateDone s
  | .useRead who => Sys2Proof.Machine.execUseRead who s
  | .useRestore who => Sys2Proof.Machine.execUseRestore who s
  | .debug who => Sys2Proof.Machine.execDebug who s
  | .keyUnknownCmd who => Sys2Proof.Machine.execKeyUnknownCmd who s
  | .keyLockoutEnd manager => Sys2Proof.Machine.execKeyLockoutEnd manager s
  | .timStep who data => Sys2Proof.Machine.execTimStep who data s
  | .ppsEdge rising => Sys2Proof.Machine.execPpsEdge rising s
  | .ppsLost => Sys2Proof.Machine.execPpsLost s
  | .useBoundary => Sys2Proof.Machine.execUseBoundary s
  | .boundWrite who data => Sys2Proof.Machine.execBoundWrite who data s
  -- The Miolan link (R367-R381)
  | .mlnRxIdle src evt => Sys2Proof.Machine.execMlnRxIdle src evt s
  | .mlnRxProbe src evt body ring => Sys2Proof.Machine.execMlnRxProbe src evt body ring s
  | .mlnRxTimeHi src evt body => Sys2Proof.Machine.execMlnRxTimeHi src evt body s
  | .mlnRxTimeLo src evt body late => Sys2Proof.Machine.execMlnRxTimeLo src evt body late s
  | .mlnRxTimeRate src evt body => Sys2Proof.Machine.execMlnRxTimeRate src evt body s
  | .mlnRxArm src evt body => Sys2Proof.Machine.execMlnRxArm src evt body s
  | .mlnRxArmAck src evt body => Sys2Proof.Machine.execMlnRxArmAck src evt body s
  | .mlnRxTrig src evt body => Sys2Proof.Machine.execMlnRxTrig src evt body s
  | .mlnRxReserved src evt ty body => Sys2Proof.Machine.execMlnRxReserved src evt ty body s
  | .mlnCrcError => Sys2Proof.Machine.execMlnCrcError s
  | .mlnClockLoss => Sys2Proof.Machine.execMlnClockLoss s
  | .mlnProbeSend => Sys2Proof.Machine.execMlnProbeSend s
  | .mlnProbeTimeout => Sys2Proof.Machine.execMlnProbeTimeout s
  | .mlnTimeSend => Sys2Proof.Machine.execMlnTimeSend s
  | .mlnArmSubmit who data => Sys2Proof.Machine.execMlnArmSubmit who data s
  | .mlnArmExecute => Sys2Proof.Machine.execMlnArmExecute s
  | .rxTrigPop who => Sys2Proof.Machine.execRxTrigPop who s
  -- Faults, resets, start-up (R382-R408)
  | .fltAck who data => Sys2Proof.Machine.execFltAck who data s
  | .fltClear who data => Sys2Proof.Machine.execFltClear who data s
  | .fltPurge who => Sys2Proof.Machine.execFltPurge who s
  | .fltParity => Sys2Proof.Machine.execFltParity s
  | .por => Sys2Proof.Machine.execPor s
  | .resetN => Sys2Proof.Machine.execResetN s
  | .perst cause => Sys2Proof.Machine.execPerst cause s
  | .rstSoft who data => Sys2Proof.Machine.execRstSoft who data s
  | .softResetDone eyes => Sys2Proof.Machine.execSoftResetDone eyes s
  | .rstPart who data => Sys2Proof.Machine.execRstPart who data s
  | .rstBlk who data => Sys2Proof.Machine.execRstBlk who data s
  | .blockResetDone page => Sys2Proof.Machine.execBlockResetDone page s
  | .fuseLoadDone nonce badSlots romOk => Sys2Proof.Machine.execFuseLoadDone nonce badSlots romOk s
  | .rsLock => Sys2Proof.Machine.execRsLock s
  | .rsLockTimeout => Sys2Proof.Machine.execRsLockTimeout s
  | .mlnFramed => Sys2Proof.Machine.execMlnFramed s
  | .pciLinkUp speed width => Sys2Proof.Machine.execPciLinkUp speed width s
  | .railBelowPorThreshold => Sys2Proof.Machine.execRailBelowPorThreshold s
  | .tb96SecondsRollover => Sys2Proof.Machine.execTb96SecondsRollover s

end Sys2Proof.Machine
end

