-- ==== Sys2Proof/Machine/Jtag.lean ====
section
/-! DEFINITION. The test access port (R423): the controller of IEEE 1149.1, its registers and what its instructions do to the
balls. Cycles of TCK come from outside (log entry 85). -/
namespace Sys2Proof.Machine

/-- The controller's next state, by TMS. -/
def TapSt.next : TapSt → Bool → TapSt
  | .reset, tms => if tms then .reset else .idle
  | .idle, tms | .upDr, tms | .upIr, tms => if tms then .selDr else .idle
  | .selDr, tms => if tms then .selIr else .capDr
  | .capDr, tms | .shDr, tms => if tms then .ex1Dr else .shDr
  | .ex1Dr, tms => if tms then .upDr else .pauDr
  | .pauDr, tms => if tms then .ex2Dr else .pauDr
  | .ex2Dr, tms => if tms then .upDr else .shDr
  | .selIr, tms => if tms then .reset else .capIr
  | .capIr, tms | .shIr, tms => if tms then .ex1Ir else .shIr
  | .ex1Ir, tms => if tms then .upIr else .pauIr
  | .pauIr, tms => if tms then .ex2Ir else .pauIr
  | .ex2Ir, tms => if tms then .upIr else .shIr

/-- The instruction of a code: all ones is BYPASS, and so is a code that none of the six has. -/
def tapDecode (code : List Bool) : TapInstr :=
  if code.all id then .bypass
  else match Config.tapCode code with
    | 1 => .idcode | 2 => .sample | 3 => .extest | 4 => .clamp | 5 => .highz | _ => .bypass

/-- The instruction as it acts: with RESET_N high EXTEST, CLAMP and HIGHZ act as BYPASS (R423). -/
def TapInstr.acts (i : TapInstr) (rstLow : Bool) : TapInstr :=
  match i with
  | .extest | .clamp | .highz => if rstLow then i else .bypass
  | .bypass | .idcode | .sample => i

/-- What drives the balls of the chain. -/
def TapInstr.drives : TapInstr → BallDrive
  | .extest | .clamp => .cells
  | .highz => .highz
  | .bypass | .idcode | .sample => .engine

/-- IDCODE of the product (R423). -/
def Dev.idcode (d : Dev) : Nat := if d.ly6440 then 0x164407A5 else 0x164807A5

/-- What Capture-IR loads: its two lowest bits are 01. -/
def tapIrLoad : List Bool := true :: false :: (List.range Config.tapIrMore).map Config.tapIrCapture

/-- What Capture-DR loads under an instruction as it acts: the balls' levels at the `n`th draw, IDCODE, or BYPASS's 0. -/
def tapDrLoad (d : Dev) (n : Nat) : TapInstr → List Bool
  | .sample | .extest => (List.range Config.tapCells).map (Config.tapLevel n)
  | .idcode => (List.range 32).map d.idcode.testBit
  | .bypass | .clamp | .highz => [false]

/-- One bit from TDI enters a register and the one nearest TDO leaves it. -/
def shiftIn (l : List Bool) (b : Bool) : List Bool := (l ++ [b]).drop 1

/-- A cycle of TCK: the state acts at the rising edge, and TDO and the updates follow at the falling one. TRST_N low holds
Test-Logic-Reset, where the instruction is IDCODE. -/
def Tap.cycle (d : Dev) (n : Nat) (c : TckCycle) (t : Tap) : Tap :=
  let act : TapInstr := t.ir.acts c.rst
  let t1 := match t.st with
    | .capIr => { t with irSh := tapIrLoad }
    | .shIr => { t with irSh := shiftIn t.irSh c.tdi }
    | .capDr => { t with drSh := tapDrLoad d n act }
    | .shDr => { t with drSh := shiftIn t.drSh c.tdi }
    | _ => t
  let st' : TapSt := if c.trst then .reset else t.st.next c.tms
  let t2 := match st' with
    | .reset => { t1 with ir := .idcode }
    | .upIr => { t1 with ir := tapDecode t1.irSh }
    | .upDr => if act == TapInstr.sample || act == TapInstr.extest then { t1 with cells := t1.drSh } else t1
    | _ => t1
  { t2 with
    st := st'
    tdo := if st' == TapSt.shIr then t2.irSh.head? else if st' == TapSt.shDr then t2.drSh.head? else none
    drive := (t2.ir.acts c.rst).drives }

/-- The first cycle of TCK that waits is taken: it reaches the port and nothing else of the engine (R423), but for the counter of
free values. -/
def Eng.tckCycle (e : Eng) : Eng :=
  match e.tap.wait with
  | [] => e
  | c :: r => { e with tap := { e.tap.cycle e.dev e.freeCtr c with wait := r }, freeCtr := e.freeCtr + 1 }

end Sys2Proof.Machine
end

