-- ==== Sys2Proof/Machine/Tick.lean ====
section
/-! DEFINITION. One CKC cycle (R14, R345): what goes on with no command waiting (log entry 4). -/
namespace Sys2Proof.Machine

/-- TB96 moves by the time a CKC cycle takes; a slew that PPS ALIGN ordered lasts one second (R348). -/
def Eng.tbTick (e : Eng) : Eng :=
  let d := e.ckcPeriod
  let e1 := e.moveTb d
  let l := e.tim.slewLeft - d
  { e1 with tim := { e1.tim with slewLeft := l, slew := if l = 0 then 0 else e1.tim.slew, ppsAge := e1.tim.ppsAge + d } }

/-- Armed time of a unit's acquisition over `d` time units goes to its partition: M0 under ARR S, M1 under ARR D, and M3 with
a mask zone of a bound unit enabled (R351). -/
def Eng.useArmed (d : Nat) (e : Eng) (u : Fin 8) : Eng :=
  let o := e.owner (Pg.ACQ u)
  if e.armed u ∧ o < 8 then
    let add (s : Store) (b : Bool) : Store := if b then Store.put s o (Store.get s o 0 + d) 0 else s
    let zones := units8.any fun h => e.bound u h && e.get (Pg.HIS h) HIS.MASK_CTL.ZEN != 0
    e.onUse fun m => { m with m0 := add m.m0 (e.arr == 2), m1 := add m.m1 (e.arr == 1), m3 := add m.m3 zones }
  else e

/-- On the ring oscillator the time is wrong by at most 0.1 % of what passes (R346): a free value within that bound. -/
def Eng.ringTick (e : Eng) : Eng :=
  let d := e.ckcPeriod
  let err := (Config.freeWord e.freeCtr).toInt * (d / 1000 : Nat) / 2 ^ 31
  (e.moveTb (d + err)).fresh

/-- What a CKC cycle does to the engine's clocked parts. Without lock CKC stands: TB96 runs on the ring oscillator in a retune or relock, and rests before the first lock. -/
def Eng.ckcCycle (e : Eng) : Eng :=
  if e.lock then
    let e1 := (units8.foldl (Eng.useArmed e.ckcPeriod) e).tbTick
    let e2 := { e1 with cyc := e1.cyc + 1, xpt := { e1.xpt with hist := (e1.xpt.pos :: e1.xpt.hist).take 64 } }
    e2.evrTick.mcvStart
  else if e.retune then e.ringTick
  else e

/-- A CKC cycle, in which the test access port takes one cycle of TCK where one waits. -/
def Eng.tick (e : Eng) : Eng := e.ckcCycle.tckCycle

end Sys2Proof.Machine
end

