-- ==== Sys2Proof/WellFormed.lean ====
section
/-! DEFINITION. Which commands are well formed: what the spec fixes about an operand beside its type. Every command has a
meaning; an ill-formed one is a command that no sender and no unit of the block makes. -/
namespace Sys2Proof

/-- Software's half of a descriptor (R313): a length that is a multiple of 64 from 64 B to 16 MiB, and an aligned offset. -/
def Desc.wf (d : Desc) : Bool := d.len % 64 == 0 && decide (64 ≤ d.len ∧ d.len ≤ 2 ^ 24) && d.daddr % 64 == 0

/-- So are the heads of the other rings. -/
def Fetched.wf (f : Fetched) : Bool := f.desc.wf && f.heads.all fun x => x.2.wf

/-- A request covers bytes of one 256 B unit (R222). -/
def DramReq.wf (q : DramReq) : Bool := decide (0 < q.len ∧ q.addr % 256 + q.len ≤ 256)

/-- Statistics of a block: four loops for each core, eight guard points (R119, R124). -/
def BlockStats.wf (b : BlockStats) : Bool := b.err.all (fun c => c.length == 4) && b.guard.length == 8

/-- A word address: a register is 4 bytes and accesses are aligned (R32). -/
def aligned (off : Fin 4096) : Bool := off.val % 4 == 0

/-- The operands are within what the spec lets them be. -/
def Instr.wf : Instr → Bool
  | .registerWrite _ _ off _ rival => aligned off && rival.all fun r => aligned r.off
  | .multiwordLatchWrite _ _ off _ | .multiwordSnapshotRead _ _ off => aligned off
  | .grantWrite _ off _ | .qosWrite _ off _ => aligned off
  | .ctlEnSet .. | .ctlEnClear .. | .ctlCommit .. | .commitApply .. | .ctlAbort .. | .ctlXu .. => true
  | .grpGo .. | .grpMemberReady .. | .grpApply .. | .grpTimeout .. | .grpCancel .. => true
  | .retuneDone eyes | .dramInitDone eyes | .softResetDone eyes => eyes.length == 8
  | .clkCommit .. | .retuneRelock | .refMeasure .. | .holdTmoExpiry | .lockLost | .ckhLimitsWrite .. => true
  | .ckhLoopEval slack => slack.length == 25
  | .ckhDivStep | .slackBelowTarget | .boostReclaimPowerup => true
  | .tapWrite .. | .regionWrite .. | .tixcapWrite .. | .prtReset .. | .partResetDone .. | .prtSuspend .. => true
  | .prtResume .. | .heartbeat .. | .leaseLapse .. | .drainDone .. | .drainTimeout .. | .drainBudgetExhausted .. => true
  | .grantInconsistent | .limitWrite .. | .budgetWrite .. | .avsUpdate .. | .avsTransactionDone .. => true
  | .dtsSample temps => temps.length == 8
  | .thermShedStep | .dtsFail .. | .xchkPeriod => true
  | .datapathWord _ _ samples clips => samples.all (fun v => decide (-2048 ≤ v ∧ v ≤ 2047)) && decide (clips ≤ samples.length)
  | .settleEnd .. | .cnvPowerUpDone .. | .cnvPwrTimeout .. | .arrCommit .. | .arrMap => true
  | .calBlockEnd _ stats => stats.wf
  | .warmupEnd _ _ cores => cores.all (fun c => c.length == 4)
  | .calUpdateApply .. | .starveLimit .. | .calTmo .. | .calReset .. | .calDeclReset .. | .calRewarm .. => true
  | .declWindowEnd .. | .schussValue .. | .carveOutput .. | .fchGridStart .. | .coefDataWrite .. | .coefDataRead .. => true
  | .pkHoldClr .. | .pkHoldEnd .. | .fchCoef .. | .fromCheck .. => true
  | .tent .. | .tentResolve .. | .gateTmaxExpiry .. | .holdoffEnd .. | .trgForce .. | .trgRearm .. => true
  | .syncLost .. | .trgParity .. | .acqArm .. | .segmentClose .. | .segmentWritten .. | .acqRearmDone .. => true
  | .acqStop .. | .acqOverflowEnd .. | .streamBlockClose .. | .strRdWrite .. | .hisRecordClose .. | .hisFoldDone .. => true
  | .maskPostExpiry .. | .hisSnap .. | .snapshotDone .. | .hisClear .. | .hisMload .. | .mloadDone .. => true
  | .hisTile .. | .hisMask .. => true
  | .dramRequest _ req => req.wf
  | .dramCommandIssue _ _ blocked _ => blocked.all (fun b => decide (b < 32))
  | .snowplough _ _ row | .throttleDouble _ _ row => decide (row < 2 ^ 17)
  | .pageIdleClose .. | .refreshDue .. | .mr4Read .. | .refreshWindowBoundary .. => true
  | .wck2dqOscRead .. | .retrainPeriod .. | .leccRetrainTrigger .. | .dmcRetrain .. | .retrainStart .. => true
  | .retrainPass .. | .shortCheckDone .. | .marginalRetrain .. | .dmxRemap .. | .dmxMap => true
  | .mcvConversionDone .. | .mcvUrg .. | .mcvRefCheck | .accSnap .. | .accClear .. | .wcpLiveChange .. => true
  | .wcpFilterSample .. | .wcpCheckPeriod .. | .wcpCheckAfterCommit .. | .wcpCheck .. | .evrForce .. => true
  | .evioInputChange .. | .evrParity | .tachEdge .. | .idxEdge | .ctlEdge .. | .xportReadyEdge .. => true
  | .xptLoad .. | .velUpdate | .xptStopReq .. | .evrStopEdge | .outrunEnd | .xptRelease .. => true
  | .sfePeriodEnd .. | .sfeImpCheck .. | .sfeGuard .. | .bar0BadAccess .. => true
  | .bar2Read _ addr len _ => decide (0 < len ∧ addr + len ≤ 2 ^ 32)
  | .bar2Write _ addr bytes => decide (0 < bytes.length ∧ addr + bytes.length ≤ 2 ^ 32)
  | .bar2MarkClear .. | .msixUnmask .. | .vfFlr .. | .pfFlr | .dmqTailWrite .. => true
  | .descStream _ d => d.wf
  | .descRead _ d _ => d.wf
  | .descComplete _ d => d.wf
  | .descWrite _ d bytes => d.wf && bytes.length == d.desc.len
  | .dmqCoalTimeout .. | .dmaHost .. | .pciLink | .pciAerUe | .linkRetrain .. => true
  | .numvfsWrite num _ _ => decide (num.val ≤ 8)
  | .spiReadFrame .. | .spiWriteFrame .. | .spiFrameAbandon | .spiUnknownOpcode .. | .clogClr .. => true
  | .partCreate .. | .partDestroy .. | .partDestroyDone | .xptGrant .. | .xptOverride .. | .keyRotate .. => true
  | .keyRotateDone | .useRead .. | .useRestore .. | .debug .. | .keyUnknownCmd .. | .keyLockoutEnd .. => true
  | .timStep .. | .ppsEdge .. | .ppsLost | .useBoundary | .boundWrite .. => true
  | .mlnRxIdle .. | .mlnRxProbe .. | .mlnRxTimeHi .. | .mlnRxTimeLo .. | .mlnRxTimeRate .. | .mlnRxArm .. => true
  | .mlnRxArmAck .. | .mlnRxTrig .. | .mlnRxReserved .. | .mlnCrcError | .mlnClockLoss | .mlnProbeSend => true
  | .mlnProbeTimeout | .mlnTimeSend | .mlnArmSubmit .. | .mlnArmExecute | .rxTrigPop .. => true
  | .fltAck .. | .fltClear .. | .fltPurge .. | .fltParity | .por | .resetN | .perst .. | .rstSoft .. => true
  | .rstPart .. | .rstBlk .. | .blockResetDone .. => true
  | .fuseLoadDone _ badSlots _ => badSlots.all (fun s => decide (s < 4))
  | .rsLock | .rsLockTimeout | .mlnFramed | .pciLinkUp .. | .railBelowPorThreshold | .tb96SecondsRollover => true

end Sys2Proof
end

