-- ==== Sys2Proof/Safety.lean ====
section
/-! DEFINITION. The terms statements are made in: what a safe state is, and when a requester's command meets no check of the
page itself. -/
namespace Sys2Proof

/-- The commands that may store to DRAM or make its contents unspecified. -/
def Instr.storesDram : Instr → Bool
  | .registerWrite .. | .multiwordLatchWrite .. | .spiWriteFrame .. | .commitApply .. | .grpApply .. | .acqArm ..
  | .segmentWritten .. | .acqRearmDone .. | .streamBlockClose .. | .snapshotDone .. | .dramInitDone .. | .dmxRemap ..
  | .bar2Write .. | .descWrite .. | .mlnArmExecute | .softResetDone .. => true
  | _ => false

end Sys2Proof

namespace Sys2Proof.Machine

/-- A command bit of a word is taken as far as the page goes: the requester may write the word (R30, R31) and nothing keeps the
page busy (R37, R68, R401). The command's own conditions are apart. -/
def Eng.takes (e : Eng) (who : Src) (p off : Nat) : Prop := e.denied who p off false = none ∧ e.busyFor who p = false

/-- A write of a word that no command of the table stands for meets no refusal (R30, R31, R35-R37, R339): it reaches the page, is
the requester's to write, is not locked or out of range, and finds the page ready for it. -/
def Eng.plainTakes (e : Eng) (who : Src) (p off : Nat) (data : Word) : Prop :=
  (wordCmd who p off data).isNone = true ∧ e.denied who p off false = none ∧ ¬(p = Pg.DBG ∧ e.dbgOpen who = false) ∧
  (who.owner < 8 → sharedPage p = true → partWrites p off = true) ∧ ¬(8 ≤ who.owner ∧ p = Pg.PRT ∧ (off = 0x50 ∨ off = 0x54)) ∧
  e.wordOwner who p off data.toNat = false ∧ ((rowsAt (kindOf p) off).any Row.locked = true → e.bit p HDR.CTL.XU = true) ∧
  e.wordRange (viewPage who p off) p off data.toNat = false ∧ e.wordBusy who p off = false

/-- A submission of the sender reaches the key block: nothing runs and the sender is not locked out (R340, R343). -/
def Eng.heard (e : Eng) (who : Src) : Prop :=
  e.denied who Pg.KEY 0x90 false = none ∧ e.bit Pg.KEY KEY.STS.BUSY = false ∧ e.lockouts.testBit (senderOf who) = false

/-- The sender's mailbox holds an envelope of command `c` that passes steps 1 to 4 of R341. -/
def Eng.accepts (e : Eng) (who : Src) (c : Nat) : Prop :=
  e.heard who ∧ envCmd (e.envelope who) = c ∧ e.envCode who (e.envelope who) = none ∧ unusedZero (e.envelope who) = true

/-- The sender's view shows that command `cmd` with counter `ctr` completed with a code: RESULT, BUSY 0, IST.DONE (R343). -/
def Eng.answered (e : Eng) (who : Src) (code cmd ctr : Nat) : Prop :=
  ∀ v, v = vw who.code Pg.KEY → e.get v KEY.RESULT.CODE = code ∧ e.get v KEY.RESULT.CMD = cmd ∧ e.get v KEY.RESULT.CTR = ctr % 2 ^ 16 ∧
    e.bit Pg.KEY KEY.STS.BUSY = false ∧ e.bit v KEY.IST.DONE = true

/-- The engine without its registers, messages, answer and fault records. Two engines with the same core differ in those
alone. -/
def Eng.core (e : Eng) : Eng := { e with live := [], sent := [], msiPend := [], resp := ⟨0, []⟩, flt := [] }

/-- Every register field of every page and view but those of `ps` reads in `t` as in `e`. -/
def Eng.sameBut (e t : Eng) (ps : List Nat) : Prop :=
  ∀ (p : Nat) (f : Fld), f.off < 4096 → f.lo < 128 → p ∉ ps → t.get p f = e.get p f

/-- DRAM contents are in canonical form: one cell per byte that was written, at rising addresses. -/
abbrev State.wf (s : State) : Prop := s.mem.wf = true

end Sys2Proof.Machine
end

