-- ==== Sys2Proof/Certificates/Slice0/Obligations.lean ====
section
/-! DEFINITION. What is stated about the block: one definition for each statement. -/
open Sys2Proof Sys2Proof.Machine

/-- For every command c and state s whose queue is c followed by r, step s is exec c on s with the queue r: the command's
own outcome, whatever it is. The queue is the model's (log entry 1). -/
def Obligations.StepRunsTheFrontCommand : Prop :=
  ∀ (c : Instr) (r : List Instr) (s : State), s.pending = c :: r → step s = exec c { s with pending := r }

/-- With an empty queue and CKC running, a step answers a state in which TB96 is later by the CKC period of R345, the
cycle count is one more, and DRAM, POS and the queue are as before. Before the first lock (no lock, no retune) a step
changes nothing but the test access port, and without a cycle of TCK that waits nothing at all. A cycle of TCK that waits
is taken by the step: the controller moves by TMS, TRST_N low resets it; with RESET_N high the engine drives its balls
whatever the instruction; Capture-DR loads the product's IDCODE under IDCODE, and one 0 under BYPASS and, with RESET_N
high, under EXTEST, CLAMP and HIGHZ. That an empty queue is one cycle, and how TCK comes in, is the model's choice (log
entries 4 and 85). -/
def Obligations.EmptyQueueLetsOneCkcCyclePass : Prop :=
  (∀ s : State, s.pending = [] → s.eng.lock = true → s.eng.tb + s.eng.ckcPeriod < 2 ^ 48 * unitsPerSec →
      ∃ t, step s = .next t ∧ t.eng.tb = s.eng.tb + s.eng.ckcPeriod ∧ t.eng.cyc = s.eng.cyc + 1 ∧ t.eng.xpt.pos = s.eng.xpt.pos ∧
        t.mem = s.mem ∧ t.pending = []) ∧
    (∀ s : State, s.pending = [] → s.eng.lock = false → s.eng.retune = false →
      ∃ t, step s = .next t ∧ t.mem = s.mem ∧ t.pending = [] ∧ { t.eng with tap := s.eng.tap, freeCtr := s.eng.freeCtr } = s.eng ∧
        (s.eng.tap.wait = [] → t = s)) ∧
    (∀ (s : State) (c : TckCycle) (r : List TckCycle), s.pending = [] → s.eng.tap.wait = c :: r →
      ∃ t, step s = .next t ∧ t.eng.tap.wait = r ∧ t.eng.tap.st = (if c.trst then .reset else s.eng.tap.st.next c.tms) ∧
        (c.rst = false → t.eng.tap.drive = .engine) ∧
        (s.eng.tap.st = .capDr → s.eng.tap.ir = .idcode →
          t.eng.tap.drSh = (List.range 32).map (if s.eng.dev.ly6440 then (0x164407A5 : Nat) else 0x164807A5).testBit) ∧
        (s.eng.tap.st = .capDr → s.eng.tap.ir = .bypass ∨ (c.rst = false ∧ s.eng.tap.ir ∈ [.extest, .clamp, .highz]) →
          t.eng.tap.drSh = [false]))

/-- For every command c and every state s, exec c s is a next state whose queue is that of s: neither a fault nor a
refusal of the model. What the spec refuses is answered by an error code (R36, R37). -/
def Obligations.EveryCommandAnswersANextState : Prop :=
  ∀ (c : Instr) (s : State), ∃ t, exec c s = .next t ∧ t.pending = s.pending

/-- State.reset has an empty queue, DRAM in canonical form with nothing written, TB96 = 0, READY = 0, LOCK = 0, no
partition created, every page owned by the supervisor, CTL.EN = 0 on every page, no ticket held, STOPSTS.POR = 1 with
the five other requests 0, every fault record FREE, and the test access port in Test-Logic-Reset. -/
def Obligations.ResetIsTheStartUpState : Prop :=
  State.reset.pending = [] ∧ State.reset.mem = [] ∧ State.reset.wf ∧ State.reset.eng.tb = 0 ∧ State.reset.eng.ready = false ∧
      State.reset.eng.lock = false ∧ (∀ n : Fin 8, State.reset.eng.partState n = 0) ∧
      (∀ p : Fin 256, State.reset.eng.owner p = 8 ∧ State.reset.eng.bit p HDR.CTL.EN = false ∧ State.reset.eng.heldC p = 0) ∧
      State.reset.eng.bit Pg.XPT XPT.STOPSTS.POR = true ∧
      ([XPT.STOPSTS.SW, XPT.STOPSTS.MASK, XPT.STOPSTS.EVR, XPT.STOPSTS.OVR, XPT.STOPSTS.TRIP].all fun f => !State.reset.eng.bit Pg.XPT f) = true ∧
      State.reset.eng.tap.st = .reset ∧ State.reset.eng.flt.length = 32 ∧ (State.reset.eng.flt.all fun r => r.st == 0) = true

/-- From every state whose DRAM contents are in canonical form (one cell for each byte that was written, addresses
strictly rising), a step answers such a state: whichever of the 219 commands stands at the front, or none. That a byte
nothing has written has no cell and reads as a free value is the model's choice (log entry 2). -/
def Obligations.DramStaysCanonical : Prop :=
  ∀ s t : State, s.wf → step s = .next t → t.wf

/-- For every command but those that Instr.storesDram names (arming and re-arming, writing segments, blocks and snapshots,
applying a commit or a group, a BAR2 or descriptor write, an executed ARM, DRAM initialisation, the switch of the DRAM
map, a soft reset's end and register writes that are such a command), the DRAM contents after it are the contents
before it. -/
def Obligations.OnlyStoringCommandsChangeDram : Prop :=
  ∀ (c : Instr) (s t : State), c.storesDram = false → exec c s = .next t → t.mem = s.mem

/-- For every requester, page and aligned offset: a write of a word that is no command word and that the page takes
(Eng.plainTakes: it reaches the page, OWNER, LOCKED, RANGE and BUSY do not meet it) answers OK; each one-word field of
the word holds its bits of the data afterwards, live for a field that is written directly, in the shadow for a staged
field, whose live value stays. IEN keeps the bits that IST has, and EVIO_DIR the bits of others' balls: these two
words are stated apart. -/
def Obligations.TakenWriteStoresItsFields : Prop :=
  ∀ (s : State) (who : Src) (page : Fin 256) (off : Fin 4096) (data : Word), aligned off = true →
      s.eng.plainTakes who page off data →
      ∃ t, exec (.registerWrite who page off data none) s = .next t ∧ t.eng.resp = ⟨0, []⟩ ∧
        ∀ r ∈ rowsAt (kindOf page) off, r.f.words = 1 → off.val ≠ 0x1C → ¬(page.val = 0x72 ∧ off.val = 0x40) →
          (r.direct = true → t.eng.get (viewPage who page off) r.f = data.toNat / 2 ^ r.f.lo % 2 ^ r.f.w) ∧
          (r.acc = .rws ∨ r.acc = .rwls → t.eng.sh page r.f = data.toNat / 2 ^ r.f.lo % 2 ^ r.f.w ∧ t.eng.get page r.f = s.eng.get page r.f)

/-- A write of the lower word of a two-word field that is written directly leaves the field as it was and latches the
data; a write of the upper word stores both words at once, the lower one as latched. For every requester and each such
field of every page, where the page takes the word (Eng.plainTakes). -/
def Obligations.WideWordIsLatchedAndTakenWhole : Prop :=
  (∀ (s : State) (who : Src) (page : Fin 256) (off : Fin 4096) (data : Word), aligned off = true →
      s.eng.plainTakes who page off data → ∀ r ∈ rowsAt (kindOf page) off, r.direct = true → r.f.words = 2 → off.val = r.f.off →
      ∃ t, exec (.multiwordLatchWrite who page off data) s = .next t ∧
        t.eng.get (viewPage who page off) r.f = s.eng.get (viewPage who page off) r.f ∧
        Store.get t.eng.latch (wordKey (viewPage who page off) off) noWord = data.toNat) ∧
    (∀ (s : State) (who : Src) (page : Fin 256) (off : Fin 4096) (data : Word), aligned off = true →
      s.eng.plainTakes who page off data → ∀ r ∈ rowsAt (kindOf page) off, r.direct = true → r.f.words = 2 → off.val = r.f.off + 4 →
      ∀ w, Store.get s.eng.latch (wordKey (viewPage who page off) r.f.off) noWord = w → w < 2 ^ 32 →
      ∃ t, exec (.multiwordLatchWrite who page off data) s = .next t ∧ t.eng.resp = ⟨0, []⟩ ∧
        t.eng.get (viewPage who page off) r.f = (w + data.toNat * 2 ^ 32) / 2 ^ r.f.lo % 2 ^ r.f.w)

/-- For host and manager and every page and offset that has no read of its own (COEF_DATA, RX_TRIG0) and is not the closed
debug page: a read answers OK with one word, the captured one where the word is an upper word that was captured, else
the word as it stands; and each upper word that the read captures is kept as it stood. Registers keep their values. -/
def Obligations.ReadShowsTheWordAndCapturesTheRest : Prop :=
  ∀ (s : State) (who : Src) (page : Fin 256) (off : Fin 4096), aligned off = true → 8 ≤ who.code → s.eng.readDenied who page off = none →
      page.val ≠ Pg.DBG → ¬(kindOf page = .fch ∧ off.val = 0x58) → ¬(page.val = Pg.MLN0 ∧ off.val = 0x60) →
      ∃ t, exec (.multiwordSnapshotRead who page off) s = .next t ∧ t.eng.live = s.eng.live ∧
        t.eng.resp = ⟨0, [if isUpper page off = true ∧ Store.get s.eng.snap (wordKey (viewPage who page off) off) noWord ≠ noWord
          then Store.get s.eng.snap (wordKey (viewPage who page off) off) noWord else s.eng.wordAt who page off]⟩ ∧
        ∀ o ∈ captured page off, Store.get t.eng.snap (wordKey (viewPage who page off) o) noWord = s.eng.wordAt who page o

/-- A write of EN = 1 to a disabled page that the requester commands, that passes its checks and is granted its tickets,
leaves CTL.EN = 1. A write of EN = 0 to an enabled page that serves no outrun leaves CTL.EN = 0 and no ticket held on
either rail; where the page serves an outrun the order waits for its end and the block stays enabled. On the DMA page,
whose EN reads 1, EN = 0 stops fetching and EN = 1 starts it. A write of XU by a requester that may use expert fields
leaves CTL.XU as written. Each for every page of the map. -/
def Obligations.EnableAndLockBits : Prop :=
  (∀ (s : State) (who : Src) (page : Fin 256), s.eng.ctlDenied who page 0x10 = none → kindOf page ≠ .dma → s.eng.en page = false →
      s.eng.enCode who page = none → s.eng.tixCause (s.eng.enReq page) = none →
      ∃ t, exec (.ctlEnSet who page) s = .next t ∧ t.eng.bit page HDR.CTL.EN = true) ∧
    (∀ (s : State) (who : Src) (page : Fin 256), s.eng.denied who page 0x10 true = none →
      ¬(who.owner < 8 ∧ (sharedPage page = true ∨ viewWord page 0x10 = true)) → s.eng.busyFor who page = false → kindOf page ≠ .dma →
      fixedEn page = false → s.eng.en page = true → s.eng.servesOutrun page = false → s.eng.xpt.deferred = [] →
      ∃ t, exec (.ctlEnClear who page) s = .next t ∧ t.eng.bit page HDR.CTL.EN = false ∧ t.eng.heldC page = 0 ∧ t.eng.heldA page = 0) ∧
    (∀ (s : State) (who : Src) (page : Fin 256), s.eng.denied who page 0x10 true = none →
      ¬(who.owner < 8 ∧ (sharedPage page = true ∨ viewWord page 0x10 = true)) → s.eng.busyFor who page = false →
      fixedEn page = false → s.eng.en page = true → s.eng.servesOutrun page = true →
      ∃ t, exec (.ctlEnClear who page) s = .next t ∧ t.eng.en page = true ∧ (0, page.val) ∈ t.eng.xpt.deferred) ∧
    (∀ (s : State) (who : Src) (page : Fin 256), kindOf page = .dma → s.eng.ctlDenied who page 0x10 = none →
      s.eng.busyFor who page = false →
      (∃ t, exec (.ctlEnSet who page) s = .next t ∧ t.eng.dmaStop = false ∧ t.eng.resp = ⟨0, []⟩) ∧
      ∃ t, exec (.ctlEnClear who page) s = .next t ∧ t.eng.dmaStop = true ∧ t.eng.resp = ⟨0, []⟩) ∧
    (∀ (s : State) (who : Src) (page : Fin 256) (on : Bool), s.eng.ctlDenied who page 0x10 = none →
      ¬(who.owner < 8 ∧ sharedPage page = true) → (∀ n, who = .part n → on = true → s.eng.bit Pg.PRT (PRT.P_CFG.XA n) = true) →
      s.eng.busyFor who page = false →
      ∃ t, exec (.ctlXu who page on) s = .next t ∧ t.eng.bit page HDR.CTL.XU = on ∧ t.eng.resp = ⟨0, []⟩)

/-- A commit that its checks accept and that is granted its tickets leaves STS.PENDING = 1 (on WCP and EVR in the
function's own state) and every shadow as it was; on CLK and ARR it is CLK_COMMIT and ARR_COMMIT. A pending commit
outside a group, at its commit point, with no boost still to release, applies: each staged field of the committed part
holds what its shadow held (SETCTL.SEL of TIM returns to 0 instead), PENDING, GROUPED and DIRTY are 0, IST.CMT_DONE is
set, and the page's GEN and the owner's PGEN count on by one. ABORT, by the owner or the supervisor, of a pending commit
leaves PENDING and GROUPED 0 and every shadow as it was; in a group, the group is no longer pending. -/
def Obligations.CommitWaitsThenAppliesOrIsWithdrawn : Prop :=
  (∀ (s : State) (who : Src) (page : Fin 256), kindOf page ≠ .clk → kindOf page ≠ .arr → s.eng.ctlDenied who page 0x10 = none →
      s.eng.cmtCode [page] page (s.eng.cmtOf who page) = none → s.eng.busyFor who page = false →
      s.eng.tixCause (s.eng.cmtReq [page] (s.eng.cmtOf who page)) = none →
      ∃ t, exec (.ctlCommit who page) s = .next t ∧ t.eng.bit (hdrPage page (s.eng.cmtOf who page)) HDR.STS.PENDING = true ∧
        t.eng.shad = s.eng.shad ∧ t.eng.resp = ⟨0, []⟩) ∧
    (∀ (s : State) (who : Src) (page : Fin 256), (kindOf page = .clk → exec (.ctlCommit who page) s = exec (.clkCommit who) s) ∧
      (kindOf page = .arr → exec (.ctlCommit who page) s = exec (.arrCommit who) s)) ∧
    (∀ (s : State) (page : Fin 256) (fn : Fin 9), ∀ o q, o = (if page.val = Pg.WCP ∨ page.val = Pg.EVR then fn.val else s.eng.owner page) →
      q = hdrPage page o → s.eng.bit q HDR.STS.PENDING = true → s.eng.bit q HDR.STS.GROUPED = false → s.eng.waitsPower page = false →
      s.eng.atPoint page = true →
      ∃ t, exec (.commitApply page fn) s = .next t ∧ t.eng.bit q HDR.STS.PENDING = false ∧ t.eng.bit q HDR.STS.GROUPED = false ∧
        t.eng.bit q HDR.IST.CMT_DONE = true ∧ t.eng.dirty page o = false ∧
        (∀ r ∈ s.eng.staged page o, ¬(page.val = Pg.TIM ∧ r.f = TIM.SETCTL.SEL) → t.eng.get page r.f = s.eng.sh page r.f) ∧
        t.eng.get q HDR.GEN.COUNT = (s.eng.get q HDR.GEN.COUNT + 1) % 2 ^ HDR.GEN.COUNT.w ∧
        t.eng.get (vw o Pg.ENG) ENG.PGEN.COUNT = (s.eng.get (vw o Pg.ENG) ENG.PGEN.COUNT + 1) % 2 ^ ENG.PGEN.COUNT.w) ∧
    (∀ (s : State) (who : Src) (page : Fin 256), s.eng.denied who page 0x10 true = none →
      (who.owner < 8 → s.eng.ctlDenied who page 0x10 = none) → s.eng.busyFor who page = false →
      ∀ q, q = hdrPage page (s.eng.cmtOf who page) → s.eng.bit q HDR.STS.PENDING = true → s.eng.bit q HDR.STS.GROUPED = false →
      ∃ t, exec (.ctlAbort who page) s = .next t ∧ t.eng.bit q HDR.STS.PENDING = false ∧ t.eng.bit q HDR.STS.GROUPED = false ∧
        t.eng.shad = s.eng.shad ∧ t.eng.resp = ⟨0, []⟩) ∧
    (∀ (s : State) (who : Src) (page : Fin 256) (view : Fin 10), s.eng.denied who page 0x10 true = none →
      (who.owner < 8 → s.eng.ctlDenied who page 0x10 = none) → s.eng.busyFor who page = false →
      s.eng.bit (hdrPage page (s.eng.cmtOf who page)) HDR.STS.GROUPED = true → viewOwner view = s.eng.cmtOf who page →
      s.eng.grpPending view = true → page.val ∈ s.eng.grpMembers view →
      ∃ t v, exec (.ctlAbort who page) s = .next t ∧ page.val ∈ s.eng.grpMembers v ∧ viewOwner v = s.eng.cmtOf who page ∧
        s.eng.grpPending v = true ∧ t.eng.grpPending v = false ∧ t.eng.shad = s.eng.shad ∧
        ∀ p ∈ s.eng.grpMembers v, t.eng.bit (hdrPage p (viewOwner v)) HDR.STS.PENDING = false ∧
          t.eng.bit (hdrPage p (viewOwner v)) HDR.STS.GROUPED = false)

/-- GO of a function whose members pass every check and get their tickets sets GRP_STS.PENDING and leaves PENDING and
GROUPED set on every member. A member at its commit point is noted as ready. With every member ready and no boost to
release, GRP_APPLY leaves GRP_STS.PENDING 0, DONE 1 and PGEN counted on by one, and every member neither PENDING nor
GROUPED nor DIRTY, with each staged field of its part at what its shadow held (SETCTL.SEL of TIM returns to 0 instead).
After COMMIT_TMO with a member not ready, GRP_STS reads TIMEOUT with the first such member as LAGGARD, and the group is
released: no member is PENDING or GROUPED, and the shadows are kept. CANCEL releases the group in the same way. -/
def Obligations.GroupCommitsTogether : Prop :=
  (∀ (s : State) (who : Src), s.eng.denied who Pg.ENG 0xA0 false = none → s.eng.grpCode who (s.eng.grpMembers who.code) = none →
      s.eng.busyFor who Pg.ENG = false → s.eng.grpPending who.code = false →
      s.eng.tixCause (s.eng.grpReq (s.eng.grpMembers who.code) who.owner) = none →
      ∃ t, exec (.grpGo who) s = .next t ∧ t.eng.grpPending who.code = true ∧ t.eng.resp = ⟨0, []⟩ ∧
        ∀ p ∈ s.eng.grpMembers who.code, t.eng.bit (hdrPage p (s.eng.cmtOf who p)) HDR.STS.PENDING = true ∧
          t.eng.bit (hdrPage p (s.eng.cmtOf who p)) HDR.STS.GROUPED = true) ∧
    (∀ (s : State) (view : Fin 10) (page : Fin 256), s.eng.grpPending view = true → page.val ∈ s.eng.grpMembers view →
      s.eng.atHold page = true → ∃ t, exec (.grpMemberReady view page) s = .next t ∧ (view.val, page.val) ∈ t.eng.grpReady) ∧
    (∀ (s : State) (view : Fin 10), s.eng.grpPending view = true → s.eng.grpAllReady view = true →
      (∀ p ∈ s.eng.grpMembers view, s.eng.waitsPower p = false) →
      ∃ t, exec (.grpApply view) s = .next t ∧ t.eng.grpPending view = false ∧ t.eng.bit (vw view Pg.ENG) ENG.GRP_STS.DONE = true ∧
        t.eng.get (vw (viewOwner view) Pg.ENG) ENG.PGEN.COUNT =
          (s.eng.get (vw (viewOwner view) Pg.ENG) ENG.PGEN.COUNT + 1) % 2 ^ ENG.PGEN.COUNT.w ∧
        ∀ p ∈ s.eng.grpMembers view, t.eng.bit (hdrPage p (viewOwner view)) HDR.STS.PENDING = false ∧
          t.eng.bit (hdrPage p (viewOwner view)) HDR.STS.GROUPED = false ∧ t.eng.dirty p (viewOwner view) = false ∧
          ∀ r ∈ s.eng.staged p (viewOwner view), ¬(p = Pg.TIM ∧ r.f = TIM.SETCTL.SEL) → t.eng.get p r.f = s.eng.sh p r.f) ∧
    (∀ (s : State) (view : Fin 10), s.eng.grpPending view = true → s.eng.grpAllReady view = false →
      ∃ t, exec (.grpTimeout view) s = .next t ∧ t.eng.grpPending view = false ∧ t.eng.bit (vw view Pg.ENG) ENG.GRP_STS.TIMEOUT = true ∧
        t.eng.get (vw view Pg.ENG) ENG.GRP_STS.LAGGARD =
          ((s.eng.grpMembers view).find? fun p => !s.eng.grpReady.contains (view.val, p)).getD 0 % 256 ∧
        t.eng.shad = s.eng.shad ∧ ∀ p ∈ s.eng.grpMembers view, t.eng.bit (hdrPage p (viewOwner view)) HDR.STS.PENDING = false ∧
          t.eng.bit (hdrPage p (viewOwner view)) HDR.STS.GROUPED = false) ∧
    (∀ (s : State) (who : Src), s.eng.denied who Pg.ENG 0xA0 false = none → s.eng.busyFor who Pg.ENG = false →
      ∃ t, exec (.grpCancel who) s = .next t ∧ t.eng.grpPending who.code = false ∧ t.eng.shad = s.eng.shad ∧
        (s.eng.grpPending who.code = true → ∀ p ∈ s.eng.grpMembers who.code, t.eng.bit (hdrPage p who.owner) HDR.STS.PENDING = false ∧
          t.eng.bit (hdrPage p who.owner) HDR.STS.GROUPED = false))

/-- A CLK commit with an acceptable setting, quiescent and with nothing pending leaves PENDING, RETUNE and TIM.STS.COARSE
set, Miolan alignment lost and every DRAM channel in service in self-refresh. RS locked again (no holdover) leaves LOCK
set and the commit no longer pending, with each staged field of CLK that was pending at what its shadow held. The end
of the retraining leaves RETUNE clear, counts in RETUNE_CNT and sets IST.RETUNE_DONE; READY is 1 afterwards where it was
1 or where nothing of R27, R93 or R400 holds it. -/
def Obligations.RetuneRunsFromCommitToReady : Prop :=
  (∀ (s : State) (who : Src), s.eng.denied who Pg.CLK 0x10 false = none → s.eng.synOk = true → s.eng.quiescent = true →
      s.eng.busyFor who Pg.CLK = false → s.eng.bit Pg.CLK HDR.STS.PENDING = false → s.eng.retune = false →
      ∃ t, exec (.clkCommit who) s = .next t ∧ t.eng.bit Pg.CLK HDR.STS.PENDING = true ∧ t.eng.retune = true ∧
        t.eng.bit Pg.TIM TIM.STS.COARSE = true ∧ t.eng.bit Pg.MLN0 MLN0.STS.ALIGNED = false ∧ t.eng.resp = ⟨0, []⟩ ∧
        ∀ d : Fin 8, t.eng.dmcState d = (if s.eng.dmcState d = 2 ∨ s.eng.dmcState d = 3 ∨ s.eng.dmcState d = 4 then 5 else s.eng.dmcState d)) ∧
    (∀ s : State, s.eng.retune = true → s.eng.bit Pg.CLK CLK.STS.HOLDOVER = false →
      ∃ t, exec .retuneRelock s = .next t ∧ t.eng.lock = true ∧ t.eng.bit Pg.CLK HDR.STS.PENDING = false ∧
        (s.eng.bit Pg.CLK HDR.STS.PENDING = true → ∀ r ∈ s.eng.staged Pg.CLK 8, t.eng.get Pg.CLK r.f = s.eng.sh Pg.CLK r.f)) ∧
    (∀ (s : State) (eyes : List Nat), s.eng.retune = true → s.eng.lock = true → s.eng.bit Pg.CLK CLK.STS.HOLDOVER = false →
      s.eng.bit Pg.CLK HDR.STS.PENDING = false → s.eng.xpt.deferred = [] →
      ∃ t, exec (.retuneDone eyes) s = .next t ∧ t.eng.retune = false ∧ t.eng.bit Pg.CLK CLK.IST.RETUNE_DONE = true ∧
        t.eng.get Pg.CLK CLK.RETUNE_CNT.COUNT = min (s.eng.get Pg.CLK CLK.RETUNE_CNT.COUNT + 1) (2 ^ CLK.RETUNE_CNT.COUNT.w - 1) ∧
        (s.eng.ready = true ∨ (s.eng.put Pg.CLK CLK.STS.RETUNE 0).readyHeld = false → t.eng.ready = true))

/-- Once fuses are loaded, a measurement below the register's range leaves REF_MEAS at it and REF_OK set exactly if it is
within REF_TOL of REF_FREQ. Out of tolerance while locked or in a retune: HOLDOVER is set, and IST.REF_LOST where it was
not. In tolerance: HOLDOVER is clear. -/
def Obligations.ReferenceMeasuredAgainstTolerance : Prop :=
  ∀ (s : State) (hz : Nat), s.eng.fused = true → hz < 2 ^ 28 →
      ∃ t, exec (.refMeasure hz) s = .next t ∧ t.eng.get Pg.CLK CLK.REF_MEAS.FREQ = hz ∧
        (t.eng.bit Pg.CLK CLK.STS.REF_OK = true ↔
          ((hz : Int) - s.eng.get Pg.CLK CLK.REF_FREQ.FREQ).natAbs * 10 ^ 6 ≤
            s.eng.get Pg.CLK CLK.REF_FREQ.FREQ * s.eng.get Pg.CLK CLK.REF_TOL.PPM) ∧
        (t.eng.bit Pg.CLK CLK.STS.REF_OK = false → s.eng.lock = true ∨ s.eng.retune = true → t.eng.bit Pg.CLK CLK.STS.HOLDOVER = true ∧
          (s.eng.bit Pg.CLK CLK.STS.HOLDOVER = false → t.eng.bit Pg.CLK CLK.IST.REF_LOST = true)) ∧
        (t.eng.bit Pg.CLK CLK.STS.REF_OK = true → t.eng.bit Pg.CLK CLK.STS.HOLDOVER = false)

/-- With LOCK set and no order waiting for an outrun's end: LOCK_LOST, and HOLD_TMO_EXPIRY in holdover, leave LOCK and
READY clear, RETUNE and TIM.STS.COARSE set, no acquisition armed, each that was armed ended with CLOCK (8), and
UNLOCK_CNT counted on (saturating). -/
def Obligations.LossOfLockStopsEverything : Prop :=
  ∀ (c : Instr) (s : State), c = .lockLost ∨ (c = .holdTmoExpiry ∧ s.eng.bit Pg.CLK CLK.STS.HOLDOVER = true) → s.eng.lock = true →
      s.eng.xpt.deferred = [] →
      ∃ t, exec c s = .next t ∧ t.eng.lock = false ∧ t.eng.ready = false ∧ t.eng.retune = true ∧ t.eng.bit Pg.TIM TIM.STS.COARSE = true ∧
        (∀ u : Fin 8, t.eng.armed u = false ∧ (s.eng.armed u = true → t.eng.get (Pg.ACQ u) ACQ.STATE.END = 8)) ∧
        t.eng.get Pg.CLK CLK.UNLOCK_CNT.COUNT = min (s.eng.get Pg.CLK CLK.UNLOCK_CNT.COUNT + 1) (2 ^ CLK.UNLOCK_CNT.COUNT.w - 1)

/-- A write of the limits within 24 to 48, the lower not above the upper, whose tickets are granted, stores them. An
evaluation of a loop that does not run targets MAX_DIV, with every accumulation unit disabled MIN_DIV; else the target
is MAX_DIV or the lowest divider inside the limits whose boost fits and whose slack is at least TGT + STEP. One CKH cycle
moves the divider by one towards a target inside the limits, down only where the boost there is held, and up while a
reclaim waits for boost. Slack below target moves it up by one. With no free ticket missing any more no block waits for
power, and those that waited with CTL.EN = 1 run (shown for sensors, the transport port and rings). -/
def Obligations.AccumulationDividerFollowsItsTarget : Prop :=
  (∀ (s : State) (who : Src) (data : Word), ∀ lo hi, lo = data.toNat / 2 ^ 8 % 64 → hi = data.toNat / 2 ^ 16 % 64 → 24 ≤ lo → lo ≤ hi →
      hi ≤ 48 → s.eng.takes who Pg.CLK 0x58 → s.eng.tixCause (s.eng.hisReq hi) = none →
      ∃ t, exec (.ckhLimitsWrite who data) s = .next t ∧ t.eng.get Pg.CLK CLK.CKH.MIN_DIV = lo ∧ t.eng.maxDiv = hi) ∧
    (∀ (s : State) (slack : List Int), ∀ fits : Nat → Prop, (∀ d, fits d ↔
        (s.eng.boostAt d : Int) ≤ max 0 (s.eng.freeC + s.eng.bud.boost - s.eng.get Pg.BUD BUD.CKH_LOOP.RESERVE) ∧ 24 ≤ d ∧
        ∃ v, slack[d - 24]? = some v ∧ (s.eng.get Pg.BUD BUD.SLACK.TGT : Int) + s.eng.get Pg.BUD BUD.SLACK.STEP ≤ v) →
      ∃ t, exec (.ckhLoopEval slack) s = .next t ∧ t.eng.div = s.eng.div ∧
        (s.eng.ckhRuns = false → t.eng.bud.target = s.eng.maxDiv) ∧
        (s.eng.ckhRuns = true → (∀ h : Fin 8, s.eng.en (Pg.HIS h) = false) → t.eng.bud.target = s.eng.get Pg.CLK CLK.CKH.MIN_DIV) ∧
        (s.eng.ckhRuns = true → (∃ h : Fin 8, s.eng.en (Pg.HIS h) = true) → t.eng.bud.target ≠ s.eng.maxDiv →
          fits t.eng.bud.target ∧ s.eng.get Pg.CLK CLK.CKH.MIN_DIV ≤ t.eng.bud.target ∧ t.eng.bud.target ≤ s.eng.maxDiv ∧
          ∀ d, s.eng.get Pg.CLK CLK.CKH.MIN_DIV ≤ d → d < t.eng.bud.target → ¬fits d)) ∧
    (∀ s : State, s.eng.lock = true → 0 ≤ s.eng.freeC → s.eng.maxDiv < 64 → s.eng.div < 64 →
      s.eng.get Pg.CLK CLK.CKH.MIN_DIV ≤ s.eng.bud.target → s.eng.bud.target ≤ s.eng.maxDiv →
      ∃ t, exec .ckhDivStep s = .next t ∧
        t.eng.div = (if s.eng.div < s.eng.bud.target then s.eng.div + 1
          else if s.eng.bud.target < s.eng.div ∧ s.eng.boostAt (s.eng.div - 1) ≤ s.eng.bud.boost then s.eng.div - 1 else s.eng.div)) ∧
    (∀ s : State, s.eng.lock = true → s.eng.freeC < 0 → 0 < s.eng.bud.boost → s.eng.div < s.eng.maxDiv → s.eng.maxDiv < 64 →
      ∃ t, exec .ckhDivStep s = .next t ∧ t.eng.div = s.eng.div + 1) ∧
    (∀ s : State, s.eng.ckhRuns = true → s.eng.div < s.eng.maxDiv → s.eng.maxDiv < 64 →
      ∃ t, exec .slackBelowTarget s = .next t ∧ t.eng.div = s.eng.div + 1 ∧ t.eng.div ≤ t.eng.bud.target) ∧
    (∀ s : State, 0 ≤ s.eng.freeC → ∃ t, exec .boostReclaimPowerup s = .next t ∧ t.eng.bud.powerWait = [] ∧
      (∀ n : Fin 4, 256 + Pg.SFE n ∈ s.eng.bud.powerWait → s.eng.en (Pg.SFE n) = true → t.eng.bit (Pg.SFE n) SFE.STS.RUN = true) ∧
      (∀ i : Fin 16, 256 + Pg.DMQ i ∈ s.eng.bud.powerWait → s.eng.en (Pg.DMQ i) = true → t.eng.bit (Pg.DMQ i) DMQ.STS.RUN = true) ∧
      (256 + Pg.XPT ∈ s.eng.bud.powerWait → s.eng.en Pg.XPT = true → t.eng.bit Pg.XPT XPT.STS.RUN = true))

/-- A write of LIMIT by the manager within 256 to 720 (core) and 140 to 400 (ADC) stores both rails and leaves BUDGET at
the lower of itself and LIMIT; the host's write is refused OWNER and changes no limit. A write of BUDGET up to LIMIT on
both rails stores it, and OVERCOMMIT then shows, rail by rail, exactly whether more tickets are held than BUDGET. -/
def Obligations.BudgetLimitsAreStored : Prop :=
  (∀ (s : State) (data : Word), ∀ c a, c = data.toNat % 1024 → a = data.toNat / 2 ^ 16 % 1024 → 256 ≤ c → c ≤ 720 → 140 ≤ a → a ≤ 400 →
      s.eng.takes .manager Pg.BUD 0x40 →
      ∃ t, exec (.limitWrite .manager data) s = .next t ∧ t.eng.get Pg.BUD BUD.LIMIT.CORE = c ∧ t.eng.get Pg.BUD BUD.LIMIT.ADC = a ∧
        t.eng.get Pg.BUD BUD.BUDGET.CORE = min c (s.eng.get Pg.BUD BUD.BUDGET.CORE) ∧
        t.eng.get Pg.BUD BUD.BUDGET.ADC = min a (s.eng.get Pg.BUD BUD.BUDGET.ADC)) ∧
    (∀ (s : State) (data : Word), s.eng.denied .host Pg.BUD 0x40 false = none →
      ∃ t, exec (.limitWrite .host data) s = .next t ∧ t.eng.resp = ⟨3, []⟩ ∧
        t.eng.get Pg.BUD BUD.LIMIT.CORE = s.eng.get Pg.BUD BUD.LIMIT.CORE ∧ t.eng.get Pg.BUD BUD.LIMIT.ADC = s.eng.get Pg.BUD BUD.LIMIT.ADC) ∧
    (∀ (s : State) (who : Src) (data : Word), ∀ c a, c = data.toNat % 1024 → a = data.toNat / 2 ^ 16 % 1024 →
      c ≤ s.eng.get Pg.BUD BUD.LIMIT.CORE → a ≤ s.eng.get Pg.BUD BUD.LIMIT.ADC → s.eng.takes who Pg.BUD 0x44 →
      ∃ t, exec (.budgetWrite who data none) s = .next t ∧ t.eng.get Pg.BUD BUD.BUDGET.CORE = c ∧ t.eng.get Pg.BUD BUD.BUDGET.ADC = a ∧
        (t.eng.get Pg.BUD BUD.STS.OVERCOMMIT % 2 = 1 ↔ c < s.eng.sumC) ∧ (t.eng.get Pg.BUD BUD.STS.OVERCOMMIT / 2 = 1 ↔ a < s.eng.sumA))

/-- With the loop running, a least slack below target asks for 5 mV more where that is at most MAX; above target by more
than the hysteresis for 5 mV less where that is at least MIN; else VCORE stays; a changed voltage leaves as a Voltage
Write to the rail of AVS_CFG. A transaction that needed retries counts one error; one that failed four times sets
AVS_FAIL, stops the loop, freezes the CKH loop and targets MAX_DIV. A cross-check period with the cross-check on, in a
start-up that has ended, and none in progress requests both voltages of the monitor converter, and with IREAD a Current
Read leaves. -/
def Obligations.SupplyLoopMovesTheVoltage : Prop :=
  (∀ (s : State) (ckd ckh : Int), ∀ v lo hi, v = s.eng.get Pg.BUD BUD.VCORE.MV → lo = s.eng.get Pg.BUD BUD.AVS_LIM.MIN →
      hi = s.eng.get Pg.BUD BUD.AVS_LIM.MAX → s.eng.avsOn = true → v < 1024 → lo < 1024 → hi < 1024 →
      ∃ t, exec (.avsUpdate ckd ckh) s = .next t ∧
        t.eng.get Pg.BUD BUD.VCORE.MV =
          (if min ckd ckh < s.eng.get Pg.BUD BUD.SLACK.TGT then (if v + 5 ≤ hi then v + 5 else v)
           else if (s.eng.get Pg.BUD BUD.SLACK.TGT : Int) + s.eng.get Pg.BUD BUD.SLACK.HYST < min ckd ckh then
             (if lo + 5 ≤ v then v - 5 else v)
           else v) ∧
        (t.eng.get Pg.BUD BUD.VCORE.MV ≠ v →
          .avs (s.eng.get Pg.BUD BUD.AVS_CFG.RAIL) (.voltageWrite (t.eng.get Pg.BUD BUD.VCORE.MV)) ∈ t.eng.sent)) ∧
    (∀ (s : State) (retries : Fin 5) (current : Option Nat),
      ∃ t, exec (.avsTransactionDone retries current) s = .next t ∧
        t.eng.get Pg.BUD BUD.AVS_ERR_CNT.COUNT = (if retries.val = 0 then s.eng.get Pg.BUD BUD.AVS_ERR_CNT.COUNT
          else min (s.eng.get Pg.BUD BUD.AVS_ERR_CNT.COUNT + 1) (2 ^ BUD.AVS_ERR_CNT.COUNT.w - 1)) ∧
        (retries.val = 4 → t.eng.bit Pg.BUD BUD.STS.AVS_FAIL = true ∧ t.eng.avsOn = false ∧ t.eng.bud.frozen = true ∧ t.eng.bud.target = s.eng.maxDiv)) ∧
    (∀ s : State, s.eng.starting = false → s.eng.lock = true → s.eng.bit Pg.BUD BUD.XCHK.EN = true → s.eng.urgentHeld 0 0 = false →
      ∃ t, exec .xchkPeriod s = .next t ∧ (∀ c ∈ [(⟨3, 7, 0, 0⟩ : Conv), ⟨4, 7, 0, 0⟩], c ∈ t.eng.mcv.wait ∨ t.eng.mcv.run = some c) ∧
        (s.eng.bit Pg.BUD BUD.AVS_CFG.IREAD = true → .avs (s.eng.get Pg.BUD BUD.AVS_CFG.RAIL) .currentRead ∈ t.eng.sent))

/-- Once fuses are loaded, a sample leaves every reading that came in its register, limited to 8 signed bits; with a real
reading of 120 or more, on an engine that has not tripped, TRIP stops the transport and READY is clear. A shed step of a
hot emergency takes the first row that finds something: boost held that a frozen loop does not release yet freezes the
loop on its way to MAX_DIV (STEP 1); else the last acquisition unit without CAP is disabled (2), else the last with CAP
(3); with neither, the chains and sequencers that no enabled unit uses (4); with none of these, the channels that
nothing consumes, with their calibration (5). A sensor that gave nothing is listed as failed. -/
def Obligations.TemperatureShedsAndTrips : Prop :=
  (∀ (s : State) (temps : List (Option Int)), s.eng.fused = true → s.eng.xpt.deferred = [] →
      ∃ t, exec (.dtsSample temps) s = .next t ∧
        (∀ (k : Fin 8) (v : Int), temps.getD k none = some v → t.eng.getI Pg.BUD (BUD.DTS.TEMP k) = max (-128) (min 127 v)) ∧
        (∀ (k : Fin 8) (v : Int), temps.getD k none = some v → 120 ≤ v → s.eng.bud.trip = false →
          t.eng.bit Pg.XPT XPT.STOPSTS.TRIP = true ∧ t.eng.ready = false)) ∧
    (∀ s : State, s.eng.bit Pg.BUD BUD.STS.EMERG = true → s.eng.hot s.eng.emergT = true → s.eng.bud.trip = false → s.eng.xpt.deferred = [] →
      ∀ (boosted : Prop) (units : Bool → Option (Fin 8)) (loose : List Nat),
      (boosted ↔ s.eng.bud.boost ≠ 0 ∧ ¬(s.eng.bud.frozen = true ∧ s.eng.bud.target = s.eng.maxDiv)) →
      (∀ cap, units cap = s.eng.lastAcq fun u => (s.eng.bit (Pg.ACQ u) ACQ.MODE.CAP == cap) && s.eng.outrunAcq != some u) →
      loose = ((List.range 8).map Pg.FCH ++ (List.range 8).map Pg.TRG).filter (fun q => s.eng.en q && !s.eng.usedUnits.contains q) →
      ∃ t, exec .thermShedStep s = .next t ∧
        (boosted → t.eng.bud.frozen = true ∧ t.eng.bud.target = s.eng.maxDiv ∧ t.eng.get Pg.BUD BUD.SHED_LOG.STEP = 1) ∧
        (¬boosted → ∀ u, units false = some u ∨ (units false = none ∧ units true = some u) →
          t.eng.en (Pg.ACQ u) = false ∧ t.eng.armed u = false ∧ t.eng.get Pg.BUD BUD.SHED_LOG.PAGE = Pg.ACQ u ∧
          t.eng.get Pg.BUD BUD.SHED_LOG.STEP = (if units false = none then 3 else 2)) ∧
        (¬boosted → units false = none → units true = none →
          (∀ q ∈ loose, t.eng.en q = false) ∧ (loose ≠ [] → t.eng.get Pg.BUD BUD.SHED_LOG.STEP = 4) ∧
          (loose = [] → ∀ c : Fin 4, c.val ∉ s.eng.usedChans → t.eng.en (Pg.CNV c) = false ∧ t.eng.en (Pg.CAL c) = false))) ∧
    (∀ (s : State) (k : Fin 8), s.eng.fused = true → s.eng.bud.dtsFail.contains k.val = false → s.eng.xpt.deferred = [] →
      ∃ t, exec (.dtsFail k) s = .next t ∧ k.val ∈ t.eng.bud.dtsFail)

/-- For writes of the host that the checks accept, with no order waiting for an outrun's end: every resource of a grant
register that the write gives to a partition is that partition's, and one that it takes from a partition is the
supervisor's or in its revocation; a tap bit written 1 is a tap, one that was a tap and is written 0 drains; the region, the four class weights and the share limit, the DMA weight and both ticket caps hold
what was written. -/
def Obligations.GrantsTapsAndShares : Prop :=
  (∀ (s : State) (off : Fin 4096) (data : Word), s.eng.takes .host Pg.PRT off → s.eng.xpt.deferred = [] →
      (∀ x ∈ (grantCells off).zipIdx, s.eng.nibbleRange x.1 (data.toNat / 16 ^ x.2 % 16) = false ∧ s.eng.nibbleBusy x.1 (data.toNat / 16 ^ x.2 % 16) = false) →
      ∃ t, exec (.grantWrite .host off data) s = .next t ∧ t.eng.resp = ⟨0, []⟩ ∧
        ∀ x ∈ (grantCells off).zipIdx, (data.toNat / 16 ^ x.2 % 16 < 8 → t.eng.resOwner x.1 = data.toNat / 16 ^ x.2 % 16) ∧
          (data.toNat / 16 ^ x.2 % 16 = 8 → s.eng.resOwner x.1 ≤ 8 → t.eng.resOwner x.1 = 8 ∨ t.eng.revoking x.1 = true)) ∧
    (∀ (s : State) (data : Word), s.eng.takes .host Pg.PRT 0x304 → s.eng.xpt.deferred = [] →
      (∀ (c : Fin 4) (n : Fin 8), (data.toNat / 256 ^ c.val).testBit n = true → s.eng.taps c n = false → s.eng.grantable n = true ∧ s.eng.owner (Pg.CNV c) ≠ n) →
      ∃ t, exec (.tapWrite .host data) s = .next t ∧ ∀ (c : Fin 4) (n : Fin 8),
        ((data.toNat / 256 ^ c.val).testBit n = true → t.eng.taps c n = true) ∧
        ((data.toNat / 256 ^ c.val).testBit n = false → s.eng.taps c n = true → (⟨n, .tap c⟩ : Drain) ∈ t.eng.drains)) ∧
    (∀ (s : State) (n : Fin 8) (data : Word), ∀ b k, b = data.toNat % 256 → k = data.toNat / 2 ^ 16 % 512 → k ≤ 256 → n < s.eng.nParts →
      s.eng.takes .host Pg.PRT (0x10C + 0x40 * n) → (k ≠ 0 → b + k ≤ s.eng.capacity) →
      (∀ m : Fin 8, m ≠ n → k ≠ 0 → s.eng.get Pg.PRT (PRT.P_REGION.COUNT m) ≠ 0 → overlaps b k (s.eng.get Pg.PRT (PRT.P_REGION.BASE m)) (s.eng.get Pg.PRT (PRT.P_REGION.COUNT m)) = false) →
      (∀ u : Fin 8, (s.eng.owner (Pg.ACQ u) = n → s.eng.en (Pg.ACQ u) = false) ∧ (s.eng.owner (Pg.HIS u) = n → s.eng.en (Pg.HIS u) = false)) →
      (∀ i : Fin 16, s.eng.owner (Pg.DMQ i) = n → s.eng.en (Pg.DMQ i) = false) →
      ∃ t, exec (.regionWrite .host n data) s = .next t ∧ t.eng.get Pg.PRT (PRT.P_REGION.BASE n) = b ∧ t.eng.get Pg.PRT (PRT.P_REGION.COUNT n) = k) ∧
    (∀ (s : State) (n : Fin 8) (data : Word), n < s.eng.nParts → s.eng.takes .host Pg.PRT (0x110 + 0x40 * n) →
      (∀ c : Fin 4, data.toNat / 16 ^ c.val % 16 ≠ 0) → data.toNat / 2 ^ 16 % 128 ≠ 0 → data.toNat / 2 ^ 16 % 128 ≤ 64 →
      ∃ t, exec (.qosWrite .host ⟨0x110 + 0x40 * n, by omega⟩ data) s = .next t ∧
        (∀ c : Fin 4, t.eng.get Pg.PRT (PRT.P_QOS.W n c) = data.toNat / 16 ^ c.val % 16) ∧
        t.eng.get Pg.PRT (PRT.P_QOS.MAX_SHARE n) = data.toNat / 2 ^ 16 % 128) ∧
    (∀ (s : State) (n : Fin 8) (data : Word), n < s.eng.nParts → s.eng.takes .host Pg.PRT (0x114 + 0x40 * n) → data.toNat % 16 ≠ 0 →
      ∃ t, exec (.qosWrite .host ⟨0x114 + 0x40 * n, by omega⟩ data) s = .next t ∧ t.eng.get Pg.PRT (PRT.P_DMAW.WEIGHT n) = data.toNat % 16) ∧
    (∀ (s : State) (n : Fin 8) (data : Word), n < s.eng.nParts → s.eng.takes .host Pg.PRT (0x118 + 0x40 * n) →
      ∃ t, exec (.tixcapWrite .host n data) s = .next t ∧ t.eng.get Pg.PRT (PRT.P_TIXCAP.CORE n) = data.toNat % 1024 ∧
        t.eng.get Pg.PRT (PRT.P_TIXCAP.ADC n) = data.toNat / 2 ^ 16 % 1024)

/-- With no order waiting for an outrun's end: a reset of an existing created partition that is not RESETTING makes it
RESETTING, ends its acquisitions (one in outrun apart) and its pending group, lapses its ACTIVE leases and drains it;
once it has no drain the reset's end makes it READY, sets RESET_DONE, and leaves every page it owns disabled that is not
leased, no tapped channel and serves no outrun. A suspension takes READY to SUSPENDED and ends its acquisitions that
have no segment or block open; a resumption takes it back. A heartbeat of a partition makes each of its LAPSED leases
ACTIVE, a lapse each of its ACTIVE ones LAPSED. -/
def Obligations.PartitionStatesAndLeases : Prop :=
  (∀ (s : State) (n : Fin 8), n < s.eng.nParts → s.eng.partState n ≠ 0 → s.eng.partState n ≠ 3 → s.eng.takes .host Pg.PRT (0x108 + 0x40 * n) →
      s.eng.xpt.deferred = [] → ∃ t, exec (.prtReset .host n) s = .next t ∧ t.eng.partState n = 3 ∧ t.eng.grpPending n = false ∧
        (⟨n, .reset⟩ : Drain) ∈ t.eng.drains ∧
        (∀ u : Fin 8, s.eng.owner (Pg.ACQ u) = n → s.eng.outrunAcq ≠ some u → t.eng.armed u = false) ∧
        ∀ r : Fin 7, s.eng.owner (leasePage r) = n → s.eng.leaseState r = 1 → t.eng.leaseState r = 2) ∧
    (∀ (s : State) (n : Fin 8), s.eng.partState n = 3 → (∀ d ∈ s.eng.drains, d.part ≠ n) →
      ∃ t, exec (.partResetDone n) s = .next t ∧ t.eng.partState n = 1 ∧ (t.eng.get Pg.PRT PRT.IST.RESET_DONE).testBit n = true ∧
        ∀ p ∈ s.eng.owned n, leaseOf p = none → ¬(kindOf p = .cnv ∧ s.eng.tapped (p - 0x10) = true) → s.eng.servesOutrun p = false →
          t.eng.en p = false) ∧
    (∀ (s : State) (n : Fin 8), n < s.eng.nParts → s.eng.takes .host Pg.PRT (0x108 + 0x40 * n) → s.eng.xpt.deferred = [] →
      s.eng.partState n = 1 → ∃ t, exec (.prtSuspend .host n) s = .next t ∧ t.eng.partState n = 2 ∧
        ∀ u : Fin 8, s.eng.owner (Pg.ACQ u) = n → s.eng.acq[u].ending = 0 → s.eng.acq[u].seg = none → s.eng.acq[u].cur = none →
          t.eng.armed u = false) ∧
    (∀ (s : State) (n : Fin 8), n < s.eng.nParts → s.eng.takes .host Pg.PRT (0x108 + 0x40 * n) →
      s.eng.partState n = 2 → ∃ t, exec (.prtResume .host n) s = .next t ∧ t.eng.partState n = 1) ∧
    (∀ (s : State) (n : Fin 8), s.eng.takes (.part n) Pg.PRT 0x44 →
      ∃ t, exec (.heartbeat (.part n)) s = .next t ∧ ∀ r : Fin 7, t.eng.leaseState r =
        (if s.eng.owner (leasePage r) = n ∧ s.eng.leaseState r = 2 then 1 else s.eng.leaseState r)) ∧
    (∀ (s : State) (n : Fin 8),
      ∃ t, exec (.leaseLapse n) s = .next t ∧ ∀ r : Fin 7, t.eng.leaseState r =
        (if s.eng.owner (leasePage r) = n ∧ s.eng.leaseState r = 1 then 2 else s.eng.leaseState r))

/-- A drained partition has no drain left after DRAIN_DONE, its DRAINING bit is 0 and its DRAIN_DONE bit set, every page
whose revocation drained is the supervisor's and every tap that drained is gone; the supervisor's drains end alike. At
the time limit, and when the drain's budget is spent, a partition that drains has no drain left, and no closed segment or
block of its acquisitions waits to be written. An inconsistent grant table leaves a RAISED fault of page PRT, index 2, severity
ENGINE, where the queue has room. -/
def Obligations.DrainsEndOrAreCutShort : Prop :=
  (∀ (s : State) (n : Fin 9), s.eng.drained n = true → (∃ d ∈ s.eng.drains, d.part = n) →
      ∃ t, exec (.drainDone n) s = .next t ∧ (∀ d ∈ t.eng.drains, d.part ≠ n) ∧
        (n.val < 8 → (t.eng.get Pg.PRT PRT.STS.DRAINING).testBit n = false ∧ (t.eng.get Pg.PRT PRT.IST.DRAIN_DONE).testBit n = true) ∧
        (∀ p ∈ allPages, kindOf p ≠ .dmq → (⟨n, .revoke p⟩ : Drain) ∈ s.eng.drains → t.eng.owner p = 8) ∧
        ∀ c : Fin 4, n.val < 8 → (⟨n, .tap c⟩ : Drain) ∈ s.eng.drains → t.eng.taps c n = false) ∧
    (∀ (s : State) (n : Fin 9), (∃ d ∈ s.eng.drains, d.part = n) →
      (∃ t, exec (.drainTimeout n) s = .next t ∧ (∀ d ∈ t.eng.drains, d.part ≠ n) ∧
        ∀ u : Fin 8, s.eng.owner (Pg.ACQ u) = n → t.eng.acq[u].done = [] ∧ t.eng.acq[u].blks = []) ∧
      (s.eng.budgetSpent n = true → ∃ t, exec (.drainBudgetExhausted n) s = .next t ∧ (∀ d ∈ t.eng.drains, d.part ≠ n) ∧
        ∀ u : Fin 8, s.eng.owner (Pg.ACQ u) = n → t.eng.acq[u].done = [] ∧ t.eng.acq[u].blks = [])) ∧
    (∀ s : State, s.eng.xpt.deferred = [] → s.eng.flt.length = 32 → (∃ i : Fin 28, (s.eng.flt.getD i FltRec.free).isFree = true) →
      ∃ t, exec .grantInconsistent s = .next t ∧ ∃ r ∈ t.eng.flt, r.page = Pg.PRT ∧ r.index = 2 ∧ r.sev = 3 ∧ r.st = 1)

/-- With no order waiting for an outrun's end, one word of samples leaves the channel's sample index counted on by the
samples per word, the word's first index and VALID bit noted (VALID as R27, R109, R111 and R115 give it), a VALID = 0
span one word shorter, and every enabled chain that reads the channel with those samples appended, each limited to 12
bits and then band-limited; clips of a valid word set STS.CLIP and count in CLIP_CNT, saturating, and a word without
them, or not valid, clears STS.CLIP. The end of a VALID = 0 span, its last word past, clears SETTLING and sets
IST.SETTLE_END. The coefficients of the bandwidth limit are the model's free values (log entry 77). -/
def Obligations.SampleWordsReachChainsAndClipCount : Prop :=
  (∀ (s : State) (ch ph : Fin 4) (samples : List Int) (clips : Nat), s.eng.xpt.deferred = [] →
      ∃ t, exec (.datapathWord ch ph samples clips) s = .next t ∧ t.eng.cnv[ch].idx = s.eng.cnv[ch].idx + s.eng.wordLen ch ∧
        t.eng.cnv[ch].wIdx = s.eng.cnv[ch].idx ∧ t.eng.cnv[ch].wOk = s.eng.wordOk ch ∧ t.eng.cnv[ch].left = s.eng.cnv[ch].left - 1 ∧
        (∀ f : Fin 8, s.eng.en (Pg.FCH f) = true → s.eng.get (Pg.FCH f) FCH.INPUT.CH = ch →
          t.eng.fch[f].hist = s.eng.fch[f].hist ++
            (bandLimit (s.eng.get (Pg.CNV ch) CNV.BWL.SEL) s.eng.cnv[ch].past
              ((List.range (s.eng.wordLen ch)).map fun i => clampI (-2048) 2047 (samples.getD i 0))).map fun v => ⟨v, s.eng.wordOk ch⟩) ∧
        (s.eng.wordOk ch = false ∨ clips = 0 → t.eng.bit (Pg.CNV ch) CNV.STS.CLIP = false) ∧
        (s.eng.wordOk ch = true → clips ≠ 0 → t.eng.bit (Pg.CNV ch) CNV.STS.CLIP = true ∧
          t.eng.get (Pg.CNV ch) CNV.CLIP_CNT.COUNT =
            min (s.eng.get (Pg.CNV ch) CNV.CLIP_CNT.COUNT + clips) (2 ^ CNV.CLIP_CNT.COUNT.w - 1))) ∧
    (∀ (s : State) (ch : Fin 4), s.eng.bit (Pg.CNV ch) CNV.STS.SETTLING = true → s.eng.cnv[ch].left = 0 →
      ∃ t, exec (.settleEnd ch) s = .next t ∧ t.eng.bit (Pg.CNV ch) CNV.STS.SETTLING = false ∧ t.eng.bit (Pg.CNV ch) CNV.IST.SETTLE_END = true)

/-- An enabled channel that powers up, its grant not waiting for power, is UP with IST.UP_DONE, its calibration not
converged and no loop's count kept, and runs its loops where calibration is enabled; where UP does not come in time
PWR_FAIL_CNT counts, IST.PWR_FAIL is set, and CTL.EN and UP stay as they were. An accepted ARR commit, quiescent and
granted, is PENDING. A parity failure of the core map leaves MAP_OK 0 with IST.MAP_FAULT, no acquisition armed, and
FAULT as the end of each that was. -/
def Obligations.ChannelsPowerUpAndKeepTheirMap : Prop :=
  (∀ (s : State) (ch : Fin 4), s.eng.en (Pg.CNV ch) = true → s.eng.cnv[ch].upWait = true → s.eng.bud.powerWait.contains (Pg.CNV ch) = false →
      ∃ t, exec (.cnvPowerUpDone ch) s = .next t ∧ t.eng.bit (Pg.CNV ch) CNV.STS.UP = true ∧ t.eng.bit (Pg.CNV ch) CNV.IST.UP_DONE = true ∧
        t.eng.bit (Pg.CAL ch) CAL.STS.CONVERGED = false ∧ t.eng.bit (Pg.CAL ch) CAL.STS.CALSTARVED = true ∧ t.eng.cnv[ch].upWait = false ∧
        t.eng.bit (Pg.CAL ch) CAL.STS.RUN = s.eng.en (Pg.CAL ch) ∧ ∀ l ∈ t.eng.cal[ch].loops, l.conv = 0 ∧ l.ok = false) ∧
    (∀ (s : State) (ch : Fin 4), s.eng.en (Pg.CNV ch) = true → s.eng.cnv[ch].upWait = true →
      ∃ t, exec (.cnvPwrTimeout ch) s = .next t ∧ t.eng.en (Pg.CNV ch) = true ∧ t.eng.bit (Pg.CNV ch) CNV.IST.PWR_FAIL = true ∧
        t.eng.bit (Pg.CNV ch) CNV.STS.UP = s.eng.bit (Pg.CNV ch) CNV.STS.UP ∧
        t.eng.get (Pg.CNV ch) CNV.PWR_FAIL_CNT.COUNT = min (s.eng.get (Pg.CNV ch) CNV.PWR_FAIL_CNT.COUNT + 1) (2 ^ CNV.PWR_FAIL_CNT.COUNT.w - 1)) ∧
    (∀ (s : State) (who : Src), ∀ m, m = s.eng.sh Pg.ARR ARR.ARR.MODE → m ≤ 2 → s.eng.takes who Pg.ARR 0x10 → s.eng.quiescent = true →
      s.eng.arrBusy m = false → s.eng.cmtPending Pg.ARR 8 = false → s.eng.tixCause (s.eng.arrReq m) = none →
      ∃ t, exec (.arrCommit who) s = .next t ∧ t.eng.bit Pg.ARR HDR.STS.PENDING = true ∧ t.eng.resp = ⟨0, []⟩) ∧
    (∀ s : State, s.eng.xpt.deferred = [] →
      ∃ t, exec .arrMap s = .next t ∧ t.eng.bit Pg.ARR ARR.STS.MAP_OK = false ∧ t.eng.bit Pg.ARR ARR.IST.MAP_FAULT = true ∧
        ∀ u : Fin 8, t.eng.armed u = false ∧ (s.eng.armed u = true → t.eng.get (Pg.ACQ u) ACQ.STATE.END = 7))

/-- With the loops running: a block that holds an invalid word counts in DISCARD_CNT and changes no correction and no
loop; any other counts in BLOCK_CNT and leaves its result waiting, the corrections and loops still unchanged: the
detectors that fired, and starved exactly the loops not frozen that one of them marks. Cycle 16 puts in force the loops,
the correction of every loop and core (0 for a core that does not serve the channel; that of a loop frozen meanwhile
stays), RANGE, SPUR, CAL_Q, CONVERGED, STARVED, CALSTARVED and the detectors shown. A loop starved for STARVE_MS, not
reported yet, sets IST.STARVE_LIM once; TMO_MS without convergence sets BAD. -/
def Obligations.CalibrationBlocksAndTheirUpdate : Prop :=
  (∀ (s : State) (ch : Fin 4) (st : BlockStats), s.eng.bit (Pg.CAL ch) CAL.STS.RUN = true →
      ∃ t, exec (.calBlockEnd ch st) s = .next t ∧
        (∀ m k : Nat, m < 4 → k < 16 → t.eng.get (Pg.CAL ch) (coreFld m k) = s.eng.get (Pg.CAL ch) (coreFld m k)) ∧
        t.eng.cal[ch].loops = s.eng.cal[ch].loops ∧
        (s.eng.cal[ch].dirty = true → t.eng.cal[ch].dirty = false ∧ t.eng.cal[ch].pend = none ∧
          t.eng.get (Pg.CAL ch) CAL.DISCARD_CNT.COUNT = min (s.eng.get (Pg.CAL ch) CAL.DISCARD_CNT.COUNT + 1) (2 ^ 32 - 1)) ∧
        (s.eng.cal[ch].dirty = false →
          t.eng.get (Pg.CAL ch) CAL.BLOCK_CNT.COUNT = min (s.eng.get (Pg.CAL ch) CAL.BLOCK_CNT.COUNT + 1) (2 ^ 32 - 1) ∧
          ∃ q, t.eng.cal[ch].pend = some q ∧ q.det = s.eng.detectors ch st ∧ q.spur = st.spur ∧
            ∀ m : Fin 4, (q.loops.getD m LoopRt.fresh).starved =
              (!s.eng.frozen ch m && decide (s.eng.detectors ch st &&& marked m ≠ 0)))) ∧
    (∀ (s : State) (ch : Fin 4) (q : CalPend), s.eng.cal[ch].pend = some q →
      ∃ t, exec (.calUpdateApply ch) s = .next t ∧ t.eng.cal[ch].pend = none ∧ t.eng.cal[ch].loops = q.loops ∧
        (∀ m k : Nat, m < 4 → k < 16 → t.eng.get (Pg.CAL ch) (coreFld m k) =
          if (coresIn s.eng.dev.ly6440 s.eng.arr ch).contains k then
            unsigned 32 (if s.eng.frozen ch m then s.eng.getI (Pg.CAL ch) (coreFld m k) else (q.cores.getD k []).getD m 0)
          else 0) ∧
        t.eng.getI (Pg.CAL ch) CAL.QUAL.SPUR = clampI (-2048) 2047 q.spur ∧ t.eng.bit (Pg.CAL ch) CAL.STS.RANGE = q.range ∧
        t.eng.get (Pg.CAL ch) CAL.STARVE_WHY.DET = q.det % 16 ∧
        (t.eng.bit (Pg.CAL ch) CAL.STS.CONVERGED = true ↔
          ∀ m : Fin 4, s.eng.frozen ch m = true ∨ (q.loops.getD m LoopRt.fresh).ok = true) ∧
        (t.eng.bit (Pg.CAL ch) CAL.STS.STARVED = true ↔ ∃ m : Fin 4, (q.loops.getD m LoopRt.fresh).starved = true) ∧
        t.eng.bit (Pg.CAL ch) CAL.STS.CALSTARVED =
          (!t.eng.bit (Pg.CAL ch) CAL.STS.CONVERGED || t.eng.bit (Pg.CAL ch) CAL.STS.STARVED || t.eng.bit (Pg.CAL ch) CAL.STS.BAD) ∧
        t.eng.get (Pg.CAL ch) CAL.QUAL.CAL_Q = calQ q.spur (t.eng.bit (Pg.CAL ch) CAL.STS.CONVERGED)) ∧
    (∀ (s : State) (ch lp : Fin 4), ∀ l, l = s.eng.cal[ch].loops.getD lp LoopRt.fresh → l.starved = true → l.limited = false →
      s.eng.get (Pg.CAL ch) CAL.LIMITS.STARVE_MS * unitsPerMs ≤ l.starveT →
      ∃ t, exec (.starveLimit ch lp) s = .next t ∧ t.eng.bit (Pg.CAL ch) CAL.IST.STARVE_LIM = true ∧
        (t.eng.cal[ch].loops.getD lp LoopRt.fresh).limited = true) ∧
    (∀ (s : State) (ch : Fin 4), s.eng.bit (Pg.CAL ch) CAL.STS.CONVERGED = false → s.eng.bit (Pg.CAL ch) CAL.STS.BAD = false →
      s.eng.get (Pg.CAL ch) CAL.LIMITS.TMO_MS * unitsPerMs ≤ s.eng.cal[ch].tmoT →
      ∃ t, exec (.calTmo ch) s = .next t ∧ t.eng.bit (Pg.CAL ch) CAL.STS.BAD = true ∧ t.eng.bit (Pg.CAL ch) CAL.IST.BAD = true ∧
        t.eng.bit (Pg.CAL ch) CAL.STS.CALSTARVED = true)

/-- A reset that the page takes clears CONVERGED, BAD, RANGE, every loop's count and the timeout, and leaves each of the
channel's cores at its snapshot with the factory skew trim; DECL_RESET returns scale and offset to factory trim and the
tracer to OFF; REWARM on a disabled converter with calibration enabled and tickets free sets REWARM and starts from
factory trim. The end of a warm-up clears REWARM, shows WARM_OK and CONVERGED as it went, and keeps as snapshot each
core's corrections within the loops' ranges, or its factory trim where it has none. A tracer window's end empties the bins; all declared levels found: SCALE = 1; else
FOUND = 0, and a third miss in lock loses it. -/
def Obligations.CalibrationResetsAndDeclaredLevels : Prop :=
  (∀ (s : State) (who : Src) (ch : Fin 4), s.eng.takes who (Pg.CAL ch) 0x40 →
      (∃ t, exec (.calReset who ch) s = .next t ∧ t.eng.resp = ⟨0, []⟩ ∧ t.eng.bit (Pg.CAL ch) CAL.STS.CONVERGED = false ∧
        t.eng.bit (Pg.CAL ch) CAL.STS.BAD = false ∧ t.eng.bit (Pg.CAL ch) CAL.STS.RANGE = false ∧
        t.eng.get (Pg.CAL ch) CAL.TMO_ELAPSED.MS = 0 ∧ t.eng.cal[ch].tmoT = 0 ∧ (∀ l ∈ t.eng.cal[ch].loops, l.conv = 0 ∧ l.ok = false) ∧
        ∀ k ∈ coresIn s.eng.dev.ly6440 s.eng.arr ch,
          t.eng.get (Pg.CAL ch) (coreFld 3 k) = unsigned 32 (Config.coreTrim 3 k) ∧
          ∀ m : Fin 3, t.eng.get (Pg.CAL ch) (coreFld m k) = unsigned 32 ((s.eng.cal[ch].snap.getD k []).getD m 0)) ∧
      ∃ t, exec (.calDeclReset who ch) s = .next t ∧ t.eng.bit (Pg.CAL ch) CAL.STS.SCALE = false ∧ t.eng.get (Pg.CAL ch) CAL.DECL_SCALE.PPM = 0 ∧
        t.eng.get (Pg.CAL ch) CAL.DECL_OFFS.CODE16 = 0 ∧ t.eng.get (Pg.CAL ch) CAL.DECL_STS.STATE = 0 ∧ t.eng.get (Pg.CAL ch) CAL.DECL_STS.FOUND = 0) ∧
    (∀ (s : State) (who : Src) (ch : Fin 4), s.eng.takes who (Pg.CAL ch) 0x40 → s.eng.en (Pg.CNV ch) = false → s.eng.en (Pg.CAL ch) = true →
      ∀ e, e = s.eng.put (Pg.CAL ch) CAL.STS.REWARM 1 → e.tixCause (e.reqFor false (Pg.CAL ch)) = none →
      ∃ t, exec (.calRewarm who ch) s = .next t ∧ t.eng.bit (Pg.CAL ch) CAL.STS.REWARM = true ∧ t.eng.resp = ⟨0, []⟩ ∧
        ∀ k ∈ coresIn s.eng.dev.ly6440 s.eng.arr ch, ∀ m : Fin 4,
          t.eng.get (Pg.CAL ch) (coreFld m k) = unsigned 32 (Config.coreTrim m k)) ∧
    (∀ (s : State) (ch : Fin 4) (ok : Bool) (rows : List (List Int)),
      s.eng.cal[ch].warming = true ∨ s.eng.bit (Pg.CAL ch) CAL.STS.REWARM = true →
      ∃ t, exec (.warmupEnd ch ok rows) s = .next t ∧ t.eng.bit (Pg.CAL ch) CAL.STS.REWARM = false ∧ t.eng.bit (Pg.CAL ch) CAL.STS.WARM_OK = ok ∧
        t.eng.bit (Pg.CAL ch) CAL.STS.CONVERGED = ok ∧ t.eng.cal[ch].warming = false ∧
        ∀ x ∈ (coresIn s.eng.dev.ly6440 (if s.eng.cal[ch].warming then 2 else s.eng.arr) ch).zipIdx,
          t.eng.cal[ch].snap.getD x.1 [] = (if rows.getD x.2 [] = [] then trimRow x.1
            else (List.range 4).map fun m => clampI (-(loopRange m)) (loopRange m) ((rows.getD x.2 []).getD m 0))) ∧
    (∀ (s : State) (ch : Fin 4), s.eng.get (Pg.CAL ch) CAL.DECL_STS.STATE ≠ 0 → s.eng.get (Pg.CAL ch) CAL.DECL_STS.STATE ≠ 4 →
      ∃ t, exec (.declWindowEnd ch) s = .next t ∧ t.eng.cal[ch].bins = [] ∧ t.eng.cal[ch].binN = 0 ∧
        ∀ ms, ms = ((s.eng.declared false (Pg.CAL ch)).map (codeOf (fsMv (s.eng.get (Pg.CNV ch) CNV.INPUT.GAIN)))).map (s.eng.measured ch) →
          (ms.all (·.isSome) = true → t.eng.bit (Pg.CAL ch) CAL.STS.SCALE = true ∧ t.eng.cal[ch].lost = 0 ∧
            (s.eng.get (Pg.CAL ch) CAL.DECL_STS.STATE = 2 → t.eng.get (Pg.CAL ch) CAL.DECL_STS.STATE = 2)) ∧
          (ms.all (·.isSome) = false → t.eng.get (Pg.CAL ch) CAL.DECL_STS.FOUND = 0 ∧
            t.eng.bit (Pg.CAL ch) CAL.STS.SCALE = s.eng.bit (Pg.CAL ch) CAL.STS.SCALE ∧
            (s.eng.get (Pg.CAL ch) CAL.DECL_STS.STATE = 2 → s.eng.cal[ch].lost = 2 →
              t.eng.get (Pg.CAL ch) CAL.DECL_STS.STATE = 3 ∧ t.eng.bit (Pg.CAL ch) CAL.IST.DECL_LOST = true)))

/-- SETTLE_END, CNV_POWER_UP_DONE and CNV_PWR_TIMEOUT change no register outside the channel's CNV and CAL pages, FLT and
SPI (a fault record, ALERT_STS); block end, update, starve limit, time-out and tracer window none outside CAL, FLT and
SPI; RESET and DECL_RESET none outside CAL and the requester's view of ENG (a refusal). Beside registers, messages,
the answer and fault records, they change the running state of CNV and CAL alone. -/
def Obligations.ConverterAndCalibrationFrames : Prop :=
  (∀ (s t : State) (ch : Fin 4) (i : Instr), i ∈ [Instr.settleEnd ch, .cnvPowerUpDone ch, .cnvPwrTimeout ch] → exec i s = .next t →
      s.eng.sameBut t.eng [Pg.CNV ch, Pg.CAL ch, Pg.FLT, Pg.SPI] ∧ t.eng.core = ({ s.eng with cnv := t.eng.cnv, cal := t.eng.cal } : Eng).core) ∧
    (∀ (s t : State) (ch m : Fin 4) (st : BlockStats) (i : Instr),
      i ∈ [Instr.calBlockEnd ch st, .calUpdateApply ch, .starveLimit ch m, .calTmo ch, .declWindowEnd ch] → exec i s = .next t →
      s.eng.sameBut t.eng [Pg.CAL ch, Pg.FLT, Pg.SPI] ∧ t.eng.core = ({ s.eng with cal := t.eng.cal } : Eng).core) ∧
    (∀ (s t : State) (who : Src) (ch : Fin 4) (i : Instr), i ∈ [Instr.calReset who ch, .calDeclReset who ch] → exec i s = .next t →
      s.eng.sameBut t.eng [Pg.CAL ch, vw who.code Pg.ENG] ∧ t.eng.core = ({ s.eng with cal := t.eng.cal } : Eng).core)

/-- An enabled chain with samples not yet delivered shows the last Schuss value of the word and counts them on. An enabled
running chain whose next output's last sample has come, with no order waiting for an outrun's end, shows that output
as LAST.CARVE, counts it in OUT_CNT, in INVALID_CNT if it is not valid, and goes on to the next. A chain whose
flush is over starts its grid at the channel's next sample with the invalid outputs of R150. A hold of N outputs ends with the
extremes as PK_VAL. -/
def Obligations.ChainsDeliverTheirValues : Prop :=
  (∀ (s : State) (f : Fin 8), s.eng.en (Pg.FCH f) = true → ∀ n, n = min (s.eng.fch[f].base + s.eng.fch[f].hist.length - s.eng.fch[f].sN)
      (s.eng.wordLen (fin4 (s.eng.get (Pg.FCH f) FCH.INPUT.CH))) → n ≠ 0 →
      ∃ t, exec (.schussValue f) s = .next t ∧ t.eng.fch[f].sN = s.eng.fch[f].sN + n ∧
        t.eng.get (Pg.FCH f) FCH.LAST.SCHUSS = unsigned 16 (s.eng.schuss f (s.eng.fch[f].sN + (n - 1))).v) ∧
    (∀ (s : State) (f : Fin 8), ∀ r, r = s.eng.fch[f] → s.eng.en (Pg.FCH f) = true → r.run = true →
      r.i0 + r.k * s.eng.get (Pg.FCH f) FCH.DEC.RATIO < r.base + r.hist.length → s.eng.xpt.deferred = [] →
      ∃ t, exec (.carveOutput f) s = .next t ∧ t.eng.fch[f].k = r.k + 1 ∧
        t.eng.get (Pg.FCH f) FCH.LAST.CARVE = unsigned 16 ((s.eng.carve f r.k).ws.getLastD 0) ∧
        t.eng.get (Pg.FCH f) FCH.OUT_CNT.COUNT = min (s.eng.get (Pg.FCH f) FCH.OUT_CNT.COUNT + 1) (2 ^ FCH.OUT_CNT.COUNT.w - 1) ∧
        t.eng.get (Pg.FCH f) FCH.INVALID_CNT.COUNT = (if (s.eng.carve f r.k).ok then s.eng.get (Pg.FCH f) FCH.INVALID_CNT.COUNT
          else min (s.eng.get (Pg.FCH f) FCH.INVALID_CNT.COUNT + 1) (2 ^ FCH.INVALID_CNT.COUNT.w - 1))) ∧
    (∀ (s : State) (f : Fin 8), s.eng.en (Pg.FCH f) = true → s.eng.fch[f].run = false → s.eng.fch[f].flush = 1 →
      ∃ t, exec (.fchGridStart f) s = .next t ∧ t.eng.fch[f].run = true ∧ t.eng.fch[f].k = 0 ∧
        t.eng.fch[f].i0 = s.eng.cnv[fin4 (s.eng.get (Pg.FCH f) FCH.INPUT.CH)].idx ∧ t.eng.bit (Pg.FCH f) FCH.STS.RUN = true ∧
        t.eng.get (Pg.FCH f) FCH.INVALID.COUNT = min (s.eng.fchInvalid (Pg.FCH f)) 65535 ∧
        (t.eng.bit (Pg.FCH f) FCH.STS.SETTLING = true ↔ s.eng.fchInvalid (Pg.FCH f) ≠ 0)) ∧
    (∀ (s : State) (f : Fin 8) (a b : Int), s.eng.en (Pg.FCH f) = true → s.eng.bit (Pg.FCH f) FCH.DET.PK = true →
      s.eng.get (Pg.FCH f) FCH.PK_HOLD.N ≠ 0 → s.eng.get (Pg.FCH f) FCH.PK_HOLD.N ≤ s.eng.fch[f].pkN → s.eng.fch[f].pkExt = some (a, b) →
      ∃ t, exec (.pkHoldEnd f) s = .next t ∧ t.eng.getI (Pg.FCH f) FCH.PK_VAL.MIN = clampI (-32767) 32767 a ∧
        t.eng.getI (Pg.FCH f) FCH.PK_VAL.MAX = clampI (-32767) 32767 b ∧ t.eng.fch[f].pkExt = none ∧
        t.eng.bit (Pg.FCH f) FCH.IST.PK_HOLD_END = true)

/-- A coefficient written to a disabled chain that the requester commands is stored at COEF_ADDR, which counts on, and
clears COEF_BAD; a read answers the coefficient there and counts on. HOLD_CLR leaves PK_VAL 0 and not valid. A parity
failure in an enabled chain that uses its RAM sets COEF_BAD, counts it and sets IST.COEF_FAULT. A ROM check counts in
CHECK_CNT and shows its outcome; a bad one leaves an ENGINE fault of page FROM, index 2, RAISED where the queue has
room. -/
def Obligations.CoefficientRamDetectorsAndRomCheck : Prop :=
  (∀ (s : State) (who : Src) (f : Fin 8) (data : Word), s.eng.takes who (Pg.FCH f) 0x58 → s.eng.en (Pg.FCH f) = false →
      ∃ t, exec (.coefDataWrite who f data) s = .next t ∧ t.eng.resp = ⟨0, []⟩ ∧
        Store.get t.eng.fch[f].coef (s.eng.get (Pg.FCH f) FCH.COEF_ADDR.ADDR) 0 = data.toNat % 2 ^ 18 ∧
        t.eng.get (Pg.FCH f) FCH.COEF_ADDR.ADDR = (s.eng.get (Pg.FCH f) FCH.COEF_ADDR.ADDR + 1) % 2 ^ FCH.COEF_ADDR.ADDR.w ∧
        t.eng.bit (Pg.FCH f) FCH.STS.COEF_BAD = false ∧
        ∀ a, a ≠ s.eng.get (Pg.FCH f) FCH.COEF_ADDR.ADDR → Store.get t.eng.fch[f].coef a 0 = Store.get s.eng.fch[f].coef a 0) ∧
    (∀ (s : State) (who : Src) (f : Fin 8), s.eng.readDenied who (Pg.FCH f) 0x58 = none →
      ∃ t, exec (.coefDataRead who f) s = .next t ∧
        t.eng.resp = ⟨0, [Store.get s.eng.fch[f].coef (s.eng.get (Pg.FCH f) FCH.COEF_ADDR.ADDR) 0]⟩ ∧
        t.eng.get (Pg.FCH f) FCH.COEF_ADDR.ADDR = (s.eng.get (Pg.FCH f) FCH.COEF_ADDR.ADDR + 1) % 2 ^ FCH.COEF_ADDR.ADDR.w ∧
        t.eng.fch = s.eng.fch) ∧
    (∀ (s : State) (who : Src) (f : Fin 8), s.eng.takes who (Pg.FCH f) 0x84 →
      ∃ t, exec (.pkHoldClr who f) s = .next t ∧ t.eng.bit (Pg.FCH f) FCH.STS.PK_VALID = false ∧
        t.eng.get (Pg.FCH f) FCH.PK_VAL.MIN = 0 ∧ t.eng.get (Pg.FCH f) FCH.PK_VAL.MAX = 0 ∧ t.eng.fch[f].pkExt = none) ∧
    (∀ (s : State) (f : Fin 8), s.eng.en (Pg.FCH f) = true → s.eng.fchRam false (Pg.FCH f) = true →
      ∃ t, exec (.fchCoef f) s = .next t ∧ t.eng.bit (Pg.FCH f) FCH.STS.COEF_BAD = true ∧ t.eng.bit (Pg.FCH f) FCH.IST.COEF_FAULT = true ∧
        t.eng.get (Pg.FCH f) FCH.COEF_FAULT_CNT.COUNT =
          min (s.eng.get (Pg.FCH f) FCH.COEF_FAULT_CNT.COUNT + 1) (2 ^ FCH.COEF_FAULT_CNT.COUNT.w - 1)) ∧
    (∀ (s : State) (ok : Bool),
      ∃ t, exec (.fromCheck ok) s = .next t ∧ t.eng.bit Pg.FROM FROM.STS.ROM_OK = ok ∧
        t.eng.get Pg.FROM FROM.CHECK_CNT.COUNT = min (s.eng.get Pg.FROM FROM.CHECK_CNT.COUNT + 1) (2 ^ FROM.CHECK_CNT.COUNT.w - 1) ∧
        (ok = false → s.eng.flt.length = 32 → (∃ i : Fin 28, (s.eng.flt.getD i FltRec.free).isFree = true) →
          ∃ r ∈ t.eng.flt, r.page = Pg.FROM ∧ r.index = 2 ∧ r.sev = 3 ∧ r.st = 1))

/-- A grid start, the end of a hold and a RAM parity fault change no register outside the chain's page, FLT and SPI; a
coefficient write or read and HOLD_CLR none outside the chain's page and the requester's view of ENG; a ROM check none
outside FROM, FLT and SPI. Beside registers, messages, the answer and fault records, the first six change the chains'
running state alone, and the ROM check none. -/
def Obligations.ChainFrames : Prop :=
  (∀ (s t : State) (f : Fin 8) (i : Instr), i ∈ [Instr.fchGridStart f, .pkHoldEnd f, .fchCoef f] → exec i s = .next t →
      s.eng.sameBut t.eng [Pg.FCH f, Pg.FLT, Pg.SPI] ∧ t.eng.core = ({ s.eng with fch := t.eng.fch } : Eng).core ∧
        ∀ g : Fin 8, g ≠ f → t.eng.fch[g] = s.eng.fch[g]) ∧
    (∀ (s t : State) (who : Src) (f : Fin 8) (data : Word) (i : Instr),
      i ∈ [Instr.coefDataWrite who f data, .coefDataRead who f, .pkHoldClr who f] → exec i s = .next t →
      s.eng.sameBut t.eng [Pg.FCH f, vw who.code Pg.ENG] ∧ t.eng.core = ({ s.eng with fch := t.eng.fch } : Eng).core ∧
        ∀ g : Fin 8, g ≠ f → t.eng.fch[g] = s.eng.fch[g]) ∧
    (∀ (s t : State) (ok : Bool), exec (.fromCheck ok) s = .next t →
      s.eng.sameBut t.eng [Pg.FROM, Pg.FLT, Pg.SPI] ∧ t.eng.core = s.eng.core)

/-- With no order waiting for an outrun's end: a lead's completion at an enabled sequencer that is not idle and has no
TENT becomes the TENT, takes the next 8-bit tag and pulses TRGnT; every register of the page reads as before.
Resolution ends it: not aborted, and forced or completed by the check inside the window, it is a CONF (TRGnC pulses,
IST.TRIG set); else a VOID (TRGnV pulses). With no commit of the page pending a CONF counts TRIG_CNT and shows the
tag, a VOID counts VOID_CNT and leaves both. -/
def Obligations.TentativeTriggersAndTheirResolution : Prop :=
  (∀ (s : State) (t : Fin 8) (c : Comp), s.eng.trg[t].due = some c → s.eng.en (Pg.TRG t) = true → s.eng.trg[t].tent = none →
      s.eng.leadIdle t = false → s.eng.xpt.deferred = [] →
      ∃ t', exec (.tent t) s = .next t' ∧ t'.eng.trg[t].tent = some c ∧ t'.eng.trg[t].due = none ∧
        t'.eng.trg[t].tag = (s.eng.trg[t].tag + 1) % 256 ∧ t'.eng.trg[t].tentTag = (s.eng.trg[t].tag + 1) % 256 ∧
        0x30 + t.val ∈ t'.eng.evr.pulse ∧ ∀ f : Fld, f.off < 4096 → f.lo < 128 → t'.eng.get (Pg.TRG t) f = s.eng.get (Pg.TRG t) f) ∧
    (∀ (s : State) (t : Fin 8) (tc : Comp), ∀ r, r = s.eng.trg[t] → r.tent = some tc → s.eng.xpt.deferred = [] →
      ∃ t', exec (.tentResolve t) s = .next t' ∧ t'.eng.trg[t].tent = none ∧
        ((r.abort = false ∧ (tc.forced = true ∨ ∃ c, r.comp = some c ∧ (c.t256 - tc.t256).natAbs ≤ s.eng.confWin t)) →
          0x38 + t.val ∈ t'.eng.evr.pulse ∧ t'.eng.bit (Pg.TRG t) TRG.IST.TRIG = true ∧
          (s.eng.bit (Pg.TRG t) HDR.STS.PENDING = false →
            t'.eng.get (Pg.TRG t) TRG.LAST_TAG.TAG = r.tentTag % 256 ∧
            t'.eng.get (Pg.TRG t) TRG.TRIG_CNT.COUNT = min (s.eng.get (Pg.TRG t) TRG.TRIG_CNT.COUNT + 1) (2 ^ 32 - 1))) ∧
        (¬(r.abort = false ∧ (tc.forced = true ∨ ∃ c, r.comp = some c ∧ (c.t256 - tc.t256).natAbs ≤ s.eng.confWin t)) →
          0x40 + t.val ∈ t'.eng.evr.pulse ∧
          (s.eng.bit (Pg.TRG t) HDR.STS.PENDING = false →
            t'.eng.get (Pg.TRG t) TRG.LAST_TAG.TAG = s.eng.get (Pg.TRG t) TRG.LAST_TAG.TAG ∧
            t'.eng.get (Pg.TRG t) TRG.TRIG_CNT.COUNT = s.eng.get (Pg.TRG t) TRG.TRIG_CNT.COUNT ∧
            t'.eng.get (Pg.TRG t) TRG.VOID_CNT.COUNT = min (s.eng.get (Pg.TRG t) TRG.VOID_CNT.COUNT + 1) (2 ^ 32 - 1)))) ∧
    (∀ (s : State) (who : Src) (t : Fin 8), s.eng.takes who (Pg.TRG t) 0x68 → s.eng.en (Pg.TRG t) = true →
      ∃ t', exec (.trgForce who t) s = .next t' ∧ t'.eng.trg[t].force = true ∧ t'.eng.resp = ⟨0, []⟩)

/-- At an active evaluator whose gate has a TMAX, its expiry enters the gate of an ELSE branch that names one, and
completes the lead, or the check of a TENT, where ELSE is FIRE. The end of a TIME holdoff, and REARM with no TENT under way, leave no holdoff
and both evaluators at gate 0; REARM with a TENT under way waits for it. A lost separator clears SYNC_LOCK and VID_POS
and sets IST.SYNC_LOST. A parity fault holds the sequencer, drops its completion and aborts its TENT. -/
def Obligations.GatesHoldoffAndSequencerFaults : Prop :=
  (∀ (s : State) (t : Fin 8) (lead : Bool), ∀ r k, r = s.eng.trg[t] → k = (if lead then r.lead else r.check) →
      s.eng.get (Pg.TRG t) (TRG.GATE_TMAX.SAMPLES k.gate) ≠ 0 → s.eng.en (Pg.TRG t) = true → r.held = false → r.fault = false → r.comp = none →
      r.hold = false → (lead = true → r.due = none ∧ r.tent = none ∧ s.eng.leadIdle t = false) →
      ∃ t', exec (.gateTmaxExpiry t lead) s = .next t' ∧
        (∀ g, branch (s.eng.get (Pg.TRG t) (TRG.GATE_BR.ELSE k.gate)) = .go g →
          (if lead then t'.eng.trg[t].lead else t'.eng.trg[t].check).gate = g) ∧
        (branch (s.eng.get (Pg.TRG t) (TRG.GATE_BR.ELSE k.gate)) = .fire →
          (lead = true → t'.eng.trg[t].due.isSome = true) ∧
          (lead = false → r.due.isSome = true ∨ r.tent.isSome = true → t'.eng.trg[t].comp.isSome = true))) ∧
    (∀ (s : State) (t : Fin 8), s.eng.en (Pg.TRG t) = true → s.eng.trg[t].hold = true → s.eng.get (Pg.TRG t) TRG.HOLD_MODE.MODE = 1 →
      ∃ t', exec (.holdoffEnd t) s = .next t' ∧ t'.eng.trg[t].hold = false ∧ t'.eng.bit (Pg.TRG t) TRG.STS.HOLDOFF = false ∧
        t'.eng.trg[t].lead.gate = 0 ∧ t'.eng.trg[t].check.gate = 0) ∧
    (∀ (s : State) (who : Src) (t : Fin 8), s.eng.takes who (Pg.TRG t) 0x68 → s.eng.en (Pg.TRG t) = true →
      ∃ t', exec (.trgRearm who t) s = .next t' ∧
        (s.eng.trg[t].tent.isSome = true ∨ s.eng.trg[t].due.isSome = true → t'.eng.trg[t].rearm = true) ∧
        (s.eng.trg[t].tent = none → s.eng.trg[t].due = none → t'.eng.trg[t].hold = false ∧ t'.eng.trg[t].lead.gate = 0 ∧
          t'.eng.trg[t].check.gate = 0)) ∧
    (∀ (s : State) (t : Fin 8), s.eng.bit (Pg.TRG t) TRG.STS.SYNC_LOCK = true →
      ∃ t', exec (.syncLost t) s = .next t' ∧ t'.eng.bit (Pg.TRG t) TRG.STS.SYNC_LOCK = false ∧
        t'.eng.get (Pg.TRG t) TRG.VID_POS.LINE = 0 ∧ t'.eng.get (Pg.TRG t) TRG.VID_POS.FIELD = 0 ∧
        t'.eng.bit (Pg.TRG t) TRG.IST.SYNC_LOST = true) ∧
    (∀ (s : State) (t : Fin 8),
      ∃ t', exec (.trgParity t) s = .next t' ∧ t'.eng.trg[t].fault = true ∧ t'.eng.trg[t].due = none ∧ t'.eng.leadIdle t = true ∧
        (s.eng.trg[t].tent.isSome = true → t'.eng.trg[t].abort = true))

/-- With no order waiting for an outrun's end, the eight leave the running state of converters, calibration, chains,
comparators, sensors, DRAM channels, keys and the time base as it was. A lost separator and a parity fault change no
register outside the sequencer's page, FLT and SPI; FORCE none outside the sequencer's page and the requester's view
of ENG; and of the running state these three change the sequencers alone. -/
def Obligations.SequencerFrames : Prop :=
  (∀ (s t' : State) (who : Src) (t : Fin 8) (lead : Bool) (i : Instr), s.eng.xpt.deferred = [] →
      i ∈ [Instr.tent t, .tentResolve t, .gateTmaxExpiry t lead, .holdoffEnd t, .trgForce who t, .trgRearm who t, .syncLost t, .trgParity t] →
      exec i s = .next t' →
      t'.eng.cnv = s.eng.cnv ∧ t'.eng.cal = s.eng.cal ∧ t'.eng.fch = s.eng.fch ∧ t'.eng.wcp = s.eng.wcp ∧ t'.eng.sfe = s.eng.sfe ∧
        t'.eng.dmc = s.eng.dmc ∧ t'.eng.key = s.eng.key ∧ t'.eng.tim = s.eng.tim) ∧
    (∀ (s t' : State) (t : Fin 8) (i : Instr), i ∈ [Instr.syncLost t, .trgParity t] → exec i s = .next t' →
      s.eng.sameBut t'.eng [Pg.TRG t, Pg.FLT, Pg.SPI] ∧ t'.eng.core = ({ s.eng with trg := t'.eng.trg } : Eng).core) ∧
    (∀ (s t' : State) (who : Src) (t : Fin 8), exec (.trgForce who t) s = .next t' →
      s.eng.sameBut t'.eng [Pg.TRG t, vw who.code Pg.ENG] ∧ t'.eng.core = ({ s.eng with trg := t'.eng.trg } : Eng).core)

/-- An arm that every check accepts leaves the unit ARMED, in PREFILL, with nothing open or waiting and SEG_DONE, MISSED and
EARLY_CNT 0. A segment with its last sample and its CONF closes: it waits to be written with TRUNC, OVF and MEMFAULT 0,
SEQ counts on; without wrap the COUNT-th close ends the acquisition DONE. Re-arm ends; a pending commit applies then,
each staged field at what its shadow held; a pending group holds the unit. STOP outside an outrun ends STOPPED, a
confirmed segment closed with TRUNC, a tentative one awaited; in the cycle of a STOP zone's end it makes that end
STOPPED. An overflow whose data is written ends OVERFLOW and counts. -/
def Obligations.AcquisitionsArmCaptureAndEnd : Prop :=
  (∀ (s : State) (who : Src) (u : Fin 8), s.eng.takes who (Pg.ACQ u) 0x60 → s.eng.armCode u = none →
      ∃ t, exec (.acqArm who u) s = .next t ∧ t.eng.armed u = true ∧ t.eng.resp = ⟨0, []⟩ ∧ t.eng.acq[u] = AcqRt.fresh ∧
        t.eng.get (Pg.ACQ u) ACQ.STATE.STATE = 1 ∧
        t.eng.get (Pg.ACQ u) ACQ.SEG_DONE.COUNT = 0 ∧ t.eng.get (Pg.ACQ u) ACQ.MISSED.COUNT = 0 ∧ t.eng.get (Pg.ACQ u) ACQ.EARLY_CNT.COUNT = 0) ∧
    (∀ (s : State) (u : Fin 8) (g : Seg), ∀ a, a = s.eng.acq[u] → a.seg = some g → s.eng.segReady u = true → s.eng.xpt.deferred = [] →
      ∃ t, exec (.segmentClose u) s = .next t ∧ t.eng.acq[u].seg = none ∧ t.eng.acq[u].seq = a.seq + 1 ∧
        t.eng.acq[u].done = a.done ++ [{ g with trunc := false, ovf := false, memf := false, missedD := a.missedD, earlyD := a.earlyD }] ∧
        (s.eng.armed u = true → a.ending = 0 → s.eng.get (Pg.ACQ u) ACQ.STATE.STATE ≠ 7 → s.eng.bit (Pg.ACQ u) ACQ.SEG_COUNT.WRAP = false →
          s.eng.get (Pg.ACQ u) ACQ.SEG_COUNT.COUNT = a.seq + 1 → t.eng.armed u = false ∧ t.eng.get (Pg.ACQ u) ACQ.STATE.END = 1)) ∧
    (∀ (s : State) (u : Fin 8), s.eng.armed u = true → s.eng.acq[u].rearm = true →
      ∃ t, exec (.acqRearmDone u) s = .next t ∧ t.eng.acq[u].rearm = false ∧
        (s.eng.grpOf (Pg.ACQ u) = none → t.eng.bit (Pg.ACQ u) HDR.STS.PENDING = false ∧
          (s.eng.bit (Pg.ACQ u) HDR.STS.PENDING = true → ∀ r ∈ s.eng.staged (Pg.ACQ u) (s.eng.owner (Pg.ACQ u)),
            t.eng.get (Pg.ACQ u) r.f = s.eng.sh (Pg.ACQ u) r.f)) ∧
        ((s.eng.grpOf (Pg.ACQ u)).isSome = true → t.eng.acq[u].held = true)) ∧
    (∀ (s : State) (who : Src) (u : Fin 8), s.eng.takes who (Pg.ACQ u) 0x60 → s.eng.armed u = true →
      s.eng.get (Pg.ACQ u) ACQ.STATE.STATE ≠ 7 → s.eng.acq[u].ending = 0 ∨ s.eng.acq[u].ending = 6 → s.eng.acq[u].postAt ≠ some s.eng.cyc →
      ∃ t, exec (.acqStop who u) s = .next t ∧
        ((∀ g, s.eng.acq[u].seg = some g → g.conf.isSome = true) → t.eng.armed u = false ∧ t.eng.get (Pg.ACQ u) ACQ.STATE.END = 2) ∧
        (∀ g, s.eng.acq[u].seg = some g → g.conf.isSome = true → ∃ d, t.eng.acq[u].done = s.eng.acq[u].done ++ [d] ∧ d.trunc = true ∧ d.data = g.data) ∧
        (∀ g, s.eng.acq[u].seg = some g → g.conf = none → t.eng.armed u = true ∧ t.eng.acq[u].ending = 2)) ∧
    (∀ (s : State) (who : Src) (u : Fin 8), s.eng.takes who (Pg.ACQ u) 0x60 → s.eng.armed u = false → s.eng.acq[u].postAt = some s.eng.cyc →
      ∃ t, exec (.acqStop who u) s = .next t ∧ t.eng.armed u = false ∧ t.eng.get (Pg.ACQ u) ACQ.STATE.END = 2) ∧
    (∀ (s : State) (u : Fin 8), s.eng.overDone u = true → s.eng.armed u = true → s.eng.xpt.deferred = [] →
      ∃ t, exec (.acqOverflowEnd u) s = .next t ∧ t.eng.armed u = false ∧ t.eng.get (Pg.ACQ u) ACQ.STATE.END = 3 ∧
        t.eng.bit (Pg.ACQ u) ACQ.STS.OVERFLOW = true ∧
        t.eng.get (Pg.ACQ u) ACQ.OVF_CNT.COUNT = min (s.eng.get (Pg.ACQ u) ACQ.OVF_CNT.COUNT + 1) (2 ^ ACQ.OVF_CNT.COUNT.w - 1))

/-- With DRAM out of self-refresh and no drain of the owner running, the oldest closed segment whose header does not fall
on a degraded channel is written: the 64 bytes of its header (R189; with a CRC that fails, where the header's write met an uncorrectable
error) at its header's address and its packed samples at its data address (R180, R285), where the map takes a write;
every byte outside both reads as before; SEG_DONE becomes its SEQ + 1 and IST.SEG is set. With no drain of the owner
running a block of a DRAM ring with room is written at STR_WR, every byte outside it as before; STR_WR counts on round
the ring. STR_RD takes a value not beyond STR_WR. -/
def Obligations.StreamsAndSegmentsAreWritten : Prop :=
  (∀ (s : State) (u : Fin 8) (ue : Bool) (g : Seg) (rest : List Seg), s.eng.acq[u].done = g :: rest → ∀ ha da, s.eng.segAt u g = (ha, da) →
      s.eng.degradedAt ha = false → s.eng.drains? (s.eng.owner (Pg.ACQ u)) = false → s.eng.dramShut = false → 
      ∀ hd bs, hd = (if ue then s.eng.spoiled (s.eng.segHeader u g) else s.eng.segHeader u g) →
      bs = packed (s.eng.get (Pg.ACQ u) ACQ.SRC.FMT) (s.eng.wordsOf g.data) →
      (ue = true → ofLE (hd.drop 60) ≠ crc32 (hd.take 60)) ∧
      ∃ t, exec (.segmentWritten u ue) s = .next t ∧ t.eng.acq[u].done = rest ∧
        t.eng.get (Pg.ACQ u) ACQ.SEG_DONE.COUNT = (g.seq + 1) % 2 ^ 32 ∧ t.eng.bit (Pg.ACQ u) ACQ.IST.SEG = true ∧
        (∀ i b, hd[i]? = some b → s.eng.takesWrite (ha + i) = true → t.mem.get? (ha + i) = some b) ∧
        (∀ i b, bs[i]? = some b → s.eng.takesWrite (da + i) = true → ¬(ha ≤ da + i ∧ da + i < ha + 64) → t.mem.get? (da + i) = some b) ∧
        (∀ x, ¬(ha ≤ x ∧ x < ha + 64) → ¬(da ≤ x ∧ x < da + bs.length) → t.mem.get? x = s.mem.get? x)) ∧
    (∀ (s : State) (u : Fin 8) (b : Blk) (rest : List Blk), s.eng.acq[u].blks = b :: rest → s.eng.bit (Pg.ACQ u) ACQ.STR_CFG.DEST = false →
      s.eng.ringRoom u = true → s.eng.dramShut = false → s.eng.drains? (s.eng.owner (Pg.ACQ u)) = false → ∀ a bs, a = s.eng.regionAddr (s.eng.owner (Pg.ACQ u)) (s.eng.get (Pg.ACQ u) ACQ.STR_BASE.U256) +
        s.eng.get (Pg.ACQ u) ACQ.STR_WR.BLOCK * 2 ^ s.eng.get (Pg.ACQ u) ACQ.STR_CFG.BLK →
      bs = blkHeader b ++ packed (s.eng.get (Pg.ACQ u) ACQ.SRC.FMT) (s.eng.wordsOf b.data) →
      ∃ t, exec (.streamBlockClose u) s = .next t ∧ t.eng.bit (Pg.ACQ u) ACQ.IST.BLOCK = true ∧
        t.eng.get (Pg.ACQ u) ACQ.STR_WR.BLOCK = (s.eng.get (Pg.ACQ u) ACQ.STR_WR.BLOCK + 1) % s.eng.ringBlocks u % 2 ^ 32 ∧
        t.eng.acq[u].blks = rest ∧
        (∀ i x, bs[i]? = some x → s.eng.takesWrite (a + i) = true → t.mem.get? (a + i) = some x) ∧
        (∀ x, ¬(a ≤ x ∧ x < a + bs.length) → t.mem.get? x = s.mem.get? x)) ∧
    (∀ (s : State) (who : Src) (u : Fin 8) (data : Word), s.eng.takes who (Pg.ACQ u) 0x84 → ∀ n rd wr, n = s.eng.ringBlocks u →
      rd = s.eng.get (Pg.ACQ u) ACQ.STR_RD.BLOCK → wr = s.eng.get (Pg.ACQ u) ACQ.STR_WR.BLOCK → data.toNat < n →
      (data.toNat + n - rd) % n ≤ (wr + n - rd) % n →
      ∃ t, exec (.strRdWrite who u data) s = .next t ∧ t.eng.get (Pg.ACQ u) ACQ.STR_RD.BLOCK = data.toNat ∧ t.eng.resp = ⟨0, []⟩)

/-- With no order waiting for an outrun's end: a running triggered unit whose record has all its words has none open
afterwards; a free one whose run has 65,536 words starts the next. The end of a fold, on a unit that is not done and
for AVG and ENV once its updates have had their slots, counts RECORDS and sets IST.REC. POST words after a STOP zone's violation, outside an outrun and with no tentative
segment, the acquisition ends with status MASK. An error in the tile or mask stores of a running unit ends its
acquisition with status FAULT. -/
def Obligations.RecordsFoldAndUnitsComplete : Prop :=
  (∀ (s : State) (h : Fin 8), s.eng.his[h].on = true → s.eng.xpt.deferred = [] →
      ∃ t, exec (.hisRecordClose h) s = .next t ∧
        (s.eng.freeRun h = true → 65536 ≤ s.eng.his[h].recW → t.eng.his[h].recW = s.eng.his[h].recW - 65536) ∧
        (∀ c, s.eng.freeRun h = false → s.eng.his[h].cur = some c → c.len ≤ c.got → t.eng.his[h].cur = none)) ∧
    (∀ (s : State) (h : Fin 8) (c : Rec), s.eng.his[h].fold = some c → s.eng.bit (Pg.HIS h) HIS.STS.DONE = false → s.eng.xpt.deferred = [] →
      s.eng.get (Pg.HIS h) HIS.CFG.TYPE < 2 ∨ s.eng.his[h].queue = 0 →
      ∃ t, exec (.hisFoldDone h) s = .next t ∧ t.eng.his[h].fold = none ∧ t.eng.bit (Pg.HIS h) HIS.IST.REC = true ∧
        t.eng.get (Pg.HIS h) HIS.RECORDS.COUNT = min (s.eng.get (Pg.HIS h) HIS.RECORDS.COUNT + 1) (2 ^ HIS.RECORDS.COUNT.w - 1)) ∧
    (∀ (s : State) (u : Fin 8) (l : Nat), s.eng.armed u = true → s.eng.acq[u].post = some l → l ≤ s.eng.acq[u].n → s.eng.get (Pg.ACQ u) ACQ.STATE.STATE ≠ 7 →
      s.eng.acq[u].ending = 0 ∨ s.eng.acq[u].ending = 6 → (∀ g, s.eng.acq[u].seg = some g → g.conf.isSome = true) →
      ∃ t, exec (.maskPostExpiry u) s = .next t ∧ t.eng.armed u = false ∧ t.eng.get (Pg.ACQ u) ACQ.STATE.END = 11) ∧
    (∀ (s : State) (h : Fin 8) (i : Instr), i ∈ [Instr.hisTile h, .hisMask h] → s.eng.his[h].on = true → s.eng.armed (s.eng.acqOf h) = true →
      s.eng.xpt.deferred = [] →
      ∃ t, exec i s = .next t ∧ t.eng.armed (s.eng.acqOf h) = false ∧ t.eng.get (Pg.ACQ (s.eng.acqOf h)) ACQ.STATE.END = 7)

/-- SNAP starts a snapshot; its end, with DRAM out of self-refresh and no drain of the owner running, writes data and
summary into the unit's area, every other byte as before, and sets IST.SNAP_DONE. CLEAR of a unit inside a record or a free run waits for the boundary,
else the data return to their start values. MLOAD of bitmaps inside the region starts a load and takes the four zones
of DRAM; the load's end leaves them the unit's bitmaps with LOADED = 15, or for a column with more than four runs
LOAD_ERR with that zone and column, keeping the bitmaps it had. -/
def Obligations.SnapshotsClearsAndMasks : Prop :=
  (∀ (s : State) (who : Src) (h : Fin 8), s.eng.takes who (Pg.HIS h) 0x70 →
      (∃ t, exec (.hisSnap who h) s = .next t ∧ t.eng.his[h].snapping = true) ∧
      (∃ t, exec (.hisClear who h) s = .next t ∧
        (s.eng.his[h].on = true → s.eng.freeRun h = true ∨ s.eng.his[h].cur.isSome = true →
          t.eng.his[h].clear = true ∧ t.eng.his[h].bins = s.eng.his[h].bins) ∧
        (s.eng.his[h].on = false ∨ (s.eng.freeRun h = false ∧ s.eng.his[h].cur = none) →
          t.eng.his[h].bins = [] ∧ t.eng.his[h].mx = [] ∧ t.eng.his[h].snapping = true)) ∧
      (s.eng.masksIn h = true → s.eng.his[h].loading = false →
        ∀ z a zs, z = s.eng.zoneBytes h →
        a = s.eng.regionAddr (s.eng.owner (Pg.HIS h)) (s.eng.get (Pg.HIS h) HIS.MASK_BASE.U256) →
        zs = (List.range 4).map (fun k => s.eng.fetchBytes s.mem (a + k * z) z) →
        ∃ t, exec (.hisMload who h) s = .next t ∧ t.eng.his[h].loading = true ∧ t.eng.bit (Pg.HIS h) HIS.STS.MLOAD_BUSY = true ∧
          t.eng.his[h].image = zs ∧ t.eng.his[h].badCol = badColumn zs (s.eng.hisX h) (s.eng.maskY h) ∧
          t.eng.his[h].shad = s.eng.his[h].shad)) ∧
    (∀ (s : State) (h : Fin 8), s.eng.his[h].snapping = true → s.eng.dramShut = false → s.eng.drains? (s.eng.owner (Pg.HIS h)) = false →
      ∀ e a bs, e = s.eng.loadUnit s.mem h →
      a = s.eng.regionAddr (s.eng.owner (Pg.HIS h)) (s.eng.get (Pg.HIS h) HIS.MEM_BASE.U256) →
      bs = e.summary h ++ List.replicate 192 0 ++ e.hisData h →
      ∃ t, exec (.snapshotDone h) s = .next t ∧ t.eng.his[h].snapping = false ∧ t.eng.bit (Pg.HIS h) HIS.IST.SNAP_DONE = true ∧
        (s.eng.hisAreaOk h = true → ∀ i x, bs[i]? = some x → s.eng.takesWrite (a + i) = true → t.mem.get? (a + i) = some x) ∧
        (∀ x, ¬(a ≤ x ∧ x < a + bs.length) → t.mem.get? x = s.mem.get? x)) ∧
    (∀ (s : State) (h : Fin 8), s.eng.his[h].loading = true →
      ∃ t, exec (.mloadDone h) s = .next t ∧ t.eng.his[h].loading = false ∧ t.eng.bit (Pg.HIS h) HIS.STS.MLOAD_BUSY = false ∧
        t.eng.bit (Pg.HIS h) HIS.IST.MLOAD_DONE = true ∧
        (s.eng.his[h].badCol = none → t.eng.his[h].shad = s.eng.his[h].image ∧ t.eng.get (Pg.HIS h) HIS.MASK_STS.LOADED = 15 ∧
          t.eng.bit (Pg.HIS h) HIS.MASK_STS.LOAD_ERR = false) ∧
        (∀ k x, s.eng.his[h].badCol = some (k, x) → t.eng.his[h].shad = s.eng.his[h].shad ∧
          t.eng.bit (Pg.HIS h) HIS.MASK_STS.LOAD_ERR = true ∧ t.eng.get (Pg.HIS h) HIS.MASK_STS.ERR_ZONE = k % 2 ^ HIS.MASK_STS.ERR_ZONE.w ∧
          t.eng.get (Pg.HIS h) HIS.MASK_STS.ERR_COL = x % 2 ^ HIS.MASK_STS.ERR_COL.w))

/-- SNAP, CLEAR and MLOAD change no register outside the unit's page and the requester's view of ENG; the end of a mask
load none outside the unit's page, of a snapshot none outside it, DMX (BEYOND_CNT), PRT (DRAIN_DROP), FLT and SPI; a
write of STR_RD none outside the acquisition's page and that view; a segment written none outside the acquisition's
page, XPT (OUT_DONE), DMX (BEYOND_CNT), PRT (DRAIN_DROP), FLT and SPI. Beside registers, messages, the answer and fault
records they change the one accumulation unit alone, a snapshot the bytes its owner's drain has written too, STR_RD
nothing, a written segment the one acquisition, the event sources, those bytes and the free values' counter. -/
def Obligations.CaptureAndAccumulationFrames : Prop :=
  (∀ (s t : State) (who : Src) (h : Fin 8) (i : Instr), i ∈ [Instr.hisSnap who h, .hisClear who h, .hisMload who h] → exec i s = .next t →
      s.eng.sameBut t.eng [Pg.HIS h, vw who.code Pg.ENG] ∧ t.eng.core = ({ s.eng with his := t.eng.his } : Eng).core ∧
        ∀ g : Fin 8, g ≠ h → t.eng.his[g] = s.eng.his[g]) ∧
    (∀ (s t : State) (h : Fin 8), (exec (.snapshotDone h) s = .next t → s.eng.sameBut t.eng [Pg.HIS h, Pg.DMX, Pg.PRT, Pg.FLT, Pg.SPI]) ∧
      (exec (.mloadDone h) s = .next t → s.eng.sameBut t.eng [Pg.HIS h]) ∧
      (∀ i : Instr, i ∈ [Instr.snapshotDone h, .mloadDone h] → exec i s = .next t →
        t.eng.core = ({ s.eng with his := t.eng.his, drainB := t.eng.drainB } : Eng).core ∧ ∀ g : Fin 8, g ≠ h → t.eng.his[g] = s.eng.his[g])) ∧
    (∀ (s t : State) (who : Src) (u : Fin 8) (data : Word), exec (.strRdWrite who u data) s = .next t →
      s.eng.sameBut t.eng [Pg.ACQ u, vw who.code Pg.ENG] ∧ t.eng.core = s.eng.core) ∧
    (∀ (s t : State) (u : Fin 8) (ue : Bool), exec (.segmentWritten u ue) s = .next t →
      s.eng.sameBut t.eng [Pg.ACQ u, Pg.XPT, Pg.DMX, Pg.PRT, Pg.FLT, Pg.SPI] ∧
        t.eng.core = ({ s.eng with acq := t.eng.acq, evr := t.eng.evr, drainB := t.eng.drainB, freeCtr := t.eng.freeCtr } : Eng).core ∧
        ∀ v : Fin 8, v ≠ u → t.eng.acq[v] = s.eng.acq[v])

/-- A request inside GRAN, with room in the queue of the channel that the map gives its address and that takes it, joins
at its end, with its requester and class as R225 gives them; under inline ECC a write of part of a 64-bit word has its
read put before it, and a miss of the check-byte cache (free: log entry 83) a request for the check bytes. One beyond
GRAN joins nowhere. A command slot of a channel that does not train, with no order waiting for an outrun's end, serves
the request that the order of service chooses among the eligible ones: it leaves the queue, and a row hit counts in
HIT_CNT, an activation in ACT_CNT. Under PRED a row without requests that has been idle for PAGE.IDLE closes. A refresh
of a bank that trains or has requests is taken from those pulled in, or within the limit is owed; otherwise what is
owed and one more are issued and the row closes, and an idle bank within the limit pulls one more in. MR4 shows the
code read. How far ahead is the model's choice (log entry 82). -/
def Obligations.DramQueuesServiceAndRefresh : Prop :=
  (∀ (s : State) (ck : Nat) (q : DramReq) (d : Fin 8) (a : Nat) (x : Bool → Nat → DReq), d = fin8 (s.eng.place q.addr).1 → a = (s.eng.place q.addr).2 →
      x = (fun w b => ⟨s.eng.requester q.src, trafficClass q.src, w, (s.eng.bankRow b).1, (s.eng.bankRow b).2, ck,
        q.wr && !s.eng.stillRuns q.src && s.eng.drains.any fun z => z.part == s.eng.requester q.src, q.src⟩) →
      (s.eng.gran ≤ q.addr / granule → ∃ t, exec (.dramRequest ck q) s = .next t ∧ t.eng.dmc = s.eng.dmc) ∧
      (q.addr / granule < s.eng.gran → s.eng.queues d = true → ¬(s.eng.dmcState d = 4 ∧ (q.wr = true ∨ ownRead q.src = true)) →
        (s.eng.bit Pg.DMX DMX.STS.IECC = false → (s.eng.dmc[d].queue.filter fun z => z.wr == q.wr).length < 64 →
          ∃ t, exec (.dramRequest ck q) s = .next t ∧ t.eng.dmc[d].queue = s.eng.dmc[d].queue ++ [x q.wr a]) ∧
        (s.eng.bit Pg.DMX DMX.STS.IECC = true → (∀ w, (s.eng.dmc[d].queue.filter fun z => z.wr == w).length ≤ 61) →
          ∃ t, exec (.dramRequest ck q) s = .next t ∧ t.eng.dmc[d].queue = s.eng.dmc[d].queue ++
            (if q.wr = true ∧ (a % 8 ≠ 0 ∨ (a + q.len) % 8 ≠ 0) then [x false a] else []) ++
            (if Config.checkMiss s.eng.freeCtr then [x q.wr (s.eng.checkAddr a)] else []) ++ [x q.wr a]))) ∧
    (∀ (s : State) (d : Fin 8) (ck : Nat) (blocked : List Nat) (ecc : Fin 5) (q : DReq) (pr : Bool) (r1 : DmcRt), ∀ e0, e0 = s.eng.gain ck →
      s.eng.queues d = true → s.eng.dmcState d ≠ 3 → s.eng.xpt.deferred = [] →
      e0.choose d ck (e0.dmc[d].queue.filter fun x => e0.eligible d ck blocked x) = some (q, pr, r1) →
      ∃ t, exec (.dramCommandIssue d ck blocked ecc) s = .next t ∧ q ∈ s.eng.dmc[d].queue ∧ e0.eligible d ck blocked q = true ∧
        t.eng.dmc[d].queue = s.eng.dmc[d].queue.erase q ∧
        (s.eng.dmc[d].openRow q.bank = some q.row →
          t.eng.get (Pg.DMC d) DMC.HIT_CNT.COUNT = min (s.eng.get (Pg.DMC d) DMC.HIT_CNT.COUNT + 1) (2 ^ 32 - 1) ∧
          t.eng.get (Pg.DMC d) DMC.ACT_CNT.COUNT = s.eng.get (Pg.DMC d) DMC.ACT_CNT.COUNT) ∧
        (s.eng.dmc[d].openRow q.bank ≠ some q.row →
          t.eng.get (Pg.DMC d) DMC.ACT_CNT.COUNT = min (s.eng.get (Pg.DMC d) DMC.ACT_CNT.COUNT + 1) (2 ^ 32 - 1) ∧
          t.eng.get (Pg.DMC d) DMC.HIT_CNT.COUNT = s.eng.get (Pg.DMC d) DMC.HIT_CNT.COUNT)) ∧
    (∀ (s : State) (d : Fin 8) (bank : Fin 32) (row ck : Nat), s.eng.dmc[d].openRow bank = some row → s.eng.get (Pg.DMC d) DMC.PAGE.POLICY = 0 →
      Store.get s.eng.dmc[d].used bank 0 + s.eng.get (Pg.DMC d) DMC.PAGE.IDLE ≤ ck → (s.eng.dmc[d].queue.any fun q => q.bank == bank.val && q.row == row) = false →
      ∃ t, exec (.pageIdleClose d ⟨bank, ck⟩) s = .next t ∧ t.eng.dmc[d].openRow bank = none) ∧
    (∀ (s : State) (d : Fin 8) (bank : Fin 32), ∀ n f busy train, n = Store.get s.eng.dmc[d].owed bank 0 →
      f = Store.get s.eng.dmc[d].ahead bank 0 → busy = (s.eng.dmc[d].queue.any fun q => q.bank == bank.val) →
      train = decide (s.eng.dmcState d = 3) → s.eng.queues d = true →
      ∃ t, exec (.refreshDue d bank) s = .next t ∧
        ((train || busy) = true → f ≠ 0 → Store.get t.eng.dmc[d].ahead bank 0 = f - 1 ∧ Store.get t.eng.dmc[d].owed bank 0 = n) ∧
        ((train || busy) = true → f = 0 → train = true ∨ n < Config.refPostpone → Store.get t.eng.dmc[d].owed bank 0 = n + 1) ∧
        (train = false → busy = false ∨ (f = 0 ∧ Config.refPostpone ≤ n) →
          Store.get t.eng.dmc[d].owed bank 0 = 0 ∧ t.eng.dmc[d].openRow bank = none ∧
          ∀ m, m = (if busy = false ∧ f < Config.refPullIn then 1 else 0) → Store.get t.eng.dmc[d].ahead bank 0 = f + m ∧
            t.eng.get (Pg.DMC d) DMC.REFPB_CNT.COUNT = min (s.eng.get (Pg.DMC d) DMC.REFPB_CNT.COUNT + (n + 1 + m)) (2 ^ 32 - 1))) ∧
    (∀ (s : State) (d : Fin 8) (rank : Bool) (code : Fin 16), s.eng.queues d = true → (rank = true → s.eng.bit (Pg.DMC d) DMC.DEV.RANKS2 = true) →
      ∃ t, exec (.mr4Read d rank code) s = .next t ∧ t.eng.get (Pg.DMC d) DMC.TEMP.MR4 = code)

/-- A tracked row at HAMMER_TH not acted on yet, whose candidate is not throttled on the bank and finds room in its table
of four, is throttled with delay THR.START; SNOW_LOG and SNOW_ROW name it, both THROTTLE counts go up, IST.THROTTLE
and IST.SNOW are set. A fifth requester sets the bank-wide throttle. Further activations of the row double its delay
up to THR.MAX. At the boundary of the refresh window the channel has no tracker entry and no throttle. -/
def Obligations.SnowploughThrottlesAndClears : Prop :=
  (∀ (s : State) (d : Fin 8) (bank : Fin 32) (row : Nat) (k : Track), ∀ th, th = s.eng.get Pg.DMX DMX.SNOW.HAMMER_TH →
      ((s.eng.dmc[d].tracker bank).find? fun t => t.row == row && decide (th ≤ t.cnt) && !t.hit) = some k →
      (s.eng.dmc[d].thr.any fun x => x.bank == bank.val && x.who == k.cand) = false →
      ∃ t, exec (.snowplough d bank row) s = .next t ∧ t.eng.bit (Pg.DMC d) DMC.IST.THROTTLE = true ∧ t.eng.bit Pg.DMX DMX.IST.SNOW = true ∧
        t.eng.get Pg.DMX DMX.SNOW_LOG.DMC = d ∧ t.eng.get Pg.DMX DMX.SNOW_LOG.RANK = bank.val / 16 ∧
        t.eng.get Pg.DMX DMX.SNOW_LOG.BANK = bank.val % 16 ∧ t.eng.get Pg.DMX DMX.SNOW_ROW.ROW = row % 2 ^ 17 ∧
        t.eng.get Pg.DMX DMX.THROTTLE_CNT.COUNT = min (s.eng.get Pg.DMX DMX.THROTTLE_CNT.COUNT + 1) (2 ^ 32 - 1) ∧
        t.eng.get (Pg.DMC d) DMC.THROTTLE_CNT.COUNT = min (s.eng.get (Pg.DMC d) DMC.THROTTLE_CNT.COUNT + 1) (2 ^ 32 - 1) ∧
        ((s.eng.dmc[d].thr.filter fun x => x.bank == bank.val).length < 4 →
          t.eng.dmc[d].thr = s.eng.dmc[d].thr ++ [⟨bank, row, k.cand, s.eng.get Pg.DMX DMX.THR.START, th + th / 4, false, s.eng.ckT⟩] ∧
          t.eng.get Pg.DMX DMX.SNOW_LOG.D_US = s.eng.get Pg.DMX DMX.THR.START % 256) ∧
        (4 ≤ (s.eng.dmc[d].thr.filter fun x => x.bank == bank.val).length →
          bank.val ∈ t.eng.dmc[d].wide ∧ t.eng.bit (Pg.DMC d) DMC.THROTTLE.BANKWIDE = true)) ∧
    (∀ (s : State) (d : Fin 8) (bank : Fin 32) (row : Nat) (k : Track) (h : Thr),
      ((s.eng.dmc[d].tracker bank).find? fun t => t.row == row) = some k →
      (s.eng.dmc[d].thr.find? fun t => t.bank == bank.val && t.row == row) = some h → h.dbl ≤ k.cnt →
      ∃ t, exec (.throttleDouble d bank row) s = .next t ∧
        ∃ z ∈ t.eng.dmc[d].thr, z.bank = bank.val ∧ z.row = row ∧ z.who = h.who ∧ z.d = min (2 * h.d) (s.eng.get Pg.DMX DMX.THR.MAX)) ∧
    (∀ (s : State) (d : Fin 8),
      ∃ t, exec (.refreshWindowBoundary d) s = .next t ∧ t.eng.dmc[d].track = [] ∧ t.eng.dmc[d].thr = [] ∧ t.eng.dmc[d].wide = [] ∧
        t.eng.get (Pg.DMC d) DMC.THROTTLE.ACTIVE = 0 ∧ t.eng.bit (Pg.DMC d) DMC.THROTTLE.BANKWIDE = false)

/-- On a READY channel not yet queued: oscillator drift beyond OSC_TH, the period, corrections beyond LECC_TH and a taken
CMD.RETRAIN put it at the end of the queue with causes 2, 3, 4 and 5; the retraining of a MARGINAL one is queued too.
The channel at the head starts when none trains: no longer READY, every row closed. A pass brings it back READY, not
MARGINAL, with IST.RETRAIN_DONE; a short check that passes READY and MARGINAL with IST.MARGIN. RETRAIN_CNT counts. -/
def Obligations.ChannelsRetrainOneAtATime : Prop :=
  (∀ (s : State) (d : Fin 8), s.eng.dmcState d = 2 → s.eng.bit (Pg.DMC d) DMC.STS.QUEUED = false →
      (∀ (who : Src) (drift : Nat) (i : Instr) (c : Nat),
        (i, c) ∈ [(Instr.wck2dqOscRead d drift, 2), (.retrainPeriod d, 3), (.leccRetrainTrigger d, 4), (.dmcRetrain who d, 5)] →
        (c = 2 → s.eng.get Pg.DMX DMX.RETRAIN.OSC_TH < drift) → (c = 4 → s.eng.get Pg.DMX DMX.RETRAIN2.LECC_TH < s.eng.dmc[d].lecc.length) →
        (c = 5 → s.eng.takes who (Pg.DMC d) 0x44) →
        ∃ t, exec i s = .next t ∧ t.eng.bit (Pg.DMC d) DMC.STS.QUEUED = true ∧ t.eng.retrainQ = s.eng.retrainQ ++ [d.val] ∧
          t.eng.get (Pg.DMC d) DMC.TRAIN_STS.CAUSE = c) ∧
      (s.eng.bit (Pg.DMC d) DMC.STS.MARGINAL = true →
        ∃ t, exec (.marginalRetrain d) s = .next t ∧ t.eng.bit (Pg.DMC d) DMC.STS.QUEUED = true ∧ t.eng.retrainQ = s.eng.retrainQ ++ [d.val])) ∧
    (∀ (s : State) (d : Fin 8), s.eng.retrainQ.head? = some d.val → s.eng.dmcState d = 2 → s.eng.bit Pg.DMX DMX.STS.RETRAINING = false →
      ∃ t, exec (.retrainStart d) s = .next t ∧ t.eng.dmcState d = 3 ∧ t.eng.bit (Pg.DMC d) DMC.STS.QUEUED = false ∧
        t.eng.retrainQ = s.eng.retrainQ.tail ∧ t.eng.bit Pg.DMX DMX.STS.RETRAINING = true ∧ ∀ b, t.eng.dmc[d].openRow b = none) ∧
    (∀ (s : State) (d : Fin 8), s.eng.dmcState d = 3 →
      (∃ t, exec (.retrainPass d) s = .next t ∧ t.eng.dmcState d = 2 ∧ t.eng.bit (Pg.DMC d) DMC.STS.MARGINAL = false ∧
        t.eng.bit (Pg.DMC d) DMC.IST.RETRAIN_DONE = true ∧ t.eng.bit Pg.DMX DMX.STS.RETRAINING = false ∧ t.eng.dmc[d].owed = [] ∧
        t.eng.get (Pg.DMC d) DMC.RETRAIN_CNT.COUNT = min (s.eng.get (Pg.DMC d) DMC.RETRAIN_CNT.COUNT + 1) (2 ^ 32 - 1)) ∧
      (s.eng.xpt.deferred = [] → ∃ t, exec (.shortCheckDone d true) s = .next t ∧ t.eng.dmcState d = 2 ∧
        t.eng.bit (Pg.DMC d) DMC.STS.MARGINAL = true ∧ t.eng.bit (Pg.DMC d) DMC.IST.MARGIN = true ∧
        t.eng.get (Pg.DMC d) DMC.RETRAIN_CNT.COUNT = min (s.eng.get (Pg.DMC d) DMC.RETRAIN_CNT.COUNT + 1) (2 ^ 32 - 1)))

/-- With no order waiting for an outrun's end: a failed short check leaves the channel DEGRADED, IST.DEGRADED set on both
pages, a map switch pending, and every armed acquisition with an area in DRAM ended MEMFAULT. A taken REMAP, no drain
running and none armed, puts the pending map and capacity in force and makes DRAM unspecified. A parity failure of the
map ends every such acquisition FAULT. Initialisation leaves every populated channel READY where its least eye reaches
MIN_EYE, else DEGRADED, and DRAM unspecified, and then the calibration warms up, or a PERST# reset ends. -/
def Obligations.DegradationRemapAndInitialisation : Prop :=
  (∀ (s : State) (d : Fin 8), s.eng.dmcState d = 3 → s.eng.xpt.deferred = [] →
      ∃ t, exec (.shortCheckDone d false) s = .next t ∧ t.eng.dmcState d = 4 ∧ t.eng.bit (Pg.DMC d) DMC.IST.DEGRADED = true ∧
        t.eng.bit Pg.DMX DMX.IST.DEGRADED = true ∧ t.eng.bit Pg.DMX DMX.STS.SWITCH_PENDING = true ∧
        ∀ u : Fin 8, s.eng.armed u = true → s.eng.hasArea u = true → t.eng.armed u = false ∧ t.eng.get (Pg.ACQ u) ACQ.STATE.END = 10) ∧
    (∀ (s : State) (who : Src), s.eng.takes who Pg.DMX 0x4C → s.eng.bit Pg.DMX DMX.STS.SWITCH_PENDING = true → s.eng.drains = [] →
      (∀ u : Fin 8, ¬(s.eng.armed u = true ∧ s.eng.hasArea u = true)) →
      ∃ t, exec (.dmxRemap who) s = .next t ∧ t.eng.mapGood = s.eng.mapNext ∧ t.eng.gran = s.eng.get Pg.DMX DMX.CAP.GRAN_NEXT % 512 ∧
        t.eng.bit Pg.DMX DMX.STS.SWITCH_PENDING = false ∧ t.eng.bit Pg.DMX DMX.IST.REMAPPED = true ∧ t.eng.epoch = s.eng.epoch + 1 ∧ t.mem = []) ∧
    (∀ s : State, s.eng.xpt.deferred = [] →
      ∃ t, exec .dmxMap s = .next t ∧ t.eng.mapBad = true ∧
        ∀ u : Fin 8, s.eng.armed u = true → s.eng.hasArea u = true → t.eng.armed u = false ∧ t.eng.get (Pg.ACQ u) ACQ.STATE.END = 7) ∧
    (∀ (s : State) (eyes : List Nat), s.eng.lock = true → s.eng.bit Pg.DMX DMX.STS.INIT_DONE = false → s.eng.get Pg.DMX DMX.POP.N ≠ 0 →
      s.eng.rst.wait = false →
      ∃ t, exec (.dramInitDone eyes) s = .next t ∧ t.eng.bit Pg.DMX DMX.STS.INIT_DONE = true ∧ t.mem = [] ∧ t.eng.epoch = s.eng.epoch + 1 ∧
        (∀ d : Fin 8, s.eng.populated d = true → t.eng.dmcState d = if s.eng.get Pg.DMX DMX.RETRAIN2.MIN_EYE ≤ eyes.getD d 0 then 2 else 4) ∧
        (s.eng.rst.perst = none → ∀ c : Fin 4, t.eng.cal[c].warming = true) ∧
        (s.eng.rst.perst.isSome = true → t.eng.bit Pg.RST RST.STS.PERST_BUSY = false ∧ t.eng.bit Pg.RST RST.IST.PERST_DONE = true))

/-- A request changes no register, and of the running state the one channel that its address gives and the free values'
counter. Idle closes, refreshes, MR4 and the refresh window's boundary change no register outside the channel's page;
the snowplough and its doublings none outside it, DMX, FLT and SPI; the retraining triggers none outside it,
CMD.RETRAIN besides the requester's view of ENG; the start and pass of a training none outside it and DMX. Of the
running state they change this channel alone, the triggers and a training also the queue of channels that wait to
train. -/
def Obligations.DramChannelFrames : Prop :=
  (∀ (s t : State) (ck : Nat) (q : DramReq), exec (.dramRequest ck q) s = .next t →
      s.eng.sameBut t.eng [] ∧ t.eng.core = ({ s.eng with dmc := t.eng.dmc, freeCtr := t.eng.freeCtr } : Eng).core ∧
        ∀ g : Fin 8, g ≠ fin8 (s.eng.place q.addr).1 → t.eng.dmc[g] = s.eng.dmc[g]) ∧
    (∀ (s t : State) (d : Fin 8) (ck : Nat) (bank : Fin 32) (rank : Bool) (code : Fin 16) (i : Instr),
      i ∈ [Instr.pageIdleClose d ⟨bank, ck⟩, .refreshDue d bank, .mr4Read d rank code, .refreshWindowBoundary d] → exec i s = .next t →
      s.eng.sameBut t.eng [Pg.DMC d] ∧ t.eng.core = ({ s.eng with dmc := t.eng.dmc } : Eng).core ∧ ∀ g : Fin 8, g ≠ d → t.eng.dmc[g] = s.eng.dmc[g]) ∧
    (∀ (s t : State) (d : Fin 8) (bank : Fin 32) (row : Nat) (i : Instr), i ∈ [Instr.snowplough d bank row, .throttleDouble d bank row] →
      exec i s = .next t →
      s.eng.sameBut t.eng [Pg.DMC d, Pg.DMX, Pg.FLT, Pg.SPI] ∧ t.eng.core = ({ s.eng with dmc := t.eng.dmc } : Eng).core ∧
        ∀ g : Fin 8, g ≠ d → t.eng.dmc[g] = s.eng.dmc[g]) ∧
    (∀ (s t : State) (who : Src) (d : Fin 8) (drift : Nat) (i : Instr),
      i ∈ [Instr.wck2dqOscRead d drift, .retrainPeriod d, .leccRetrainTrigger d, .dmcRetrain who d, .marginalRetrain d] → exec i s = .next t →
      s.eng.sameBut t.eng [Pg.DMC d, vw who.code Pg.ENG] ∧
        t.eng.core = ({ s.eng with dmc := t.eng.dmc, retrainQ := t.eng.retrainQ } : Eng).core ∧ ∀ g : Fin 8, g ≠ d → t.eng.dmc[g] = s.eng.dmc[g]) ∧
    (∀ (s t : State) (d : Fin 8) (i : Instr), i ∈ [Instr.retrainStart d, .retrainPass d] → exec i s = .next t →
      s.eng.sameBut t.eng [Pg.DMC d, Pg.DMX] ∧
        t.eng.core = ({ s.eng with dmc := t.eng.dmc, retrainQ := t.eng.retrainQ } : Eng).core ∧ ∀ g : Fin 8, g ≠ d → t.eng.dmc[g] = s.eng.dmc[g])

/-- With lock, a conversion that is done counts CONV_CNT and its result, limited to 24 bits, enters the host's and the
manager's bank of its input. A scan entry's aborts clear and it is STARVED no longer; an urgent one counts URG_CNT and
shows its requester URG_DONE. A taken write of URG with GO, INPUT at most 39 and the requester's last request complete
is kept in the requester's view and held until it is done. The reference check of each second converts input 26 at
code 6. ACC_SEL copies the bank of the requester on SNAP and empties it on CLEAR. -/
def Obligations.MonitorConverterServesAndAccumulates : Prop :=
  (∀ (s : State) (v : Int) (c : Conv), s.eng.lock = true → s.eng.mcv.run = some c →
      ∃ t, exec (.mcvConversionDone v) s = .next t ∧
        t.eng.get Pg.MCV MCV.CONV_CNT.COUNT = min (s.eng.get Pg.MCV MCV.CONV_CNT.COUNT + 1) (2 ^ 32 - 1) ∧
        t.eng.mcv.bank c.input = (s.eng.mcv.bank c.input).add (clampI (-8388608) 8388607 v) ∧
        t.eng.mcv.bank (40 + c.input) = (s.eng.mcv.bank (40 + c.input)).add (clampI (-8388608) 8388607 v) ∧
        (c.src = 5 → Store.get t.eng.mcv.aborts c.tag 0 = 0 ∧ (t.eng.get Pg.MCV MCV.STARVE.ENTRY).testBit c.tag = false) ∧
        (c.src ≠ 5 → t.eng.get Pg.MCV MCV.URG_CNT.COUNT = min (s.eng.get Pg.MCV MCV.URG_CNT.COUNT + 1) (2 ^ 32 - 1)) ∧
        (c.src = 3 → t.eng.bit Pg.MCV MCV.IST.URG_DONE_H = true) ∧ (c.src = 4 → t.eng.bit Pg.MCV MCV.IST.URG_DONE_M = true)) ∧
    (∀ (s : State) (who : Src) (data : Word), ∀ src, src = (if who = .manager then 4 else 3) → s.eng.takes who Pg.MCV 0xC0 →
      data.toNat % 64 ≤ 39 → data.getLsbD 31 = true → s.eng.urgentHeld src 0 = false →
      ∃ t, exec (.mcvUrg who data) s = .next t ∧ t.eng.urgentHeld src 0 = true ∧ t.eng.resp = ⟨0, []⟩ ∧
        t.eng.get (vw who.code Pg.MCV) MCV.URG.INPUT = data.toNat % 64 ∧
        t.eng.get (vw who.code Pg.MCV) MCV.URG.CODE = data.toNat / 256 % 8) ∧
    (∀ s : State, s.eng.lock = true → s.eng.urgentHeld 2 0 = false →
      ∃ t, exec .mcvRefCheck s = .next t ∧ (⟨26, 6, 2, 0⟩ ∈ t.eng.mcv.wait ∨ t.eng.mcv.run = some ⟨26, 6, 2, 0⟩)) ∧
    (∀ (s : State) (who : Src) (input : Fin 64) (clear : Bool), ∀ k b w, k = (if who = .manager then 40 + input.val else input.val) →
      b = s.eng.mcv.bank k → w = vw who.code Pg.MCV → s.eng.takes who Pg.MCV 0xD0 → input.val ≤ 39 →
      (∃ t, exec (.accSnap who input clear) s = .next t ∧ t.eng.resp = ⟨0, []⟩ ∧ t.eng.get w MCV.ACC_SUM.SUM = unsigned 64 b.sum ∧
        t.eng.get w MCV.ACC_CNT.COUNT = b.cnt % 2 ^ 32 ∧ t.eng.get w MCV.ACC_MIN.VAL = unsigned 24 b.mn ∧
        t.eng.get w MCV.ACC_MAX.VAL = unsigned 24 b.mx ∧ t.eng.get w MCV.ACC_INFO.INPUT = input ∧ t.eng.bit w MCV.ACC_INFO.FULL = b.full ∧
        t.eng.mcv.bank k = if clear then Acc1.empty else b) ∧
      (∃ t, exec (.accClear who input) s = .next t ∧ t.eng.resp = ⟨0, []⟩ ∧ t.eng.mcv.bank k = Acc1.empty ∧
        ∀ j, j ≠ k → t.eng.mcv.bank j = s.eng.mcv.bank j))

/-- At an enabled comparator each output rises at its threshold plus hysteresis, falls at the threshold and keeps its
level between. A filter sample with lock joins the history of the filter's length; the state that fills K of it is
taken; a change while VALID counts CHANGE_CNT and sets IST.CHANGE in the owner's view; once the history is full a
channel whose DACs are not bad is VALID. The period, a threshold commit that owes it, and a taken CHECK place both
conversions of a check. -/
def Obligations.ComparatorsFollowFilterAndAreChecked : Prop :=
  (∀ (s : State) (n : Fin 8) (vd : Int), ∀ h, h = (2500000 : Int) * s.eng.get Pg.WCP (WCP.CH_CFG.HYST n) →
      s.eng.bit Pg.WCP (WCP.CH_CFG.EN n) = true →
      ∃ t, exec (.wcpLiveChange n vd) s = .next t ∧ t.eng.wcp[n].vd = vd ∧
        (781250 * s.eng.getI Pg.WCP (WCP.CH_THR.HI n) + h ≤ vd → t.eng.wcp[n].up = true ∧ t.eng.get Pg.WCP (WCP.CH_STS.LIVE n) = 2) ∧
        (vd ≤ 781250 * s.eng.getI Pg.WCP (WCP.CH_THR.HI n) → vd < 781250 * s.eng.getI Pg.WCP (WCP.CH_THR.HI n) + h → t.eng.wcp[n].up = false) ∧
        (781250 * s.eng.getI Pg.WCP (WCP.CH_THR.HI n) < vd → vd < 781250 * s.eng.getI Pg.WCP (WCP.CH_THR.HI n) + h →
          t.eng.wcp[n].up = s.eng.wcp[n].up) ∧
        t.eng.wcp[n].dn = cmpOut s.eng.wcp[n].dn vd (781250 * s.eng.getI Pg.WCP (WCP.CH_THR.LO n)) h ∧
        t.eng.get Pg.WCP (WCP.CH_STS.LIVE n) = if t.eng.wcp[n].up then 2 else if t.eng.wcp[n].dn then 1 else 0) ∧
    (∀ (s : State) (n : Fin 8), ∀ m h was, m = wcpN (s.eng.get Pg.WCP (WCP.CH_FLT.NSEL n)) →
      h = (s.eng.get Pg.WCP (WCP.CH_STS.LIVE n) :: s.eng.wcp[n].hist).take m → was = s.eng.get Pg.WCP (WCP.CH_STS.STATE n) →
      s.eng.bit Pg.WCP (WCP.CH_CFG.EN n) = true → s.eng.lock = true →
      ∃ t, exec (.wcpFilterSample n) s = .next t ∧ t.eng.wcp[n].hist = h ∧
        ((∀ x, x ≤ 2 → h.count x < s.eng.get Pg.WCP (WCP.CH_FLT.K n)) → t.eng.get Pg.WCP (WCP.CH_STS.STATE n) = was % 4) ∧
        (∀ x, x ≤ 2 → s.eng.get Pg.WCP (WCP.CH_FLT.K n) ≤ h.count x → (∀ y, y < x → h.count y < s.eng.get Pg.WCP (WCP.CH_FLT.K n)) →
          t.eng.get Pg.WCP (WCP.CH_STS.STATE n) = x ∧
          (s.eng.bit Pg.WCP (WCP.CH_STS.VALID n) = true → x ≠ was →
            t.eng.get Pg.WCP (WCP.LIVE.STATE n) = x ∧ (t.eng.get (s.eng.wcpView n) WCP.IST.CHANGE).testBit n = true ∧
            t.eng.get Pg.WCP (WCP.CHANGE_CNT.COUNT n) = min (s.eng.get Pg.WCP (WCP.CHANGE_CNT.COUNT n) + 1) (2 ^ 32 - 1))) ∧
        (m ≤ s.eng.wcp[n].cnt + 1 → s.eng.bit Pg.WCP (WCP.CH_STS.DACBAD n) = false → t.eng.bit Pg.WCP (WCP.CH_STS.VALID n) = true)) ∧
    (∀ (s : State) (n : Fin 8) (who : Src) (i : Instr), i ∈ [Instr.wcpCheckPeriod n, .wcpCheckAfterCommit n, .wcpCheck who n] →
      (i = .wcpCheck who n → s.eng.takes who Pg.WCP (0x110 + 0x20 * n.val) ∧ s.eng.wcpOwner n = who.owner) →
      (i = .wcpCheckPeriod n → s.eng.bit Pg.WCP (WCP.CH_CFG.EN n) = true) → (i = .wcpCheckAfterCommit n → s.eng.wcp[n].due = true) →
      s.eng.lock = true → s.eng.urgentHeld 1 n = false →
      ∃ t, exec i s = .next t ∧ t.eng.wcp[n].checking = true ∧
        ∀ k, k < 2 → (⟨10 + 2 * n + k, 6, 1, n⟩ ∈ t.eng.mcv.wait ∨ t.eng.mcv.run = some ⟨10 + 2 * n + k, 6, 1, n⟩))

/-- A taken write of FORCE0 or FORCE1 asserts each named destination that is the writer's; if all are, the answer is OK,
else OWNER, counted once, and the others stay as they were. An EVIO ball that is an input shows its level. A parity
failure of the selection store clears PARITY_OK, makes every destination 0 and sets IST.PARITY in the view of each
destination's owner. -/
def Obligations.RouterForcesInputsAndParity : Prop :=
  (∀ (s : State) (who : Src) (half : Bool) (data : Word), s.eng.takes who Pg.EVR (if half then 0x4C else 0x48) →
      ∃ t, exec (.evrForce who half data) s = .next t ∧
        (∀ b : Fin 32, ∀ d, d = b.val + (if half then 32 else 0) →
          (data.getLsbD b = true → s.eng.evrOwner d = who.owner → d ∈ t.eng.evr.force) ∧
          (s.eng.evrOwner d ≠ who.owner → (d ∈ t.eng.evr.force ↔ d ∈ s.eng.evr.force))) ∧
        ((∀ b : Fin 32, data.getLsbD b = true → s.eng.evrOwner (b.val + if half then 32 else 0) = who.owner) → t.eng.resp = ⟨0, []⟩) ∧
        (∀ b : Fin 32, data.getLsbD b = true → s.eng.evrOwner (b.val + if half then 32 else 0) ≠ who.owner → t.eng.resp = ⟨3, []⟩ ∧
          t.eng.get (vw who.code Pg.ENG) ENG.OWNER_CNT.COUNT = min (s.eng.get (vw who.code Pg.ENG) ENG.OWNER_CNT.COUNT + 1) (2 ^ 16 - 1))) ∧
    (∀ (s : State) (k : Fin 16) (level : Bool), (s.eng.get Pg.EVR EVR.EVIO_DIR.OUT).testBit k = false →
      ∃ t, exec (.evioInputChange k level) s = .next t ∧ (t.eng.get Pg.EVR EVR.EVIO_IN.LEVEL).testBit k = level ∧
        t.eng.srcLevel (0x78 + k) = level) ∧
    (∀ s : State,
      ∃ t, exec .evrParity s = .next t ∧ t.eng.bit Pg.EVR EVR.STS.PARITY_OK = false ∧ t.eng.evr.dst = [] ∧
        (∀ d, t.eng.dstValue d = false) ∧
        ∀ d : Fin 64, s.eng.evrOwner d < 9 → t.eng.bit (hdrPage Pg.EVR (s.eng.evrOwner d)) EVR.IST.PARITY = true)

/-- An edge of one tach input moves POS of an enabled port by one in the direction the phases give, DIR_INV reversing it;
both at once count a quadrature error. A rising IDX edge, and the CTL edge CFG.CTL_EDGE selects, copy and count POS,
and IDX loads it where IDX_LOAD says so. With lock the 1 ms update gives VEL and MOVING. A STOP_REQ that the port
takes latches SW; STOP_SRC's rising edge latches EVR; with no outrun, RELEASE clears four of the six. -/
def Obligations.TransportCountsPositionAndVelocity : Prop :=
  (∀ (s : State) (a b : Bool), s.eng.en Pg.XPT = true → (a == s.eng.xpt.a) = !(b == s.eng.xpt.b) →
      ∃ t, exec (.tachEdge a b) s = .next t ∧ t.eng.xpt.a = a ∧ t.eng.xpt.b = b ∧
        t.eng.xpt.pos = wrap48 (s.eng.xpt.pos + (if (a == s.eng.xpt.b) == s.eng.bit Pg.XPT XPT.CFG.DIR_INV then 1 else -1))) ∧
    (∀ s : State, ∃ t, exec (.tachEdge (!s.eng.xpt.a) (!s.eng.xpt.b)) s = .next t ∧ t.eng.xpt.pos = s.eng.xpt.pos ∧
        t.eng.get Pg.XPT XPT.QERR_CNT.COUNT = min (s.eng.get Pg.XPT XPT.QERR_CNT.COUNT + 1) (2 ^ 32 - 1) ∧ t.eng.bit Pg.XPT XPT.IST.QERR = true) ∧
    (∀ s : State, ∃ t, exec .idxEdge s = .next t ∧ t.eng.get Pg.XPT XPT.IDX_POS.POS = unsigned 48 s.eng.xpt.pos ∧
        t.eng.bit Pg.XPT XPT.IST.IDX = true ∧ 0x8A ∈ t.eng.evr.pulse ∧
        t.eng.xpt.pos = if s.eng.bit Pg.XPT XPT.CFG.IDX_LOAD then s.eng.getI Pg.XPT XPT.LOAD.VAL else s.eng.xpt.pos) ∧
    (∀ (s : State) (rising : Bool), s.eng.bit Pg.XPT XPT.CFG.CTL_EDGE = !rising →
      ∃ t, exec (.ctlEdge rising) s = .next t ∧ t.eng.get Pg.XPT XPT.CTL_POS.POS = unsigned 48 s.eng.xpt.pos ∧ 0x8B ∈ t.eng.evr.pulse ∧
        t.eng.get Pg.XPT XPT.CTL_CNT.COUNT = (s.eng.get Pg.XPT XPT.CTL_CNT.COUNT + 1) % 2 ^ 32) ∧
    (∀ (s : State) (who : Src), s.eng.takes who Pg.XPT 0x98 →
      (∃ t, exec (.xptLoad who) s = .next t ∧ t.eng.xpt.pos = s.eng.getI Pg.XPT XPT.LOAD.VAL ∧
        t.eng.bit Pg.XPT XPT.STS.POS_SUSPECT = false ∧ t.eng.resp = ⟨0, []⟩) ∧
      (s.eng.outrunAcq = none → ∃ t, exec (.xptRelease who) s = .next t ∧ t.eng.bit Pg.XPT XPT.STOPSTS.POR = false ∧
        t.eng.bit Pg.XPT XPT.STOPSTS.SW = false ∧ t.eng.bit Pg.XPT XPT.STOPSTS.MASK = false ∧ t.eng.bit Pg.XPT XPT.STOPSTS.EVR = false ∧
        t.eng.bit Pg.XPT XPT.STOPSTS.OVR = s.eng.bit Pg.XPT XPT.STOPSTS.OVR ∧ t.eng.bit Pg.XPT XPT.STOPSTS.TRIP = s.eng.bit Pg.XPT XPT.STOPSTS.TRIP)) ∧
    (∀ (s : State) (who : Src), s.eng.denied who Pg.XPT 0x98 false = none → s.eng.ready = true → (∀ n, who = .part n → s.eng.partState n ≠ 3) →
      ∃ t, exec (.xptStopReq who) s = .next t ∧ t.eng.bit Pg.XPT XPT.STOPSTS.SW = true) ∧
    (∀ s : State, s.eng.bit Pg.XPT XPT.STOP_SRC.EN = true → s.eng.dst (s.eng.get Pg.XPT XPT.STOP_SRC.DEST) = true → s.eng.xpt.evrPrev = false →
      ∃ t, exec .evrStopEdge s = .next t ∧ t.eng.bit Pg.XPT XPT.STOPSTS.EVR = true) ∧
    (∀ (s : State) (win : Nat), win = (if s.eng.get Pg.XPT XPT.VEL_CFG.WIN = 0 then 1 else if s.eng.get Pg.XPT XPT.VEL_CFG.WIN = 1 then 4 else 16) →
      s.eng.lock = true → ∃ t, exec .velUpdate s = .next t ∧ t.eng.xpt.motion = 0 ∧
        ∀ v, v = rdiv (((s.eng.xpt.motion :: s.eng.xpt.msHist).take win).foldl (fun (a b : Int) => a + b) 0 * 1000) win →
          t.eng.get Pg.XPT XPT.VEL.CPS = unsigned 32 (clampI (-2147483648) 2147483647 v) ∧
          t.eng.bit Pg.XPT XPT.STS.MOVING = decide (s.eng.get Pg.XPT XPT.STOP_VEL.VEL ≤ v.natAbs)) ∧
    (∀ (s : State) (u : Fin 8), s.eng.outrunAcq = some u → s.eng.acq[u].seg = none → s.eng.xpt.deferred = [] →
      (10 ≤ s.eng.xpt.slow → ∃ t, exec .outrunEnd s = .next t ∧ t.eng.get Pg.XPT XPT.OUT_STS.WHY = 1 ∧ t.eng.armed u = false ∧
        t.eng.get (Pg.ACQ u) ACQ.STATE.END = 12 ∧ t.eng.bit Pg.XPT XPT.STS.OUTRUN = false) ∧
      (s.eng.bit Pg.XPT XPT.STS.READY = false → ∃ t, exec (.xportReadyEdge true) s = .next t ∧ t.eng.get Pg.XPT XPT.OUT_STS.WHY = 2 ∧
        t.eng.armed u = false ∧ t.eng.get (Pg.ACQ u) ACQ.STATE.END = 12 ∧ t.eng.bit Pg.XPT XPT.STS.READY = true))

/-- At an enabled sensor with lock and no commit pending, a period that is not skipped gives I and Q limited to 16 bits, T
by the table (its ends clamped, linear between) with VALID, and the level of the threshold pair. A period that carried
the test tone gives the verdict of its impedance. A skipped period gives no result. The check's period makes a tone
due where IMP.AMP is not 0. The guard drive at its limit is a fault that RESULT.FAULT shows. -/
def Obligations.SensorsGiveResultsAndVerdicts : Prop :=
  (∀ (s : State) (n : Fin 4) (i q : Int) (z : Nat), ∀ p x tt, p = Pg.SFE n →
      x = (if s.eng.bit p SFE.CFG.LIN_IN then (isqrt (clampI (-32767) 32767 i * clampI (-32767) 32767 i +
        clampI (-32767) 32767 q * clampI (-32767) 32767 q).toNat : Int) else clampI (-32767) 32767 i) → tt = s.eng.sfeLin n x →
      s.eng.en p = true → s.eng.lock = true → s.eng.bit p HDR.STS.PENDING = false →
      ∃ t, exec (.sfePeriodEnd n i q z) s = .next t ∧ t.eng.sfe[n].skip = false ∧ t.eng.sfe[n].due = false ∧
        (s.eng.sfe[n].skip = false →
          t.eng.getI p SFE.IQ.I = clampI (-32767) 32767 i ∧ t.eng.getI p SFE.IQ.Q = clampI (-32767) 32767 q ∧
          t.eng.get p SFE.RESULT.T = tt.1 % 2 ^ 16 ∧ t.eng.bit p SFE.RESULT.CLAMP = tt.2 ∧ t.eng.bit p SFE.RESULT.VALID = true ∧
          t.eng.sfe[n].th = (if s.eng.get p SFE.TH.HI ≤ tt.1 then true else if tt.1 ≤ s.eng.get p SFE.TH.LO then false else s.eng.sfe[n].th) ∧
          t.eng.get p SFE.RESULT_CNT.COUNT = min (s.eng.get p SFE.RESULT_CNT.COUNT + 1) (2 ^ 32 - 1)) ∧
        (s.eng.sfe[n].skip = true → t.eng.get p SFE.RESULT.T = s.eng.get p SFE.RESULT.T ∧ t.eng.sfe[n].th = s.eng.sfe[n].th) ∧
        (s.eng.sfe[n].chk = true → t.eng.get p SFE.Z.OHM = min z 65535 ∧
          t.eng.get p SFE.Z.VERDICT = (if s.eng.get p SFE.ZWIN.ZMAX < z then 2 else if z < s.eng.get p SFE.ZWIN.ZMIN then 3 else 1) ∧
          t.eng.get p SFE.IMPCHK_CNT.COUNT = min (s.eng.get p SFE.IMPCHK_CNT.COUNT + 1) (2 ^ 32 - 1) ∧
          (s.eng.get p SFE.ZWIN.ZMAX < z → t.eng.bit p SFE.RESULT.FAULT = true))) ∧
    (∀ (e : Eng) (n : Fin 4) (x : Int),
      (x < e.getI (Pg.SFE n) (SFE.LIN.X 0) → e.sfeLin n x = (e.get (Pg.SFE n) (SFE.LIN.Y 0), true)) ∧
      (e.getI (Pg.SFE n) (SFE.LIN.X 0) ≤ x → e.getI (Pg.SFE n) (SFE.LIN.X 32) < x → e.sfeLin n x = (e.get (Pg.SFE n) (SFE.LIN.Y 32), true)) ∧
      ∀ k, k < 32 → (∀ j, j < 32 → e.getI (Pg.SFE n) (SFE.LIN.X j) < e.getI (Pg.SFE n) (SFE.LIN.X (j + 1))) →
        e.getI (Pg.SFE n) (SFE.LIN.X k) < x → x ≤ e.getI (Pg.SFE n) (SFE.LIN.X (k + 1)) →
        ∀ a b : Int, a = e.get (Pg.SFE n) (SFE.LIN.Y k) → b = e.get (Pg.SFE n) (SFE.LIN.Y (k + 1)) →
        e.sfeLin n x = ((a + rdiv ((b - a) * (x - e.getI (Pg.SFE n) (SFE.LIN.X k)))
          (e.getI (Pg.SFE n) (SFE.LIN.X (k + 1)) - e.getI (Pg.SFE n) (SFE.LIN.X k))).toNat, false)) ∧
    (∀ (s : State) (n : Fin 4), s.eng.en (Pg.SFE n) = true →
      (s.eng.get (Pg.SFE n) SFE.IMP.AMP ≠ 0 → ∃ t, exec (.sfeImpCheck n) s = .next t ∧ t.eng.sfe[n].due = true) ∧
      (s.eng.bit (Pg.SFE n) SFE.CFG.GUARD = true → ∃ t, exec (.sfeGuard n) s = .next t ∧ t.eng.bit (Pg.SFE n) SFE.RESULT.FAULT = true ∧
        t.eng.bit (Pg.SFE n) SFE.IST.FAULT = true ∧
        t.eng.get (Pg.SFE n) SFE.FAULT_CNT.COUNT = min (s.eng.get (Pg.SFE n) SFE.FAULT_CNT.COUNT + 1) (2 ^ 32 - 1)))

/-- Monitor orders change no register outside MCV, the requester's views of MCV and ENG, FLT and SPI, and of the running
state the monitor converter alone. Comparator inputs and samples change WCP, the owner's view and that comparator;
FORCE the requester's views of EVR and ENG and the router; tach, IDX, CTL edges and velocity XPT, FLT and SPI, the
port and the event pulses; LOAD and RELEASE XPT, the view of ENG and the port; a sensor's events, with no commit
pending, its page, FLT, SPI and that sensor. -/
def Obligations.MonitorTransportAndSensorFrames : Prop :=
  (∀ (s t : State) (who : Src) (data : Word) (input : Fin 64) (clear : Bool) (i : Instr),
      i ∈ [Instr.mcvUrg who data, .mcvRefCheck, .accSnap who input clear, .accClear who input] → exec i s = .next t →
      s.eng.sameBut t.eng [Pg.MCV, vw who.code Pg.MCV, vw who.code Pg.ENG, Pg.FLT, Pg.SPI] ∧
        t.eng.core = ({ s.eng with mcv := t.eng.mcv } : Eng).core) ∧
    (∀ (s t : State) (n : Fin 8) (vd : Int) (i : Instr), i ∈ [Instr.wcpLiveChange n vd, .wcpFilterSample n] → exec i s = .next t →
      s.eng.sameBut t.eng [Pg.WCP, s.eng.wcpView n] ∧ t.eng.core = ({ s.eng with wcp := t.eng.wcp } : Eng).core ∧
        ∀ g : Fin 8, g ≠ n → t.eng.wcp[g] = s.eng.wcp[g]) ∧
    (∀ (s t : State) (who : Src) (half : Bool) (data : Word), exec (.evrForce who half data) s = .next t →
      s.eng.sameBut t.eng [hdrPage Pg.EVR who.owner, vw who.code Pg.ENG] ∧ t.eng.core = ({ s.eng with evr := t.eng.evr } : Eng).core) ∧
    (∀ (s t : State) (k : Fin 16) (level : Bool), exec (.evioInputChange k level) s = .next t →
      s.eng.sameBut t.eng [Pg.EVR] ∧ t.eng.core = s.eng.core) ∧
    (∀ (s t : State) (a b rising : Bool) (i : Instr), i ∈ [Instr.tachEdge a b, .idxEdge, .ctlEdge rising, .velUpdate] → exec i s = .next t →
      s.eng.sameBut t.eng [Pg.XPT, Pg.FLT, Pg.SPI] ∧ t.eng.core = ({ s.eng with xpt := t.eng.xpt, evr := t.eng.evr } : Eng).core) ∧
    (∀ (s t : State) (who : Src) (i : Instr), i ∈ [Instr.xptLoad who, .xptRelease who] → exec i s = .next t →
      s.eng.sameBut t.eng [Pg.XPT, vw who.code Pg.ENG] ∧ t.eng.core = ({ s.eng with xpt := t.eng.xpt } : Eng).core) ∧
    (∀ (s t : State) (n : Fin 4) (x y : Int) (z : Nat) (i : Instr), i ∈ [Instr.sfePeriodEnd n x y z, .sfeImpCheck n, .sfeGuard n] →
      s.eng.bit (Pg.SFE n) HDR.STS.PENDING = false → exec i s = .next t →
      s.eng.sameBut t.eng [Pg.SFE n, Pg.FLT, Pg.SPI] ∧ t.eng.core = ({ s.eng with sfe := t.eng.sfe } : Eng).core ∧
        ∀ g : Fin 4, g ≠ n → t.eng.sfe[g] = s.eng.sfe[g])

/-- A bad BAR0 access answers all ones and counts. With DRAM open, a BAR2 read whose window address lies in the function's
region answers the bytes there, an uncorrectable one marks the reader's view, and DRAM stays; one outside answers all
ones and counts BAR2_OOR in that view. A write stores its bytes where DRAM takes them, every other byte reads as
before; one outside stores nothing. With DRAM closed a read answers all ones. A taken clear of the mark leaves ADDR 0
and VALID 0 in the view. -/
def Obligations.HostWindowReadsAndWritesDram : Prop :=
  (∀ (s : State) (who : Src), ∃ t, exec (.bar0BadAccess who) s = .next t ∧ t.eng.resp = ⟨0, [0xFFFFFFFF]⟩ ∧ t.mem = s.mem ∧
      t.eng.get Pg.PCI PCI.BADACC_CNT.COUNT = min (s.eng.get Pg.PCI PCI.BADACC_CNT.COUNT + 1) (2 ^ 32 - 1)) ∧
    (∀ (s : State) (who : Src) (addr len : Nat) (ue : Bool), who ≠ .manager →
      (s.eng.winClosed = true → ∃ t, exec (.bar2Read who addr len ue) s = .next t ∧ t.eng.resp = ⟨0, List.replicate len 0xFF⟩ ∧ t.mem = s.mem) ∧
      (s.eng.winClosed = false → s.eng.winAddr who.owner addr len = none →
        ∃ t, exec (.bar2Read who addr len ue) s = .next t ∧ t.eng.resp = ⟨0, List.replicate len 0xFF⟩ ∧ t.mem = s.mem ∧
          t.eng.get (vw who.owner Pg.PCI) PCI.BAR2_OOR_CNT.COUNT = min (s.eng.get (vw who.owner Pg.PCI) PCI.BAR2_OOR_CNT.COUNT + 1) (2 ^ 32 - 1)) ∧
      ∀ a, s.eng.winClosed = false → s.eng.winAddr who.owner addr len = some a →
        ∃ t, exec (.bar2Read who addr len ue) s = .next t ∧ t.eng.resp = ⟨0, (s.eng.readBytes s.mem a len).map BitVec.toNat⟩ ∧ t.mem = s.mem ∧
          (ue = true → t.eng.bit (vw who.owner Pg.PCI) PCI.IST.BAR2_UE = true)) ∧
    (∀ (s : State) (who : Src) (addr : Nat) (bytes : List Byte), who ≠ .manager →
      (s.eng.winClosed = true ∨ s.eng.winAddr who.owner addr bytes.length = none →
        ∃ t, exec (.bar2Write who addr bytes) s = .next t ∧ t.mem = s.mem) ∧
      ∀ a, s.eng.winClosed = false → s.eng.winAddr who.owner addr bytes.length = some a →
        ∃ t, exec (.bar2Write who addr bytes) s = .next t ∧
          ∀ x, t.eng.readByte t.mem x = if a ≤ x ∧ x < a + bytes.length ∧ s.eng.takesWrite x = true then bytes.getD (x - a) 0
            else s.eng.readByte s.mem x) ∧
    (∀ (s : State) (who : Src), s.eng.takes who Pg.PCI 0x50 →
      ∃ t, exec (.bar2MarkClear who) s = .next t ∧ t.eng.resp = ⟨0, []⟩ ∧ t.eng.get (vw who.code Pg.PCI) PCI.BAR2_MARK.ADDR = 0 ∧
        t.eng.bit (vw who.code Pg.PCI) PCI.BAR2_MARK_HI.VALID = false)

/-- A taken TAIL inside the ring that passes HEAD by no more than its size is stored, else it is refused RANGE. Where the
arbiter turns to the ring's descriptor: STREAM gives the oldest block of the bound unit; READ the bytes of the owner's
region; WRITE stores its bytes where DRAM takes them, every other byte reads as before; one outside the region ends
RANGE, and so does STREAM on a ring that no unit is bound to. A descriptor that the arbiter does not turn to waits. A
completion is sent once, HEAD advances, DESC_CNT counts, and what the coalescing count or time makes due sets
IST.DONE. A host read that failed halts the ring. -/
def Obligations.DmaRingsMoveBlocksAndBytes : Prop :=
  (∀ (s : State) (who : Src) (r : Fin 16) (data : Word), ∀ p n v, p = Pg.DMQ r → n = 2 ^ s.eng.get p DMQ.SIZE.LOG2 → v = data.toNat % 65536 →
      s.eng.takes who p 0x4C →
      (v < n → (s.eng.get p DMQ.TAIL.IDX + n - s.eng.get p DMQ.HEAD.IDX) % n + (v + n - s.eng.get p DMQ.TAIL.IDX) % n < n →
        ∃ t, exec (.dmqTailWrite who r data) s = .next t ∧ t.eng.get p DMQ.TAIL.IDX = v ∧ t.eng.resp = ⟨0, []⟩) ∧
      (n ≤ v → ∃ t, exec (.dmqTailWrite who r data) s = .next t ∧ t.eng.get p DMQ.TAIL.IDX = s.eng.get p DMQ.TAIL.IDX ∧ t.eng.resp = ⟨4, []⟩)) ∧
    (∀ (s : State) (r : Fin 16) (d : Desc) (heads : List (Fin 16 × Desc)), ∀ turn : Nat → Bool,
      turn = (fun op => (s.eng.dmaTurn r { d with op := op } heads).isSome) →
      (∀ (u : Fin 8) (b : Blk) (rest : List Blk), ∀ bs, bs = packed (s.eng.get (Pg.ACQ u) ACQ.SRC.FMT) (s.eng.wordsOf b.data) →
        s.eng.ringUnit r = some u → s.eng.acq[u].blks = b :: rest → 2 ^ s.eng.get (Pg.ACQ u) ACQ.STR_CFG.BLK ≤ d.len → s.eng.xpt.deferred = [] → turn 0 = true →
        ∃ t, exec (.descStream r ⟨d, heads⟩) s = .next t ∧ (∃ l, t.eng.acq[u].blks = rest ++ l) ∧ t.eng.resp = ⟨0, bs.map BitVec.toNat⟩ ∧
          t.eng.dmq[r].cur = some ⟨if b.data.length < s.eng.blkSamples u then 4 else 0, 0, bs.length, blkHeader b, d.irq⟩) ∧
      (s.eng.ringUnit r = none → turn 0 = true → ∃ t, exec (.descStream r ⟨d, heads⟩) s = .next t ∧ t.eng.dmq[r].cur = some ⟨2, 0, 0, noHdr, d.irq⟩) ∧
      (∀ (a : Nat) (ue : Bool), s.eng.ringUnit r = none → s.eng.descAddr r d = some a → turn 1 = true →
        ∃ t, exec (.descRead r ⟨d, heads⟩ ue) s = .next t ∧ t.mem = s.mem ∧ t.eng.resp = ⟨0, (s.eng.readBytes s.mem a d.len).map BitVec.toNat⟩ ∧
          t.eng.dmq[r].cur = some ⟨0, ((unitsOf a d.len).any fun x => s.eng.degradedAt x).toNat + 2 * ue.toNat, d.len, noHdr, d.irq⟩) ∧
      (∀ (a : Nat) (bytes : List Byte), s.eng.ringUnit r = none → s.eng.descAddr r d = some a → turn 2 = true →
        ∃ t, exec (.descWrite r ⟨d, heads⟩ bytes) s = .next t ∧ t.eng.dmq[r].cur = some ⟨0, 0, d.len, noHdr, d.irq⟩ ∧
          ∀ x, t.eng.readByte t.mem x = if a ≤ x ∧ x < a + (bytes.take d.len).length ∧ s.eng.takesWrite x = true then bytes.getD (x - a) 0
            else s.eng.readByte s.mem x) ∧
      (∀ (bytes : List Byte) (ue : Bool), s.eng.descAddr r d = none →
        (turn 1 = true → ∃ t, exec (.descRead r ⟨d, heads⟩ ue) s = .next t ∧ t.mem = s.mem ∧ t.eng.dmq[r].cur = some ⟨2, 0, 0, noHdr, d.irq⟩) ∧
        (turn 2 = true → ∃ t, exec (.descWrite r ⟨d, heads⟩ bytes) s = .next t ∧ t.mem = s.mem ∧ t.eng.dmq[r].cur = some ⟨2, 0, 0, noHdr, d.irq⟩)) ∧
      (∀ (bytes : List Byte) (ue : Bool), (turn 0 = false → exec (.descStream r ⟨d, heads⟩) s = .next s) ∧
        (turn 1 = false → exec (.descRead r ⟨d, heads⟩ ue) s = .next s) ∧ (turn 2 = false → exec (.descWrite r ⟨d, heads⟩ bytes) s = .next s))) ∧
    (∀ (s : State) (r : Fin 16) (d : Desc) (c : Cpl), ∀ p, p = Pg.DMQ r → s.eng.dmq[r].cur = some c →
      ∃ t, exec (.descComplete r d) s = .next t ∧ t.eng.dmq[r].cur = none ∧
        (∃ l, t.eng.sent = s.eng.sent ++ Msg.comp r c.status c.cflags c.done c.hdr :: l) ∧
        t.eng.get p DMQ.HEAD.IDX = (s.eng.get p DMQ.HEAD.IDX + 1) % 2 ^ s.eng.get p DMQ.SIZE.LOG2 % 2 ^ 16 ∧
        t.eng.get p DMQ.DESC_CNT.COUNT = min (s.eng.get p DMQ.DESC_CNT.COUNT + 1) (2 ^ 32 - 1) ∧
        (c.irq = true → s.eng.get p DMQ.COAL.N ≤ s.eng.dmq[r].irqN + 1 → t.eng.bit p DMQ.IST.DONE = true ∧ t.eng.dmq[r].irqN = 0)) ∧
    (∀ (s : State) (r : Fin 16), s.eng.dmq[r].irqN ≠ 0 → s.eng.get (Pg.DMQ r) DMQ.COAL.US ≠ 0 →
      ∃ t, exec (.dmqCoalTimeout r) s = .next t ∧ t.eng.bit (Pg.DMQ r) DMQ.IST.DONE = true ∧ t.eng.dmq[r].irqN = 0) ∧
    (∀ (s : State) (r : Fin 16) (tmo : Bool), s.eng.fetchable r = true ∨ s.eng.dmq[r].cur.isSome = true →
      ∃ t, exec (.dmaHost r tmo) s = .next t ∧ t.eng.dmq[r].halt = true ∧ t.eng.bit (Pg.DMQ r) DMQ.STS.HALTED = true ∧
        (t.eng.get Pg.DMA DMA.STS.HALTED).testBit r = true ∧ t.eng.bit Pg.DMA DMA.IST.HOSTERR = true ∧
        t.eng.get Pg.DMA DMA.HOSTERR_CNT.COUNT = min (s.eng.get Pg.DMA DMA.HOSTERR_CNT.COUNT + 1) (2 ^ 32 - 1))

/-- Unmasking a vector lets its pending message go while the link is up and the function exists. NumVFs is limited to what
the device serves. The link comes up at a speed it may; going down shows LINK_DOWN in all ten views and halts every
enabled ring; an order to retrain needs CTL.XU. A read frame gives the manager what the bus read gives, a write frame
does what the manager's bus write does; a bad frame counts and changes nothing else it names; CLOG_CLR clears every
VALID bit and the pointer. -/
def Obligations.LinkFunctionsAndManagementPort : Prop :=
  (∀ (s : State) (fn : Fin 9) (vec : Nat), vec < vectors fn → (fn.val, vec) ∉ s.eng.unmasked →
      ∃ t, exec (.msixUnmask fn vec) s = .next t ∧ (fn.val, vec) ∈ t.eng.unmasked ∧
        ((fn.val, vec) ∈ s.eng.msiPend → s.eng.bit Pg.PCI PCI.STS.LINK_UP = true → s.eng.fnPresent fn = true →
          Msg.msix fn vec ∈ t.eng.sent ∧ (fn.val, vec) ∉ t.eng.msiPend)) ∧
    (∀ (s : State) (num : Fin 16) (en ari : Bool), s.eng.bit Pg.SPI SPI.STS.PRELOCK = false →
      ∃ t, exec (.numvfsWrite num en ari) s = .next t ∧ t.eng.bit Pg.PCI PCI.VFS.VF_EN = en ∧ t.eng.bit Pg.PCI PCI.VFS.ARI = ari ∧
        t.eng.get Pg.PCI PCI.VFS.NUMVF = min num.val (if s.eng.dev.ly6440 then 4 else if ari then 8 else 7)) ∧
    (∀ (s : State) (speed : Fin 8) (width : Fin 16), s.eng.bit Pg.PCI PCI.STS.LINK_UP = false → s.eng.bit Pg.SPI SPI.STS.PRELOCK = false →
      speed.val ≤ s.eng.get Pg.PCI PCI.LINK_CAP.MAX_SPEED →
      ∃ t, exec (.pciLinkUp speed width) s = .next t ∧ t.eng.bit Pg.PCI PCI.STS.LINK_UP = true ∧ t.eng.get Pg.PCI PCI.STS.SPEED = speed ∧
        t.eng.get Pg.PCI PCI.STS.WIDTH = width) ∧
    (∀ s : State, s.eng.bit Pg.PCI PCI.STS.LINK_UP = true →
      ∃ t, exec .pciLink s = .next t ∧ t.eng.bit Pg.PCI PCI.STS.LINK_UP = false ∧
        (∀ v, v < 10 → t.eng.bit (vw v Pg.PCI) PCI.IST.LINK_DOWN = true) ∧
        ∀ r : Fin 16, s.eng.en (Pg.DMQ r) = true → t.eng.dmq[r].halt = true) ∧
    (∀ s : State, ∃ t, exec .pciAerUe s = .next t ∧
      t.eng.get Pg.PCI PCI.AER_UE_CNT.COUNT = min (s.eng.get Pg.PCI PCI.AER_UE_CNT.COUNT + 1) (2 ^ 32 - 1)) ∧
    (∀ (s : State) (who : Src), s.eng.takes who Pg.PCI 0x400 →
      (s.eng.bit Pg.PCI HDR.CTL.XU = true → ∃ t, exec (.linkRetrain who) s = .next t ∧ t.eng.bit Pg.PCI PCI.STS.LINK_UP = false ∧ t.eng.resp = ⟨0, []⟩) ∧
      (s.eng.bit Pg.PCI HDR.CTL.XU = false → ∃ t, exec (.linkRetrain who) s = .next t ∧
        t.eng.bit Pg.PCI PCI.STS.LINK_UP = s.eng.bit Pg.PCI PCI.STS.LINK_UP ∧ t.eng.resp = ⟨8, []⟩)) ∧
    (∀ (s : State) (page : Fin 256) (off : Fin 4096) (addr : Fin 1048576) (data : Word), addr.val = 4096 * page.val + off.val →
      (∃ t u, exec (.spiReadFrame addr) s = .next t ∧ exec (.multiwordSnapshotRead .manager page off) s = .next u ∧ t.eng.live = u.eng.live ∧
        t.eng.resp.code = u.eng.resp.code ∧ ∃ st w c, t.eng.resp.data = [st, w, c] ∧ st % 16 = u.eng.resp.code % 16 ∧
          ∀ x, u.eng.resp.data.head? = some x → w = x) ∧
      ∃ t u, exec (.spiWriteFrame addr data) s = .next t ∧ exec (.registerWrite .manager page off data none) s = .next u ∧ t.mem = u.mem ∧
        t.eng.live = u.eng.live ∧ t.eng.shad = u.eng.shad ∧ t.eng.core = u.eng.core ∧ t.eng.resp.code = u.eng.resp.code) ∧
    (∀ (s : State) (crc : Bool),
      (∃ t, exec .spiFrameAbandon s = .next t ∧
        t.eng.get Pg.SPI SPI.FRAME_ERR_CNT.COUNT = min (s.eng.get Pg.SPI SPI.FRAME_ERR_CNT.COUNT + 1) (2 ^ 32 - 1)) ∧
      ∃ t, exec (.spiUnknownOpcode crc) s = .next t ∧ (∃ st, t.eng.resp.data = [st, 0xFF, 0xFF, 0xFF, 0xFF] ∧ st.testBit 4 = crc ∧ st.testBit 7 = !crc) ∧
        t.eng.get Pg.SPI SPI.CRC_ERR_CNT.COUNT = (if crc then min (s.eng.get Pg.SPI SPI.CRC_ERR_CNT.COUNT + 1) (2 ^ 32 - 1)
          else s.eng.get Pg.SPI SPI.CRC_ERR_CNT.COUNT) ∧
        t.eng.get Pg.SPI SPI.FRAME_ERR_CNT.COUNT = (if crc then s.eng.get Pg.SPI SPI.FRAME_ERR_CNT.COUNT
          else min (s.eng.get Pg.SPI SPI.FRAME_ERR_CNT.COUNT + 1) (2 ^ 32 - 1))) ∧
    (∀ (s : State) (who : Src), s.eng.takes who Pg.SPI 0x4C →
      ∃ t, exec (.clogClr who) s = .next t ∧ t.eng.get Pg.SPI SPI.CLOG_PTR.NEXT = 0 ∧
        ∀ i, i < 16 → t.eng.get Pg.SPI (SPI.CLOG.INFO i) = s.eng.get Pg.SPI (SPI.CLOG.INFO i) % 2 ^ 31)

/-- With BUSY 0, the sender not locked out, no commit of KEY pending and no order waiting for an outrun's end. A refused
envelope answers the first failing code and leaves CTR. An accepted one sets CTR: PART_CREATE makes a partition READY; XPT_GRANT hands the port
on; XPT_OVERRIDE sets or clears OVR; USE_READ returns the record and marks it read; USE_RESTORE restores usage once;
DEBUG opens or closes DBG; PART_DESTROY and KEY_ROTATE run until their end, which leaves the partition NONE and what it
held with the supervisor, and programs the slot; an unknown code is RANGE. A pending commit of KEY applies as a command
completes. A lockout ends. -/
def Obligations.KeyedCommandsActOnceAccepted : Prop :=
  (∀ (s : State) (who : Src) (i : Instr) (c : Nat) (x : Code), (i, c) ∈ [(Instr.partCreate who, 1), (.partDestroy who, 2), (.xptGrant who, 3),
        (.xptOverride who, 4), (.keyRotate who, 5), (.useRead who, 6), (.useRestore who, 7), (.debug who, 8), (.keyUnknownCmd who, 99)] →
      s.eng.heard who → envCmd (s.eng.envelope who) = c → s.eng.envCode who (s.eng.envelope who) = some x →
      s.eng.bit Pg.KEY HDR.STS.PENDING = false →
      ∃ t, exec i s = .next t ∧ t.eng.answered who x.num c (envN (s.eng.envelope who) 8 8) ∧
        t.eng.get (vw who.code Pg.KEY) KEY.CTR.LAST = s.eng.get (vw who.code Pg.KEY) KEY.CTR.LAST) ∧
    (∀ (s : State) (who : Src), ∀ env a ctr, env = s.eng.envelope who → a = envArg env 0 → ctr = envN env 8 8 → s.eng.xpt.deferred = [] →
      s.eng.bit Pg.KEY HDR.STS.PENDING = false →
      (s.eng.accepts who 1 → a < s.eng.nParts → s.eng.created a = false → s.eng.ready = true →
        ∃ t, exec (.partCreate who) s = .next t ∧ t.eng.answered who 0 1 ctr ∧ t.eng.partState a = 1 ∧
          t.eng.get (vw who.code Pg.KEY) KEY.CTR.LAST = ctr) ∧
      (s.eng.accepts who 2 → a < s.eng.nParts → s.eng.created a = true → s.eng.ready = true →
        ∃ t, exec (.partDestroy who) s = .next t ∧ t.eng.key.run = some ⟨senderOf who, 2, ctr, a, 0, 0⟩ ∧ t.eng.bit Pg.KEY KEY.STS.BUSY = true) ∧
      (s.eng.accepts who 3 → a < 8 → a ≠ s.eng.owner Pg.XPT → s.eng.nibbleRange (.page Pg.XPT) a = false →
        s.eng.nibbleBusy (.page Pg.XPT) a = false → s.eng.ready = true →
        ∃ t, exec (.xptGrant who) s = .next t ∧ t.eng.answered who 0 3 ctr ∧ t.eng.owner Pg.XPT = a) ∧
      (s.eng.accepts who 4 → a ≤ 1 →
        ∃ t, exec (.xptOverride who) s = .next t ∧ t.eng.answered who 0 4 ctr ∧ t.eng.bit Pg.XPT XPT.STOPSTS.OVR = decide (a = 1)) ∧
      (s.eng.accepts who 5 → s.eng.provisions who env = true → a ≤ 3 → envArg env 1 ≤ 15 → (envArg env 1).testBit 3 = true → envArg env 2 = 0 →
        ∃ t, exec (.keyRotate who) s = .next t ∧ t.eng.key.run = some ⟨senderOf who, 5, ctr, a, envArg env 1, 0⟩ ∧
          t.eng.key.newKey = (env.drop 0x18).take 32 ∧ t.eng.bit Pg.KEY KEY.STS.BUSY = true) ∧
      (∀ r, s.eng.accepts who 6 → (s.eng.use.recs.find? fun r => r.pnum == envN env 0x10 2 && r.part == envArg env 2) = some r →
        ∃ t, exec (.useRead who) s = .next t ∧ t.eng.answered who 0 6 ctr ∧
          (∀ w, w < 16 → t.eng.get (vw who.code Pg.KEY) (KEY.RSP.BYTES w) = ofLE ((r.bytes.drop (4 * w)).take 4)) ∧
          ∀ x ∈ t.eng.use.recs, x.pnum = r.pnum → x.part = r.part → x.read = true) ∧
      (s.eng.accepts who 7 → a < s.eng.nParts → s.eng.bit Pg.USE USE.STS.SEALED_ANY = false → a ∉ s.eng.use.restored →
        ∃ t, exec (.useRestore who) s = .next t ∧ t.eng.answered who 0 7 ctr ∧ a ∈ t.eng.use.restored ∧
          Store.get t.eng.use.m0 a 0 = Store.get s.eng.use.m0 a 0 + envN env 0x18 4 * unitsPerMs) ∧
      (s.eng.accepts who 8 → a ≤ 1 →
        ∃ t, exec (.debug who) s = .next t ∧ t.eng.answered who 0 8 ctr ∧ t.eng.key.dbg = (if a = 1 then some (senderOf who) else none) ∧
          t.eng.bit Pg.KEY KEY.STS.DBG_OPEN = decide (a = 1)) ∧
      (s.eng.heard who → s.eng.envCode who env = none → cmdClass (envCmd env) = none →
        ∃ t, exec (.keyUnknownCmd who) s = .next t ∧ t.eng.answered who 4 (envCmd env) ctr)) ∧
    (∀ (s : State) (who : Src), s.eng.heard who → s.eng.envCode who (s.eng.envelope who) = none → cmdClass (envCmd (s.eng.envelope who)) = none →
      s.eng.bit Pg.KEY HDR.STS.PENDING = true → s.eng.xpt.deferred = [] →
      ∃ t, exec (.keyUnknownCmd who) s = .next t ∧ t.eng.bit Pg.KEY HDR.STS.PENDING = false ∧ t.eng.dirty Pg.KEY 8 = false) ∧
    (∀ (s : State) (k : KeyCmd), s.eng.key.run = some k → s.eng.bit Pg.KEY HDR.STS.PENDING = false →
      (k.cmd = 2 → k.arg0 < 8 → (∀ d ∈ s.eng.drains, d.part ≠ k.arg0) → (∀ d ∈ s.eng.xpt.deferred, s.eng.owner d.2 ≠ k.arg0) →
        (∀ p ∈ s.eng.owned k.arg0, s.eng.servesOutrun p = true → (leaseOf p).isSome = true) →
        ∃ t, exec .partDestroyDone s = .next t ∧ t.eng.partState k.arg0 = 0 ∧ t.eng.key.run = none ∧ t.eng.answered k.who 0 2 k.ctr ∧
          (∀ p ∈ s.eng.owned k.arg0, kindOf p ≠ .dmq → t.eng.owner p = 8) ∧ (∀ w, w < 8 → t.eng.wcpOwner w ≠ k.arg0) ∧
          ∀ d, d < 64 → t.eng.evrOwner d ≠ k.arg0) ∧
      (k.cmd = 5 → k.arg0 < s.eng.key.slots.length →
        ∃ t, exec .keyRotateDone s = .next t ∧ t.eng.key.slots[k.arg0]? = some ⟨s.eng.key.newKey, k.arg1, 1⟩ ∧ t.eng.key.run = none ∧
          t.eng.answered k.who 0 5 k.ctr)) ∧
    (∀ (s : State) (m : Bool), ∃ t, exec (.keyLockoutEnd m) s = .next t ∧ t.eng.lockouts.testBit m.toNat = false)

/-- A taken STEP within a second moves TB96 and counts; a longer one is RANGE. An edge of PPS that EDGE selects, with lock
and no commit pending, is latched with the time, counted and shown to the router; with MODE not OFF its offset from
the nearest second is shown, ALIGNED within 100 ns. A lost PPS clears ALIGNED. A new second pulses TSEC and at the
first valid date the meter is timed. BOUND is the manager's. One boundary reached seals a record for each partition,
carries remainders and opens the next period. -/
def Obligations.TimeStepsFollowsPpsAndSealsUsage : Prop :=
  (∀ (s : State) (who : Src) (data : Word), s.eng.takes who Pg.TIM 0x54 →
      (data.toInt.natAbs ≤ 999999999 → s.eng.timeHeld = false → 0 ≤ (s.eng.tb : Int) + data.toInt * unitsPerNs →
        (s.eng.tb : Int) + data.toInt * unitsPerNs < (2 ^ 48 * unitsPerSec : Nat) →
        ∃ t, exec (.timStep who data) s = .next t ∧ (t.eng.tb : Int) = s.eng.tb + data.toInt * unitsPerNs ∧ t.eng.resp = ⟨0, []⟩ ∧
          t.eng.bit Pg.TIM TIM.IST.STEPPED = true ∧
          t.eng.get Pg.TIM TIM.STEP_CNT.COUNT = min (s.eng.get Pg.TIM TIM.STEP_CNT.COUNT + 1) (2 ^ 32 - 1)) ∧
      (999999999 < data.toInt.natAbs → ∃ t, exec (.timStep who data) s = .next t ∧ t.eng.tb = s.eng.tb ∧ t.eng.resp = ⟨4, []⟩)) ∧
    (∀ (s : State) (rising : Bool), s.eng.lock = true → s.eng.bit Pg.TIM TIM.PPS_CFG.EDGE = !rising → s.eng.bit Pg.TIM HDR.STS.PENDING = false →
      ∃ t, exec (.ppsEdge rising) s = .next t ∧ t.eng.get Pg.TIM TIM.PPS_T.TB96 = tb96 s.eng.tb % 2 ^ 96 ∧ 0xA8 ∈ t.eng.evr.pulse ∧
        t.eng.tim.ppsSeen = true ∧ t.eng.tim.ppsAge = 0 ∧ t.eng.bit Pg.TIM TIM.IST.PPS = true ∧
        t.eng.get Pg.TIM TIM.PPS_CNT.COUNT = min (s.eng.get Pg.TIM TIM.PPS_CNT.COUNT + 1) (2 ^ 32 - 1) ∧
        (s.eng.get Pg.TIM TIM.PPS_CFG.MODE ≠ 0 → ∀ ns, ns = rdiv (secOffset s.eng.tb) unitsPerNs →
          t.eng.get Pg.TIM TIM.PPS_ERR.NS = unsigned 32 ns ∧ t.eng.bit Pg.TIM TIM.STS.ALIGNED = decide (ns.natAbs ≤ 100)) ∧
        (s.eng.get Pg.TIM TIM.PPS_CFG.MODE ≠ 2 → t.eng.tb = s.eng.tb)) ∧
    (∀ s : State, s.eng.lock = true → s.eng.get Pg.TIM TIM.PPS_CFG.MODE ≠ 0 →
      ∃ t, exec .ppsLost s = .next t ∧ t.eng.bit Pg.TIM TIM.STS.ALIGNED = false ∧ t.eng.bit Pg.TIM TIM.IST.PPS_LOST = true) ∧
    (∀ s : State, ∃ t, exec .tb96SecondsRollover s = .next t ∧ 0xA9 ∈ t.eng.evr.pulse ∧
      (s.eng.calValid = true → t.eng.bit Pg.USE USE.STS.TIMED = true) ∧
      (s.eng.calValid = true → s.eng.bit Pg.USE USE.STS.TIMED = false →
        t.eng.get Pg.USE USE.OPEN_START.SEC = s.eng.utc.toNat ∧ t.eng.get Pg.USE USE.LAST_B.SEC = s.eng.utc.toNat)) ∧
    (∀ (s : State) (data : Word), ∀ d, d = data.toNat →
      (s.eng.takes .manager Pg.USE 0x40 → d / 2 ^ 8 % 32 ≠ 0 → d / 2 ^ 8 % 32 ≤ 28 → d / 2 ^ 16 % 8 ≠ 7 → d / 2 ^ 24 % 32 ≤ 23 →
        ∃ t, exec (.boundWrite .manager data) s = .next t ∧ t.eng.get Pg.USE USE.BOUND.MODE = d % 2 ∧
          t.eng.get Pg.USE USE.BOUND.DAY = d / 2 ^ 8 % 32 ∧ t.eng.get Pg.USE USE.BOUND.WDAY = d / 2 ^ 16 % 8 ∧
          t.eng.get Pg.USE USE.BOUND.HOUR = d / 2 ^ 24 % 32 ∧ t.eng.resp = ⟨0, []⟩) ∧
      (s.eng.denied .host Pg.USE 0x40 false = none →
        ∃ t, exec (.boundWrite .host data) s = .next t ∧ t.eng.resp = ⟨3, []⟩ ∧ t.eng.get Pg.USE USE.BOUND.DAY = s.eng.get Pg.USE USE.BOUND.DAY)) ∧
    (∀ s : State, ∀ b pn, b = s.eng.get Pg.USE USE.NEXT_B.SEC → pn = s.eng.get Pg.USE USE.OPEN_PNUM.PNUM → b < 2 ^ 48 →
      s.eng.bit Pg.USE USE.STS.TIMED = true → s.eng.calValid = true → (s.eng.get Pg.USE USE.LAST_B.SEC : Int) ≤ s.eng.utc →
      (b : Int) ≤ s.eng.utc → s.eng.utc < s.eng.nextBound b →
      ∃ t, exec .useBoundary s = .next t ∧ t.eng.get Pg.USE USE.OPEN_PNUM.PNUM = (pn + 1) % 2 ^ 16 ∧ t.eng.get Pg.USE USE.LAST_B.SEC = b ∧
        t.eng.get Pg.USE USE.OPEN_START.SEC = b ∧ t.eng.bit Pg.USE USE.STS.SEALED_ANY = true ∧ t.eng.bit Pg.USE USE.IST.SEALED = true ∧
        (∀ n, n < s.eng.nParts → ∃ r ∈ t.eng.use.recs, r.pnum = pn % 65536 ∧ r.part = n ∧ r.read = false) ∧
        ∀ n, n < 8 → Store.get t.eng.use.m0 n 0 = Store.get s.eng.use.m0 n 0 % unitsPerMs ∧
          Store.get t.eng.use.m4 n 0 = Store.get s.eng.use.m4 n 0 % 2 ^ 20)

/-- On a framed, enabled receiver every good frame presents its event bits and ends a run of CRC failures. A PROBE gives a
follower its position and the root the ring's size; TIME_HI, TIME_RATE and TIME_LO set a follower's rate and show its
error, stepping beyond 1 CKD; an ARM waits for its time, an ARM_ACK is collected, a TRIG joins the FIFO of 16, a
reserved type counts. CRC errors count, the fourth in a row unframes, as a lost clock does. What the root and the
holder send leaves MLO, and at its time an ARM arms as its unit's own ARM does. -/
def Obligations.MiolanFramesArmTimeAndTrigger : Prop :=
  (∀ (s : State) (src : Fin 8) (evt : BitVec 16) (body : BitVec 56) (ring : Fin 1048576) (late : Nat) (ty : Fin 8), ∀ e b, e = s.eng → b = body.toNat →
      e.en Pg.MLN0 = true → e.bit Pg.MLN0 MLN0.STS.FRAMED = true →
      (∀ i, i ∈ [Instr.mlnRxIdle src evt, .mlnRxProbe src evt body ring, .mlnRxTimeHi src evt body, .mlnRxTimeLo src evt body late,
          .mlnRxTimeRate src evt body, .mlnRxArm src evt body, .mlnRxArmAck src evt body, .mlnRxTrig src evt body, .mlnRxReserved src evt ty body] →
        ∃ t, exec i s = .next t ∧ t.eng.mln.evt = evt.toNat ∧ t.eng.mln.failRow = 0) ∧
      (∀ m r, e.mln.tx = m :: r → e.en Pg.MLN1 = true → e.mlnSpeaks = true → e.mlnSends m = true →
        ∃ t f, exec (.mlnRxIdle src evt) s = .next t ∧ t.eng.mln.tx = r ∧ t.eng.sent = e.sent ++ [.frame f] ∧ f % 16 = m.1 % 16 ∧
          f / 16 % 8 = e.mlnPos % 8 ∧ f / 2 ^ 24 % 2 ^ 56 = m.2 % 2 ^ 56) ∧
      (e.mlnRole = 2 → b % 8 < 7 → ∃ t, exec (.mlnRxProbe src evt body ring) s = .next t ∧ t.eng.mlnPos = b % 8 + 1 ∧
        t.eng.bit Pg.MLN0 MLN0.STS.POSITIONED = true) ∧
      (e.mlnRole = 1 → b / 256 % 2 ^ 48 = e.mlnId → ∃ t, exec (.mlnRxProbe src evt body ring) s = .next t ∧ t.eng.get Pg.MLN0 MLN0.POS.N = b % 8 + 1 ∧
        t.eng.get Pg.MLN0 MLN0.RING.T64 = ring ∧ t.eng.mln.probing = false ∧ t.eng.bit Pg.MLN0 MLN0.STS.ALIGNED = true) ∧
      (∃ t, exec (.mlnRxTimeHi src evt body) s = .next t ∧ t.eng.mln.timeHi = some (b % 2 ^ 48)) ∧
      (e.mlnRole = 2 → ∃ t, exec (.mlnRxTimeRate src evt body) s = .next t ∧ t.eng.mln.rate = some (b % 2 ^ 32) ∧
        t.eng.get Pg.MLN0 MLN0.RING.T64 = b / 2 ^ 32 % 2 ^ 20 ∧ t.eng.get Pg.MLN0 MLN0.POS.N = b / 2 ^ 52 % 16) ∧
      (∀ sec r, e.mlnRole = 2 → e.bit Pg.MLN0 MLN0.STS.POSITIONED = true → e.mln.timeHi = some sec → e.mln.rate = some r →
        ∃ t, exec (.mlnRxTimeLo src evt body late) s = .next t ∧ t.eng.get Pg.TIM TIM.FREQ_ADJ.ADJ = r % 2 ^ 32 ∧
          ((e.mlnErr sec b late).natAbs ≤ e.ckdSpan → t.eng.bit Pg.MLN0 MLN0.STS.ALIGNED = true ∧ t.eng.tb = e.tb) ∧
          (e.ckdSpan < (e.mlnErr sec b late).natAbs → t.eng.bit Pg.MLN0 MLN0.STS.ALIGNED = false ∧ t.eng.bit Pg.TIM TIM.IST.STEPPED = true)) ∧
      (∀ u, u = e.execTime (b / 2 ^ 38 % 256) (b / 2 ^ 8 % 2 ^ 30) → ¬(src.val = e.mlnPos ∧ e.mlnSpeaks = true) →
        e.bit Pg.MLN0 MLN0.STS.ALIGNED = true → e.tb ≤ u →
        ∃ t, exec (.mlnRxArm src evt body) s = .next t ∧ t.eng.mln.arms = e.mln.arms ++ [(b % 256, u)]) ∧
      (e.bit Pg.MLN1 MLN1.STS.ARM_WAIT = true →
        ∃ t, exec (.mlnRxArmAck src evt body) s = .next t ∧ t.eng.get Pg.MLN1 (MLN1.ACK.CODE (b / 2 ^ 12 % 8)) = b / 2 ^ 8 % 16) ∧
      (¬(src.val = e.mlnPos ∧ e.mlnSpeaks = true) →
        ∃ t, exec (.mlnRxTrig src evt body) s = .next t ∧
          (e.mln.fifo.length < 16 → t.eng.mln.fifo = e.mln.fifo ++ [⟨b % 8, src, b / 8 % 256, e.trigTime b⟩] ∧ t.eng.bit Pg.MLN0 MLN0.IST.TRIG = true) ∧
          (16 ≤ e.mln.fifo.length → t.eng.mln.fifo = e.mln.fifo ∧
            t.eng.get Pg.MLN0 MLN0.RX_DROP_CNT.COUNT = min (e.get Pg.MLN0 MLN0.RX_DROP_CNT.COUNT + 1) (2 ^ 32 - 1))) ∧
      (∃ t, exec (.mlnRxReserved src evt ty body) s = .next t ∧
        t.eng.get Pg.MLN0 MLN0.UNK_CNT.COUNT = min (e.get Pg.MLN0 MLN0.UNK_CNT.COUNT + 1) (2 ^ 32 - 1)) ∧
      (∃ t, exec .mlnCrcError s = .next t ∧ t.eng.get Pg.MLN0 MLN0.CRC_ERR_CNT.COUNT = min (e.get Pg.MLN0 MLN0.CRC_ERR_CNT.COUNT + 1) (2 ^ 32 - 1) ∧
        (e.mln.failRow < 3 → t.eng.mln.failRow = e.mln.failRow + 1 ∧ t.eng.bit Pg.MLN0 MLN0.STS.FRAMED = true) ∧
        (3 ≤ e.mln.failRow → t.eng.bit Pg.MLN0 MLN0.STS.FRAMED = false ∧ t.eng.bit Pg.MLN0 MLN0.STS.POSITIONED = false)) ∧
      (∃ t, exec .mlnClockLoss s = .next t ∧ t.eng.bit Pg.MLN0 MLN0.STS.FRAMED = false ∧ t.eng.bit Pg.MLN0 MLN0.STS.POSITIONED = false ∧
        t.eng.bit Pg.MLN0 MLN0.STS.ALIGNED = false ∧ t.eng.bit Pg.MLN0 MLN0.IST.LOST = true)) ∧
    (∀ (s : State) (who : Src) (x : RxTrig) (r : List RxTrig), s.eng.readDenied who Pg.MLN0 0x60 = none → s.eng.mln.fifo = x :: r →
      ∃ t, exec (.rxTrigPop who) s = .next t ∧ t.eng.mln.fifo = r ∧ t.eng.resp = ⟨0, [x.trg + 2 ^ 8 * x.src + 2 ^ 16 * x.tag]⟩ ∧
        t.eng.get Pg.MLN0 MLN0.RX_TRIG1.TB96 = tb96 x.tb % 2 ^ 64) ∧
    (∀ s : State, s.eng.en Pg.MLN0 = true → s.eng.bit Pg.MLN0 MLN0.STS.FRAMED = false → s.eng.lock = true →
      ∃ t, exec .mlnFramed s = .next t ∧ t.eng.bit Pg.MLN0 MLN0.STS.FRAMED = true ∧
        t.eng.get Pg.MLN0 MLN0.REFRAME_CNT.COUNT = min (s.eng.get Pg.MLN0 MLN0.REFRAME_CNT.COUNT + 1) (2 ^ 32 - 1)) ∧
    (∀ s : State, s.eng.mlnRole = 1 → s.eng.en Pg.MLN1 = true →
      (∃ t f, exec .mlnProbeSend s = .next t ∧ t.eng.mln.probing = true ∧ t.eng.sent = s.eng.sent ++ [.frame f] ∧ f % 16 = 1 ∧
        f / 2 ^ 24 % 2 ^ 56 = 256 * s.eng.mlnId) ∧
      ∃ t f g h, exec .mlnTimeSend s = .next t ∧ t.eng.sent = s.eng.sent ++ [.frame f, .frame g, .frame h] ∧ f % 16 = 2 ∧ g % 16 = 3 ∧ h % 16 = 4 ∧
        f / 2 ^ 24 % 2 ^ 56 = tb96 s.eng.tb / 2 ^ 48 % 2 ^ 56) ∧
    (∀ s : State, s.eng.mln.probing = true → ∃ t, exec .mlnProbeTimeout s = .next t ∧ t.eng.mln.probing = false) ∧
    (∀ (s : State) (who : Src) (data : Word), ∀ ns grp sec u, ns = data.toNat % 2 ^ 30 → grp = s.eng.get Pg.MLN1 MLN1.ARM0.GROUPS →
      sec = s.eng.get Pg.MLN1 MLN1.ARM0.SEC → u = s.eng.execTime sec ns → s.eng.takes who Pg.MLN1 0x48 → grp < 256 → sec < 256 →
      s.eng.tb + (s.eng.get Pg.MLN0 MLN0.RING.T64 + 32 * 64) * s.eng.ckdSpan / 64 ≤ u → s.eng.bit Pg.MLN0 MLN0.STS.ALIGNED = true →
      s.eng.armWaits = false →
      ∃ t, exec (.mlnArmSubmit who data) s = .next t ∧ t.eng.mln.arms = s.eng.mln.arms ++ [(grp, u)] ∧ t.eng.bit Pg.MLN1 MLN1.STS.ARM_WAIT = true ∧
        (∀ p, p < 8 → t.eng.get Pg.MLN1 (MLN1.ACK.CODE p) = 15) ∧
        (s.eng.mln.tx.length < 16 → t.eng.mln.tx = s.eng.mln.tx ++ [(5, grp + ns * 2 ^ 8 + sec * 2 ^ 38)])) ∧
    (∀ (s : State) (a : Nat × Nat) (u : Fin 8), s.eng.mln.arms = [a] → s.eng.armUnits a.1 = [u] → a.2 ≤ s.eng.tb + s.eng.ckcPeriod →
      ∃ t v, exec .mlnArmExecute s = .next t ∧ t.eng.mln.arms = [] ∧
        exec (.acqArm (srcOf (s.eng.owner Pg.MLN0)) u) { s with eng := { s.eng with mln := { s.eng.mln with arms := [] } } } = .next v ∧
        t.mem = v.mem ∧ t.eng.acq = v.eng.acq ∧ ∀ w : Fin 8, t.eng.armed w = v.eng.armed w)

/-- With a free slot among the first 28 and no RAISED record it repeats, a fault is recorded RAISED in the lowest free one
with the next sequence number. ACK of a RAISED record by one who may, with its sequence number, makes it ACKNOWLEDGED;
CLEAR of an ACKNOWLEDGED one CLEARED; of a RAISED one it is refused BUSY; other records stay. PURGE leaves every slot
FREE, no loss, no overflow and no corruption. A parity failure marks the queue CORRUPT, drives FAULT_N, and records
itself in slot 31. -/
def Obligations.FaultRecordsRaiseAckClearAndPurge : Prop :=
  (∀ (e : Eng) (page index sev part detail i : Nat), e.flt.length = 32 → e.fltFind 0 28 FltRec.isFree = some i →
      (∀ r ∈ e.flt, ¬(r.st = 1 ∧ r.page = page ∧ r.index = index ∧ r.part = part ∧ r.sev = sev)) →
      (e.record page index sev part detail).flt = e.flt.set i ⟨if e.lock then tb96 e.tb else 0, page, index, sev, 1, part,
        e.get Pg.FLT FLT.NEXT.SEQ, 0, detail, 0⟩ ∧
      (e.record page index sev part detail).get Pg.FLT FLT.NEXT.SEQ = (e.get Pg.FLT FLT.NEXT.SEQ + 1) % 2 ^ 16 ∧
      (e.record page index sev part detail).get Pg.FLT FLT.NEXT.SLOT = i) ∧
    (∀ (s : State) (who : Src) (data : Word), ∀ k r, k = data.toNat % 32 → r = s.eng.flt.getD k FltRec.free → s.eng.denied who Pg.FLT 0x44 false = none →
      s.eng.busyFor who Pg.FLT = false → r.seq = data.toNat / 2 ^ 16 → s.eng.flt.length = 32 → data.getLsbD 10 = false →
      (data.getLsbD 8 = true → data.getLsbD 9 = false → r.st = 1 → (∀ n, who = .part n → r.part = n.val) →
        ∃ t, exec (.fltAck who data) s = .next t ∧ t.eng.flt = s.eng.flt.set k { r with st := 2 } ∧ t.eng.resp = ⟨0, []⟩) ∧
      (data.getLsbD 8 = false → data.getLsbD 9 = true → (∀ n, who ≠ .part n) →
        (r.st = 2 → ∃ t, exec (.fltClear who data) s = .next t ∧ t.eng.flt = s.eng.flt.set k { r with st := 3 } ∧ t.eng.resp = ⟨0, []⟩) ∧
        (r.st = 1 → ∃ t, exec (.fltClear who data) s = .next t ∧ t.eng.flt = s.eng.flt ∧ t.eng.resp = ⟨2, []⟩))) ∧
    (∀ (s : State) (who : Src), s.eng.takes who Pg.FLT 0x44 → (∀ n, who ≠ .part n) →
      ∃ t, exec (.fltPurge who) s = .next t ∧ t.eng.flt = List.replicate 32 FltRec.free ∧ t.eng.get Pg.FLT FLT.LOST.COUNT = 0 ∧
        t.eng.get Pg.FLT FLT.EVICT_CNT.COUNT = 0 ∧ t.eng.bit Pg.FLT FLT.STS.OVF = false ∧ t.eng.bit Pg.FLT FLT.STS.CORRUPT = false) ∧
    (∀ s : State, ∃ t, exec .fltParity s = .next t ∧ t.eng.bit Pg.FLT FLT.STS.CORRUPT = true ∧ t.eng.faultN = true ∧
      t.eng.bit Pg.FLT FLT.IST.CORRUPT = true ∧
      (s.eng.flt.length = 32 → (s.eng.flt.getD 31 FltRec.free).st ≠ 1 →
        (t.eng.flt.getD 31 FltRec.free).page = Pg.FLT ∧ (t.eng.flt.getD 31 FltRec.free).sev = 3 ∧ (t.eng.flt.getD 31 FltRec.free).st = 1))

/-- POR, RESET_N and a rail below its threshold leave the engine unfused, not READY, without faults or partitions. Fuse
load and first lock go on from there; a lock timeout counts and is a fault. Outside a start-up, PERST# ends every
acquisition and starts its reset, a soft reset or FLR of the PF starts the soft one, which when its drains are over
leaves every partition NONE. A partition reset, by RST.PART or its VF's FLR, makes it RESETTING. A block reset runs
until its drain is over and counts GEN. -/
def Obligations.ResetsAndStartUpLeaveTheirStates : Prop :=
  (∀ s : State, s.eng.key.run = none →
      ∀ i c, (i, c) ∈ [(Instr.por, 0), (.railBelowPorThreshold, 0), (.resetN, 1)] → (c = 1 → s.eng.rst.rail = false) →
      ∃ t, exec i s = .next t ∧ t.eng.fused = false ∧ t.eng.ready = false ∧ t.eng.lock = false ∧ t.eng.tb = 0 ∧ t.eng.drains = [] ∧
        t.eng.flt = List.replicate 32 FltRec.free ∧ t.eng.key.slots = s.eng.key.slots ∧ t.eng.get Pg.RST RST.CAUSE.LAST = c ∧
        t.eng.rst.rail = decide (i = .railBelowPorThreshold) ∧ (∀ n, n < 8 → t.eng.partState n = 0) ∧ ∀ u : Fin 8, t.eng.armed u = false) ∧
    (∀ (s : State) (nonce : Fin 18446744073709551616) (ok : Bool), s.eng.fused = false → s.eng.rst.rail = false →
      ∃ t, exec (.fuseLoadDone nonce [] ok) s = .next t ∧ t.eng.fused = true ∧ t.eng.get Pg.KEY KEY.NONCE.VAL = nonce ∧
        t.eng.get Pg.KEY KEY.DEVID.VAL = s.eng.dev.devid % 2 ^ 64 ∧ t.eng.bit Pg.FROM FROM.STS.ROM_OK = ok) ∧
    (∀ s : State, s.eng.fused = true → s.eng.bit Pg.SPI SPI.STS.PRELOCK = true →
      (∃ t, exec .rsLock s = .next t ∧ t.eng.lock = true ∧ t.eng.bit Pg.SPI SPI.STS.PRELOCK = false) ∧
      ∃ t, exec .rsLockTimeout s = .next t ∧ t.eng.bit Pg.CLK CLK.IST.LOCK_LOST = true ∧
        t.eng.get Pg.CLK CLK.UNLOCK_CNT.COUNT = min (s.eng.get Pg.CLK CLK.UNLOCK_CNT.COUNT + 1) (2 ^ 16 - 1)) ∧
    (∀ (s : State) (cause : Fin 3), s.eng.starting = false → s.eng.rst.perst = none →
      ∃ t, exec (.perst cause) s = .next t ∧ t.eng.ready = false ∧ t.eng.bit Pg.RST RST.STS.PERST_BUSY = true ∧
        t.eng.rst.perst = some (2 + cause) ∧ t.eng.get Pg.RST RST.CAUSE.LAST = 2 + cause ∧ (∀ n, n < 8 → t.eng.partState n = 0) ∧
        ∀ u : Fin 8, t.eng.armed u = false) ∧
    (∀ (s : State) (who : Src) (data : Word), ∀ i c, (i, c) ∈ [(Instr.rstSoft who data, if who = .manager then 6 else 5), (.pfFlr, 7)] →
      (c ≠ 7 → s.eng.takes who Pg.RST 0x40 ∧ data.getLsbD 0 = true ∧ data.toNat / 2 ^ 16 = 0x5253) → s.eng.starting = false →
      s.eng.rst.perst = none → s.eng.rst.soft = none → s.eng.rst.held = none → s.eng.bud.trip = false →
      ∃ t, exec i s = .next t ∧ t.eng.ready = false ∧ t.eng.bit Pg.RST RST.STS.SOFT_BUSY = true ∧ t.eng.rst.soft = some c ∧
        t.eng.get Pg.RST RST.CAUSE.LAST = c) ∧
    (∀ (s : State) (eyes : List Nat) (c : Nat), s.eng.rst.soft = some c → s.eng.drains = [] → s.eng.outrunAcq = none → s.eng.lock = true →
      s.eng.retune = false → s.eng.key.run = none →
      ∃ t, exec (.softResetDone eyes) s = .next t ∧ t.eng.rst.soft = none ∧ t.eng.bit Pg.RST RST.STS.SOFT_BUSY = false ∧
        t.eng.bit Pg.RST RST.IST.SOFT_DONE = true ∧ (∀ n, n < 8 → t.eng.partState n = 0) ∧
        t.eng.get Pg.RST RST.SOFT_CNT.COUNT = min (s.eng.get Pg.RST RST.SOFT_CNT.COUNT + 1) (2 ^ 16 - 1)) ∧
    (∀ (s : State) (who : Src) (data : Word) (n : Fin 8), ∀ i, i ∈ [Instr.rstPart who data, .vfFlr n] → s.eng.xpt.deferred = [] →
      (i = .rstPart who data → s.eng.takes who Pg.RST 0x44 ∧ data.getLsbD n = true ∧ ∀ k : Fin 8, data.getLsbD k = true → s.eng.created k = true) →
      (i = .vfFlr n → s.eng.rst.soft = none ∧ s.eng.rst.perst = none) → n.val < s.eng.nParts → s.eng.partState n ≠ 0 →
      ∃ t, exec i s = .next t ∧ t.eng.partState n = 3) ∧
    (∀ (s : State) (who : Src) (data : Word), ∀ p, p = data.toNat % 256 → s.eng.denied who Pg.RST 0x48 false = none → data.getLsbD 8 = true →
      s.eng.blkRight who p = true → blkPage p = true → s.eng.blkAbsorbed who = false → (∀ x ∈ s.eng.rst.blk, x.1 ≠ p) → s.eng.xpt.deferred = [] →
      ∃ t, exec (.rstBlk who data) s = .next t ∧ t.eng.rst.blk = s.eng.rst.blk ++ [(p, who.owner)] ∧ t.eng.bit Pg.RST RST.STS.BLK_BUSY = true ∧
        t.eng.resp = ⟨0, []⟩) ∧
    (∀ (s : State) (page : Fin 256) (o : Nat), (s.eng.rst.blk.find? fun x => x.1 == page.val) = some (page.val, o) → s.eng.drainsFor (.blk page) = false →
      s.eng.xpt.deferred = [] → page.val ≠ Pg.WCP → page.val ≠ Pg.EVR → blkPage page = true →
      ∃ t, exec (.blockResetDone page) s = .next t ∧ (∀ x ∈ t.eng.rst.blk, x.1 ≠ page.val) ∧ t.eng.bit Pg.RST RST.IST.BLK_DONE = true ∧
        t.eng.get page HDR.GEN.COUNT = (s.eng.get page HDR.GEN.COUNT + 1) % 2 ^ 32 ∧
        t.eng.get Pg.RST RST.BLK_CNT.COUNT = min (s.eng.get Pg.RST RST.BLK_CNT.COUNT + 1) (2 ^ 16 - 1))

/-- A BAR2 access changes no register outside CLK, DMX and the view of PCI; a READ or WRITE descriptor none outside DMX,
and the arbiter and its ring alone; TAIL and a due completion none outside the ring's page, TAIL besides the view of ENG; a bad frame
none outside SPI and FLT; NumVFs PCI, a vector none. STEP changes TIM, USE and the view, BOUND USE and the view, a
lost PPS TIM, FLT and SPI. A received message changes MLN0 and the link, a reserved type and a CRC error the counters
of MLN1 too (log entry 46); faults of the link also FLT and SPI. FLT's commands change FLT and the view of ENG. -/
def Obligations.PortLinkTimeAndFaultFrames : Prop :=
  (∀ (s t : State) (who : Src) (addr len : Nat) (ue : Bool) (bytes : List Byte) (i : Instr),
      i ∈ [Instr.bar2Read who addr len ue, .bar2Write who addr bytes] → exec i s = .next t →
      s.eng.sameBut t.eng [Pg.CLK, Pg.DMX, vw who.owner Pg.PCI] ∧ t.eng.core = s.eng.core) ∧
    (∀ (s t : State) (r : Fin 16) (d : Desc) (heads : List (Fin 16 × Desc)) (ue : Bool) (bytes : List Byte) (i : Instr),
      i ∈ [Instr.descRead r ⟨d, heads⟩ ue, .descWrite r ⟨d, heads⟩ bytes] → exec i s = .next t →
      s.eng.sameBut t.eng [Pg.DMX] ∧ t.eng.core = ({ s.eng with dmq := t.eng.dmq, dma := t.eng.dma } : Eng).core ∧
        ∀ g : Fin 16, g ≠ r → t.eng.dmq[g] = s.eng.dmq[g]) ∧
    (∀ (s t : State) (who : Src) (r : Fin 16) (data : Word) (i : Instr), i ∈ [Instr.dmqTailWrite who r data, .dmqCoalTimeout r] → exec i s = .next t →
      s.eng.sameBut t.eng [Pg.DMQ r, vw who.code Pg.ENG] ∧ t.eng.core = ({ s.eng with dmq := t.eng.dmq } : Eng).core ∧
        ∀ g : Fin 16, g ≠ r → t.eng.dmq[g] = s.eng.dmq[g]) ∧
    (∀ (s t : State) (crc : Bool) (i : Instr), i ∈ [Instr.spiFrameAbandon, .spiUnknownOpcode crc] → exec i s = .next t →
      s.eng.sameBut t.eng [Pg.SPI, Pg.FLT] ∧ t.eng.core = ({ s.eng with spiErr := t.eng.spiErr } : Eng).core) ∧
    (∀ (s t : State) (fn : Fin 9) (vec : Nat) (num : Fin 16) (en ari : Bool) (i : Instr), i ∈ [Instr.msixUnmask fn vec, .numvfsWrite num en ari] →
      exec i s = .next t → s.eng.sameBut t.eng [Pg.PCI] ∧ t.eng.core = ({ s.eng with unmasked := t.eng.unmasked } : Eng).core) ∧
    (∀ (s t : State) (who : Src) (data : Word),
      (exec (.timStep who data) s = .next t → s.eng.sameBut t.eng [Pg.TIM, Pg.USE, vw who.code Pg.ENG] ∧
        t.eng.core = ({ s.eng with tb := t.eng.tb, freeCtr := t.eng.freeCtr } : Eng).core) ∧
      (exec (.boundWrite who data) s = .next t → s.eng.sameBut t.eng [Pg.USE, vw who.code Pg.ENG] ∧ t.eng.core = s.eng.core) ∧
      (exec .ppsLost s = .next t → s.eng.sameBut t.eng [Pg.TIM, Pg.FLT, Pg.SPI] ∧ t.eng.core = s.eng.core)) ∧
    (∀ (s t : State) (src : Fin 8) (evt : BitVec 16) (body : BitVec 56) (ty : Fin 8) (i : Instr),
      (i ∈ [Instr.mlnRxIdle src evt, .mlnRxTimeHi src evt body, .mlnRxTimeRate src evt body, .mlnRxTrig src evt body] →
        exec i s = .next t → s.eng.sameBut t.eng [Pg.MLN0] ∧ t.eng.core = ({ s.eng with mln := t.eng.mln } : Eng).core) ∧
      (exec (.mlnRxReserved src evt ty body) s = .next t →
        s.eng.sameBut t.eng [Pg.MLN0, Pg.MLN1] ∧ t.eng.core = ({ s.eng with mln := t.eng.mln } : Eng).core)) ∧
    (∀ (s t : State), exec .mlnCrcError s = .next t →
      s.eng.sameBut t.eng [Pg.MLN0, Pg.MLN1, Pg.FLT, Pg.SPI] ∧ t.eng.core = ({ s.eng with mln := t.eng.mln } : Eng).core) ∧
    (∀ (s t : State) (i : Instr), i ∈ [Instr.mlnClockLoss, .mlnProbeTimeout] → exec i s = .next t →
      s.eng.sameBut t.eng [Pg.MLN0, Pg.FLT, Pg.SPI] ∧ t.eng.core = ({ s.eng with mln := t.eng.mln } : Eng).core) ∧
    (∀ (s t : State) (who : Src) (data : Word) (i : Instr), i ∈ [Instr.fltAck who data, .fltClear who data, .fltPurge who] → exec i s = .next t →
      s.eng.sameBut t.eng [Pg.FLT, vw who.code Pg.ENG] ∧ t.eng.core = s.eng.core)

/-- With no order waiting for an outrun's end: a word with VALID = 0 of a channel whose loops run marks its block, and no
later word of the block removes the mark. At the end of a marked block the four loops (their convergence counts,
starvation and starved time), the time toward CAL_TMO, and every register of every page, but the count of discarded
blocks, are as before; no result waits; and the next block begins unmarked. -/
def Obligations.InvalidWordsDiscardTheirBlock : Prop :=
  (∀ (s : State) (ch ph : Fin 4) (samples : List Int) (clips : Nat), s.eng.xpt.deferred = [] →
      ∃ t, exec (.datapathWord ch ph samples clips) s = .next t ∧
        (s.eng.bit (Pg.CAL ch) CAL.STS.RUN = true → s.eng.wordOk ch = false → t.eng.cal[ch].dirty = true) ∧
        (s.eng.cal[ch].dirty = true → t.eng.cal[ch].dirty = true)) ∧
    (∀ (s : State) (ch : Fin 4) (st : BlockStats), s.eng.bit (Pg.CAL ch) CAL.STS.RUN = true → s.eng.cal[ch].dirty = true →
      ∃ t, exec (.calBlockEnd ch st) s = .next t ∧ t.eng.cal[ch].loops = s.eng.cal[ch].loops ∧ t.eng.cal[ch].tmoT = s.eng.cal[ch].tmoT ∧
        t.eng.cal[ch].pend = none ∧ t.eng.cal[ch].dirty = false ∧
        ∀ (p : Nat) (f : Fld), f.off < 4096 → f.lo < 128 → ¬(p = Pg.CAL ch ∧ f.off = CAL.DISCARD_CNT.COUNT.off ∧ f.lo = CAL.DISCARD_CNT.COUNT.lo) →
          t.eng.get p f = s.eng.get p f)

/-- For every partition, the host and the manager, and every page number that is none of 0x00 to 0x08, 0x10 to 0x14, 0x18
to 0x1B, 0x20 to 0x28, 0x30 to 0x37, 0x40 to 0x4F, 0x60 to 0x68, 0x70 to 0x72, 0x78 to 0x7C, 0x80, 0x81, 0x88 to 0x97,
0xA0, 0xB0, 0xB1 and 0xF0: once RS has locked, a read of any word answers 0 without an error, a write of any word
answers no error, and neither changes DRAM or anything of the engine but the answer. (Before RS lock the answer is
BUSY, and nothing changes either.) -/
def Obligations.UnimplementedPagesReadZeroAndDropWrites : Prop :=
  ∀ (s : State) (who : Src) (page : Fin 256) (off : Fin 4096) (data : Word) (i : Instr),
    (∀ r ∈ [(0x00, 0x08), (0x10, 0x14), (0x18, 0x1B), (0x20, 0x28), (0x30, 0x37), (0x40, 0x4F), (0x60, 0x68), (0x70, 0x72), (0x78, 0x7C),
      (0x80, 0x81), (0x88, 0x97), (0xA0, 0xA0), (0xB0, 0xB1), (0xF0, 0xF0)], ¬(r.1 ≤ page.val ∧ page.val ≤ r.2)) →
    i ∈ [Instr.registerWrite who page off data none, .multiwordSnapshotRead who page off] →
    ∃ t, exec i s = .next t ∧ t.mem = s.mem ∧ { t.eng with resp := s.eng.resp } = s.eng ∧
      (s.eng.bit Pg.SPI SPI.STS.PRELOCK = false → t.eng.resp.code = 0 ∧
        (i = .multiwordSnapshotRead who page off → t.eng.resp = ⟨0, [0]⟩)) ∧
      (s.eng.bit Pg.SPI SPI.STS.PRELOCK = true → t.eng.resp.code = 2)
end

