-- ==== Sys2Proof/Laws/Store.lean ====
section
/-! SUPPORT. Reading a sparse table after writing it, and its canonical form. -/
namespace Sys2Proof.Machine

theorem Store.get_nil (k d : Nat) : Store.get [] k d = d := rfl

theorem Store.get_cons (x : Nat × Nat) (r : Store) (k d : Nat) :
    Store.get (x :: r) k d = if x.1 = k then x.2 else Store.get r k d := by
  by_cases h : x.1 = k
  · simp [Store.get, h]
  · have hb : (x.1 == k) = false := by simp [h]
    simp [Store.get, hb, h]

/-- An entry that was taken out reads as the default. -/
theorem Store.get_filter_self (s : Store) (k d : Nat) : Store.get (s.filter fun e => e.1 != k) k d = d := by
  induction s with
  | nil => rfl
  | cons x r ih =>
    by_cases h : x.1 = k
    · simpa [List.filter_cons, h] using ih
    · simp [h, Store.get_cons, ih]

theorem Store.get_filter_ne (s : Store) {k k' : Nat} (d : Nat) (h : k' ≠ k) :
    Store.get (s.filter fun e => e.1 != k) k' d = Store.get s k' d := by
  induction s with
  | nil => rfl
  | cons x r ih =>
    by_cases hx : x.1 = k
    · have : x.1 ≠ k' := fun hk => h (hk ▸ hx)
      simpa [List.filter_cons, hx, Store.get_cons, h.symm] using ih
    · simp [hx, Store.get_cons, ih]

theorem Store.get_ins (s : Store) (k v k' d : Nat) (hs : ∀ x ∈ s, x.1 ≠ k) :
    Store.get (Store.ins k v s) k' d = if k = k' then v else Store.get s k' d := by
  induction s with
  | nil => simp [Store.ins, Store.get_cons, Store.get_nil]
  | cons x r ih =>
    have hx : x.1 ≠ k := hs x (by simp)
    have ih := ih fun y hy => hs y (by simp [hy])
    by_cases h : k < x.1
    · simp [Store.ins, h, Store.get_cons]
    · by_cases hk : k = k'
      · subst hk; simp [Store.ins, h, Store.get_cons, ih, hx]
      · simp [Store.ins, h, Store.get_cons, ih, hk]

theorem Store.not_mem_filter (s : Store) (k : Nat) : ∀ x ∈ s.filter (fun e => e.1 != k), x.1 ≠ k := by
  intro x hx; simpa using (List.mem_filter.mp hx).2

/-- A key reads what was written under it. -/
@[simp] theorem Store.get_put_self (s : Store) (k v d : Nat) : Store.get (Store.put s k v d) k d = v := by
  unfold Store.put
  by_cases h : v = d
  · simp [h, Store.get_filter_self]
  · simp [h, Store.get_ins _ _ _ _ _ (Store.not_mem_filter s k)]

/-- A write leaves every other key alone. -/
theorem Store.get_put_ne (s : Store) {k k' : Nat} (v d d' : Nat) (h : k' ≠ k) :
    Store.get (Store.put s k v d) k' d' = Store.get s k' d' := by
  unfold Store.put
  by_cases hv : v = d
  · simp [hv, Store.get_filter_ne _ _ h]
  · simp [hv, Store.get_ins _ _ _ _ _ (Store.not_mem_filter s k), h.symm, Store.get_filter_ne _ _ h]

end Sys2Proof.Machine
end

