-- ==== Sys2Proof/Laws/Eng.lean ====
section
/-! SUPPORT. The shared operations: what each may change (`Eng.core`), and how a register reads after them. -/
namespace Sys2Proof.Machine

@[simp] theorem Eng.core_put (e : Eng) (p : Nat) (f : Fld) (v : Nat) : (e.put p f v).core = e.core := rfl
@[simp] theorem Eng.core_putI (e : Eng) (p : Nat) (f : Fld) (v : Int) : (e.putI p f v).core = e.core := rfl
@[simp] theorem Eng.core_putB (e : Eng) (p : Nat) (f : Fld) (b : Bool) : (e.putB p f b).core = e.core := rfl
@[simp] theorem Eng.core_add (e : Eng) (p : Nat) (f : Fld) (n : Nat) : (e.add p f n).core = e.core := rfl
@[simp] theorem Eng.core_inc (e : Eng) (p : Nat) (f : Fld) : (e.inc p f).core = e.core := rfl
@[simp] theorem Eng.core_wrap (e : Eng) (p : Nat) (f : Fld) : (e.wrap p f).core = e.core := rfl
@[simp] theorem Eng.core_alert (e : Eng) (b : Nat) : (e.alert b).core = e.core := rfl

theorem foldl_core {α : Type} {g : Eng → α → Eng} (hg : ∀ e x, (g e x).core = e.core) (l : List α) :
    ∀ e : Eng, (l.foldl g e).core = e.core := by
  induction l with
  | nil => exact fun _ => rfl
  | cons x r ih => intro e; rw [List.foldl_cons, ih, hg]

@[simp] theorem Eng.core_msix (e : Eng) (n v : Nat) : (e.msix n v).core = e.core := by
  unfold Eng.msix; split
  · rfl
  · split <;> rfl

@[simp] theorem Eng.core_msgClass (e : Eng) (o c : Nat) : (e.msgClass o c).core = e.core := by
  unfold Eng.msgClass
  split
  · split <;> simp
  · simp

theorem Eng.core_msgTaps (e : Eng) (c : Nat) (l : List Nat) :
    (l.foldl (fun a n => if a.taps c n then a.msgClass n 1 else a) e).core = e.core :=
  foldl_core (fun a n => by split <;> simp) l e

@[simp] theorem Eng.core_pageMsg (e : Eng) (p : Nat) : (e.pageMsg p).core = e.core := by
  unfold Eng.pageMsg
  split
  · rfl
  · extract_lets q o e1
    split
    · simp
    · split
      · rfl
      · split
        · rw [Eng.core_msgTaps, Eng.core_msgClass]
        · exact Eng.core_msgClass _ _ _

@[simp] theorem Eng.core_istOr (e : Eng) (p : Nat) (f : Fld) (m : Nat) : (e.istOr p f m).core = e.core := by
  unfold Eng.istOr; simp only
  split <;> simp

@[simp] theorem Eng.core_ist (e : Eng) (p : Nat) (f : Fld) : (e.ist p f).core = e.core := e.core_istOr p f 1

@[simp] theorem Eng.core_prtIst (e : Eng) (n : Nat) (f : Fld) : (e.prtIst n f).core = e.core := by
  unfold Eng.prtIst
  extract_lets m e1 e2
  have h2 : e2.core = e.core := by
    have : e2.core = if m.testBit (f.lo + if f.w = 1 then 0 else n) ∧ e1.get Pg.PRT f ≠ e.get Pg.PRT f then (e1.msix 0 (32 + n)).core else e1.core :=
      apply_ite Eng.core _ _ _
    rw [this, Eng.core_msix, ite_self]; rfl
  split
  · rw [Eng.core_msgClass, h2]
  · exact h2

@[simp] theorem Eng.core_resp (e : Eng) (r : Resp) : ({ e with resp := r } : Eng).core = e.core := rfl
@[simp] theorem Eng.core_flt (e : Eng) (r : List FltRec) : ({ e with flt := r } : Eng).core = e.core := rfl

@[simp] theorem Eng.core_errAt (e : Eng) (p off src : Nat) (c : Code) : (e.errAt p off src c).core = e.core := by
  unfold Eng.errAt; simp

@[simp] theorem Eng.core_refuse (e : Eng) (who : Src) (p off : Nat) (c : Code) : (e.refuse who p off c).core = e.core :=
  e.core_errAt _ _ _ _

@[simp] theorem Eng.core_refuseCommit (e : Eng) (who : Src) (p : Nat) (c : Code) : (e.refuseCommit who p c).core = e.core := by
  unfold Eng.refuseCommit; simp

@[simp] theorem Eng.core_notOwner (e : Eng) (who : Src) (off : Nat) : (e.notOwner who off).core = e.core := by
  unfold Eng.notOwner; simp

@[simp] theorem Eng.core_refuseOwner (e : Eng) (who : Src) (p off : Nat) : (e.refuseOwner who p off).core = e.core := by
  unfold Eng.refuseOwner; simp

@[simp] theorem Eng.core_fltNotify (e : Eng) (sev part : Nat) : (e.fltNotify sev part).core = e.core := by
  unfold Eng.fltNotify
  extract_lets e1 e2
  have h1 : e1.core = e.core := by simp only [e1, apply_ite Eng.core, Eng.core_ist, ite_self]
  have h2 : e2.core = e.core := by simp only [e2, apply_ite Eng.core, Eng.core_msgClass, ite_self, h1]
  split <;> simp [h2]

@[simp] theorem Eng.core_fltOvf (e : Eng) : e.fltOvf.core = e.core := by unfold Eng.fltOvf; simp

/-- A fault record changes registers, messages and the queue of faults alone. -/
@[simp] theorem Eng.core_record (e : Eng) (page index sev part detail : Nat) : (e.record page index sev part detail).core = e.core := by
  unfold Eng.record
  split
  · rfl
  · split
    · simp
    · rename_i ev _
      cases ev <;> simp

@[simp] theorem Eng.core_raise (e : Eng) (page index sev part : Nat) : (e.raise page index sev part).core = e.core :=
  e.core_record _ _ _ _ _

/-! ### Registers -/

theorem Eng.get_def (e : Eng) (p : Nat) (f : Fld) : e.get p f = Store.get e.live (regKey p f) (resetVal p f) := rfl

/-- A field reads what was put, within its width. -/
@[simp] theorem Eng.get_put_self (e : Eng) (p : Nat) (f : Fld) (v : Nat) : (e.put p f v).get p f = v % 2 ^ f.w := by
  simp [Eng.get, Eng.put]

/-- A write of one field leaves a field with another key alone. -/
theorem Eng.get_put_ne (e : Eng) {p q : Nat} {f g : Fld} (v : Nat) (h : regKey q g ≠ regKey p f) :
    (e.put p f v).get q g = e.get q g := by
  simp [Eng.get, Eng.put, Store.get_put_ne _ _ _ _ h]

/-- Fields of different pages have different keys. -/
theorem regKey_page {p q : Nat} {f g : Fld} (hf : f.off < 4096 ∧ f.lo < 128) (hg : g.off < 4096 ∧ g.lo < 128) (h : q ≠ p) : regKey q g ≠ regKey p f := by
  unfold regKey; omega

/-- Fields at different places of a page have different keys. -/
theorem regKey_field {p : Nat} {f g : Fld} (lf : f.lo < 128) (lg : g.lo < 128) (h : (g.off, g.lo) ≠ (f.off, f.lo)) : regKey p g ≠ regKey p f := by
  intro k
  unfold regKey at k
  exact h (Prod.ext (by simp only; omega) (by simp only; omega))

@[simp] theorem Eng.pulse_live (e : Eng) (s : Nat) : (e.pulse s).live = e.live := by unfold Eng.pulse; split <;> rfl
@[simp] theorem Eng.msix_live (e : Eng) (n v : Nat) : (e.msix n v).live = e.live := by
  unfold Eng.msix; split
  · rfl
  · split <;> rfl
@[simp] theorem Eng.msgClass_live (e : Eng) (o c : Nat) : (e.msgClass o c).live = e.live := by
  unfold Eng.msgClass; split
  · split <;> simp
  · simp

theorem foldl_live {α : Type} {g : Eng → α → Eng} (hg : ∀ e x, (g e x).live = e.live) (l : List α) :
    ∀ e : Eng, (l.foldl g e).live = e.live := by
  induction l with
  | nil => exact fun _ => rfl
  | cons x r ih => intro e; rw [List.foldl_cons, ih, hg]

theorem Eng.msgTaps_live (e : Eng) (c : Nat) (l : List Nat) :
    (l.foldl (fun a n => if a.taps c n then a.msgClass n 1 else a) e).live = e.live :=
  foldl_live (fun a n => by split <;> simp) l e

@[simp] theorem Eng.pageMsg_live (e : Eng) (p : Nat) : (e.pageMsg p).live = e.live := by
  unfold Eng.pageMsg
  split
  · rfl
  · extract_lets q o e1
    split
    · simp
    · split
      · rfl
      · split
        · rw [Eng.msgTaps_live, Eng.msgClass_live]
        · exact Eng.msgClass_live _ _ _

@[simp] theorem Eng.istOr_live (e : Eng) (p : Nat) (f : Fld) (m : Nat) :
    (e.istOr p f m).live = (e.put p f (e.get p f ||| m)).live := by
  unfold Eng.istOr; dsimp only; split <;> simp

@[simp] theorem Eng.ist_live (e : Eng) (p : Nat) (f : Fld) : (e.ist p f).live = (e.put p f (e.get p f ||| 1)).live := by
  simp [Eng.ist]

/-- An interrupt bit reads 1 after it is set. -/
theorem Eng.get_ist_self (e : Eng) (p : Nat) (f : Fld) : (e.ist p f).get p f = (e.get p f ||| 1) % 2 ^ f.w := by
  rw [Eng.get_def, Eng.ist_live, ← Eng.get_def, Eng.get_put_self]

/-- An interrupt bit leaves a field with another key alone. -/
theorem Eng.get_ist_ne (e : Eng) {p q : Nat} {f g : Fld} (h : regKey q g ≠ regKey p f) : (e.ist p f).get q g = e.get q g := by
  rw [Eng.get_def, Eng.ist_live, ← Eng.get_def, Eng.get_put_ne _ _ h]

/-! ### The test access port, the DMA arbiter and the drains' budgets: what each may change -/

/-- A cycle of TCK reaches the port and the free values' counter, and nothing else of the engine. -/
theorem Eng.tckCycle_only (e : Eng) : { e.tckCycle with tap := e.tap, freeCtr := e.freeCtr } = e := by
  unfold Eng.tckCycle; split <;> rfl

/-- With no cycle of TCK waiting the port rests. -/
theorem Eng.tckCycle_idle (e : Eng) (h : e.tap.wait = []) : e.tckCycle = e := by simp [Eng.tckCycle, h]

@[simp] theorem Eng.tckCycle_get (e : Eng) (p : Nat) (f : Fld) : e.tckCycle.get p f = e.get p f := by
  unfold Eng.tckCycle; split <;> rfl

/-- The arbiter's turn changes the arbiter alone. -/
theorem Eng.dmaTurn_only {e t : Eng} {r : Fin 16} {d : Desc} {heads : List (Fin 16 × Desc)} (h : e.dmaTurn r d heads = some t) :
    { t with dma := e.dma } = e := by
  unfold Eng.dmaTurn at h
  split at h
  · split at h
    · injection h with h; subst h; rfl
    · exact absurd h (by simp)
  · exact absurd h (by simp)

/-- Bytes that a drain writes count in its budget and nowhere else. -/
theorem Eng.drainWrote_only (e : Eng) (n k : Nat) : { e.drainWrote n k with drainB := e.drainB } = e := by
  unfold Eng.drainWrote; split <;> rfl

end Sys2Proof.Machine
end

