-- ==== Sys2Proof/Laws/Mem.lean ====
section
/-! SUPPORT. DRAM contents: reading after writing, and the canonical form that every write keeps. -/
namespace Sys2Proof.Machine

theorem Mem.get?_cons (c : Host.Cell) (r : Mem) (a : Nat) :
    Mem.get? (c :: r) a = if c.1 = a then some c.2 else Mem.get? r a := by
  by_cases h : c.1 = a
  · simp [Mem.get?, h]
  · have hb : (c.1 == a) = false := by simp [h]
    simp [Mem.get?, hb, h]

/-- A cell reads what was written to it. -/
@[simp] theorem Mem.get?_set_self (m : Mem) (a : Nat) (b : Byte) : Mem.get? (Mem.set a b m) a = some b := by
  induction m with
  | nil => simp [Mem.set, Mem.get?]
  | cons c r ih =>
    unfold Mem.set
    split
    · simp [Mem.get?_cons]
    · split
      · simp [Mem.get?_cons]
      · rename_i h; simp [Mem.get?_cons, Ne.symm h, ih]

/-- A write of a cell leaves every other alone. -/
theorem Mem.get?_set_ne (m : Mem) {a x : Nat} (b : Byte) (h : x ≠ a) : Mem.get? (Mem.set a b m) x = Mem.get? m x := by
  induction m with
  | nil => simp [Mem.set, Mem.get?, h.symm]
  | cons c r ih =>
    unfold Mem.set
    split
    · simp [Mem.get?_cons, h.symm]
    · split
      · rename_i hc; simp [Mem.get?_cons, h.symm, ← hc]
      · simp [Mem.get?_cons, ih]

/-- A write of consecutive bytes leaves every address outside them alone. -/
theorem Mem.get?_write_outside (bs : List Byte) : ∀ (m : Mem) (a x : Nat), x < a ∨ a + bs.length ≤ x →
    Mem.get? (Mem.write m a bs) x = Mem.get? m x := by
  induction bs with
  | nil => intros; rfl
  | cons b r ih =>
    intro m a x h
    simp only [List.length_cons] at h
    simp only [Mem.write]
    rw [ih _ _ _ (by omega), Mem.get?_set_ne _ _ (by omega)]

/-- A written byte reads back. -/
theorem Mem.get?_write_inside (bs : List Byte) : ∀ (m : Mem) (a i : Nat) (h : i < bs.length),
    Mem.get? (Mem.write m a bs) (a + i) = some bs[i] := by
  induction bs with
  | nil => intro m a i h; simp at h
  | cons b r ih =>
    intro m a i h
    simp only [Mem.write]
    cases i with
    | zero => rw [Mem.get?_write_outside _ _ _ _ (by omega)]; simp
    | succ j => simpa [Nat.add_assoc, Nat.add_comm 1 j] using ih (Mem.set a b m) (a + 1) j (by simpa using h)

/-- Every address of a memory is at or above a bound. -/
def Mem.above (n : Nat) (m : Mem) : Prop := ∀ c ∈ m, n ≤ c.1

theorem Mem.wf_cons_iff (c : Host.Cell) (r : Mem) : Mem.wf (c :: r) = true ↔ Mem.above (c.1 + 1) r ∧ Mem.wf r = true := by
  induction r generalizing c with
  | nil => simp [Mem.wf, Mem.above]
  | cons d r ih =>
    constructor
    · intro h
      simp only [Mem.wf, Bool.and_eq_true, decide_eq_true_eq] at h
      refine ⟨?_, h.2⟩
      intro x hx
      rcases List.mem_cons.mp hx with rfl | hx
      · omega
      · have := ((ih d).mp h.2).1 x hx; omega
    · intro h
      simp only [Mem.wf, Bool.and_eq_true, decide_eq_true_eq]
      exact ⟨by have := h.1 d (by simp); omega, h.2⟩

theorem Mem.above_set (m : Mem) (a n : Nat) (b : Byte) (h : Mem.above n m) (hn : n ≤ a) : Mem.above n (Mem.set a b m) := by
  induction m with
  | nil => intro c hc; simp only [Mem.set, List.mem_singleton] at hc; subst hc; exact hn
  | cons d r ih =>
    have hr : Mem.above n r := fun c hc => h c (by simp [hc])
    unfold Mem.set
    split
    · intro c hc
      rcases List.mem_cons.mp hc with rfl | hc
      · exact hn
      · exact h c hc
    · split
      · intro c hc
        rcases List.mem_cons.mp hc with rfl | hc
        · exact hn
        · exact hr c hc
      · intro c hc
        rcases List.mem_cons.mp hc with rfl | hc
        · exact h _ (by simp)
        · exact ih hr c hc

/-- A write of a cell keeps the canonical form. -/
theorem Mem.wf_set (m : Mem) (a : Nat) (b : Byte) (h : Mem.wf m = true) : Mem.wf (Mem.set a b m) = true := by
  induction m with
  | nil => rfl
  | cons c r ih =>
    have hc := (Mem.wf_cons_iff c r).mp h
    unfold Mem.set
    split
    · rename_i hl
      refine (Mem.wf_cons_iff _ _).mpr ⟨?_, h⟩
      intro x hx
      rcases List.mem_cons.mp hx with rfl | hx
      · exact hl
      · have := hc.1 x hx; simp only; omega
    · split
      · rename_i he
        refine (Mem.wf_cons_iff _ _).mpr ⟨?_, hc.2⟩
        intro x hx; have := hc.1 x hx; simp only; omega
      · rename_i hl hne
        exact (Mem.wf_cons_iff _ _).mpr ⟨Mem.above_set r a _ b hc.1 (by omega), ih hc.2⟩

/-- A write of consecutive bytes keeps the canonical form. -/
theorem Mem.wf_write (bs : List Byte) : ∀ (m : Mem) (a : Nat), Mem.wf m = true → Mem.wf (Mem.write m a bs) = true := by
  induction bs with
  | nil => intro m a h; exact h
  | cons b r ih => intro m a h; exact ih _ _ (Mem.wf_set m a b h)

end Sys2Proof.Machine
end

