-- ==== Sys2Proof/Laws/State.lean ====
section
/-! SUPPORT. Every field of the state after every basic update of it: what the update sets, and that it leaves the rest.
Each is true by definition, so that no later proof unfolds a record update. -/
namespace Sys2Proof.Machine

/-! ### Commands on the engine alone -/

@[simp] theorem onEng_next (f : Eng → Eng) (s : State) : onEng f s = .next { s with eng := f s.eng } := rfl
@[simp] theorem onBoth_next (f : Eng → Mem → Eng × Mem) (s : State) :
    onBoth f s = .next { s with eng := (f s.eng s.mem).1, mem := (f s.eng s.mem).2 } := rfl

/-! ### One cell of a bank of units -/

@[simp] theorem upd_self {α : Type} {n : Nat} (v : Vector α n) (i : Fin n) (f : α → α) : (upd v i f)[i] = f v[i] := by
  simp [upd]
theorem upd_ne {α : Type} {n : Nat} (v : Vector α n) {i j : Fin n} (f : α → α) (h : i ≠ j) : (upd v i f)[j] = v[j] := by
  have h' : i.val ≠ j.val := fun x => h (Fin.ext x)
  simp [upd, h']

/-! ### `Eng.put`: only `live` changes -/

@[simp] theorem Eng.put_shad (e : Eng) (p : Nat) (x : Fld) (n : Nat) : (e.put p x n).shad = e.shad := rfl
@[simp] theorem Eng.put_latch (e : Eng) (p : Nat) (x : Fld) (n : Nat) : (e.put p x n).latch = e.latch := rfl
@[simp] theorem Eng.put_snap (e : Eng) (p : Nat) (x : Fld) (n : Nat) : (e.put p x n).snap = e.snap := rfl
@[simp] theorem Eng.put_tixC (e : Eng) (p : Nat) (x : Fld) (n : Nat) : (e.put p x n).tixC = e.tixC := rfl
@[simp] theorem Eng.put_tixA (e : Eng) (p : Nat) (x : Fld) (n : Nat) : (e.put p x n).tixA = e.tixA := rfl
@[simp] theorem Eng.put_dev (e : Eng) (p : Nat) (x : Fld) (n : Nat) : (e.put p x n).dev = e.dev := rfl
@[simp] theorem Eng.put_fused (e : Eng) (p : Nat) (x : Fld) (n : Nat) : (e.put p x n).fused = e.fused := rfl
@[simp] theorem Eng.put_tb (e : Eng) (p : Nat) (x : Fld) (n : Nat) : (e.put p x n).tb = e.tb := rfl
@[simp] theorem Eng.put_cyc (e : Eng) (p : Nat) (x : Fld) (n : Nat) : (e.put p x n).cyc = e.cyc := rfl
@[simp] theorem Eng.put_cnv (e : Eng) (p : Nat) (x : Fld) (n : Nat) : (e.put p x n).cnv = e.cnv := rfl
@[simp] theorem Eng.put_cal (e : Eng) (p : Nat) (x : Fld) (n : Nat) : (e.put p x n).cal = e.cal := rfl
@[simp] theorem Eng.put_fch (e : Eng) (p : Nat) (x : Fld) (n : Nat) : (e.put p x n).fch = e.fch := rfl
@[simp] theorem Eng.put_trg (e : Eng) (p : Nat) (x : Fld) (n : Nat) : (e.put p x n).trg = e.trg := rfl
@[simp] theorem Eng.put_acq (e : Eng) (p : Nat) (x : Fld) (n : Nat) : (e.put p x n).acq = e.acq := rfl
@[simp] theorem Eng.put_his (e : Eng) (p : Nat) (x : Fld) (n : Nat) : (e.put p x n).his = e.his := rfl
@[simp] theorem Eng.put_dmc (e : Eng) (p : Nat) (x : Fld) (n : Nat) : (e.put p x n).dmc = e.dmc := rfl
@[simp] theorem Eng.put_bucket (e : Eng) (p : Nat) (x : Fld) (n : Nat) : (e.put p x n).bucket = e.bucket := rfl
@[simp] theorem Eng.put_retrainQ (e : Eng) (p : Nat) (x : Fld) (n : Nat) : (e.put p x n).retrainQ = e.retrainQ := rfl
@[simp] theorem Eng.put_mapNext (e : Eng) (p : Nat) (x : Fld) (n : Nat) : (e.put p x n).mapNext = e.mapNext := rfl
@[simp] theorem Eng.put_mapGood (e : Eng) (p : Nat) (x : Fld) (n : Nat) : (e.put p x n).mapGood = e.mapGood := rfl
@[simp] theorem Eng.put_ckT (e : Eng) (p : Nat) (x : Fld) (n : Nat) : (e.put p x n).ckT = e.ckT := rfl
@[simp] theorem Eng.put_mapBad (e : Eng) (p : Nat) (x : Fld) (n : Nat) : (e.put p x n).mapBad = e.mapBad := rfl
@[simp] theorem Eng.put_epoch (e : Eng) (p : Nat) (x : Fld) (n : Nat) : (e.put p x n).epoch = e.epoch := rfl
@[simp] theorem Eng.put_mcv (e : Eng) (p : Nat) (x : Fld) (n : Nat) : (e.put p x n).mcv = e.mcv := rfl
@[simp] theorem Eng.put_wcp (e : Eng) (p : Nat) (x : Fld) (n : Nat) : (e.put p x n).wcp = e.wcp := rfl
@[simp] theorem Eng.put_evr (e : Eng) (p : Nat) (x : Fld) (n : Nat) : (e.put p x n).evr = e.evr := rfl
@[simp] theorem Eng.put_xpt (e : Eng) (p : Nat) (x : Fld) (n : Nat) : (e.put p x n).xpt = e.xpt := rfl
@[simp] theorem Eng.put_sfe (e : Eng) (p : Nat) (x : Fld) (n : Nat) : (e.put p x n).sfe = e.sfe := rfl
@[simp] theorem Eng.put_dmq (e : Eng) (p : Nat) (x : Fld) (n : Nat) : (e.put p x n).dmq = e.dmq := rfl
@[simp] theorem Eng.put_dmaStop (e : Eng) (p : Nat) (x : Fld) (n : Nat) : (e.put p x n).dmaStop = e.dmaStop := rfl
@[simp] theorem Eng.put_spiErr (e : Eng) (p : Nat) (x : Fld) (n : Nat) : (e.put p x n).spiErr = e.spiErr := rfl
@[simp] theorem Eng.put_mln (e : Eng) (p : Nat) (x : Fld) (n : Nat) : (e.put p x n).mln = e.mln := rfl
@[simp] theorem Eng.put_key (e : Eng) (p : Nat) (x : Fld) (n : Nat) : (e.put p x n).key = e.key := rfl
@[simp] theorem Eng.put_tim (e : Eng) (p : Nat) (x : Fld) (n : Nat) : (e.put p x n).tim = e.tim := rfl
@[simp] theorem Eng.put_use (e : Eng) (p : Nat) (x : Fld) (n : Nat) : (e.put p x n).use = e.use := rfl
@[simp] theorem Eng.put_rst (e : Eng) (p : Nat) (x : Fld) (n : Nat) : (e.put p x n).rst = e.rst := rfl
@[simp] theorem Eng.put_bud (e : Eng) (p : Nat) (x : Fld) (n : Nat) : (e.put p x n).bud = e.bud := rfl
@[simp] theorem Eng.put_flt (e : Eng) (p : Nat) (x : Fld) (n : Nat) : (e.put p x n).flt = e.flt := rfl
@[simp] theorem Eng.put_drains (e : Eng) (p : Nat) (x : Fld) (n : Nat) : (e.put p x n).drains = e.drains := rfl
@[simp] theorem Eng.put_grpReady (e : Eng) (p : Nat) (x : Fld) (n : Nat) : (e.put p x n).grpReady = e.grpReady := rfl
@[simp] theorem Eng.put_unmasked (e : Eng) (p : Nat) (x : Fld) (n : Nat) : (e.put p x n).unmasked = e.unmasked := rfl
@[simp] theorem Eng.put_msiPend (e : Eng) (p : Nat) (x : Fld) (n : Nat) : (e.put p x n).msiPend = e.msiPend := rfl
@[simp] theorem Eng.put_resp (e : Eng) (p : Nat) (x : Fld) (n : Nat) : (e.put p x n).resp = e.resp := rfl
@[simp] theorem Eng.put_sent (e : Eng) (p : Nat) (x : Fld) (n : Nat) : (e.put p x n).sent = e.sent := rfl
@[simp] theorem Eng.put_freeCtr (e : Eng) (p : Nat) (x : Fld) (n : Nat) : (e.put p x n).freeCtr = e.freeCtr := rfl
@[simp] theorem Eng.put_tileRs (e : Eng) (p : Nat) (x : Fld) (n : Nat) : (e.put p x n).tileRs = e.tileRs := rfl
@[simp] theorem Eng.put_tileNext (e : Eng) (p : Nat) (x : Fld) (n : Nat) : (e.put p x n).tileNext = e.tileNext := rfl
@[simp] theorem Eng.put_dma (e : Eng) (p : Nat) (x : Fld) (n : Nat) : (e.put p x n).dma = e.dma := rfl
@[simp] theorem Eng.put_tap (e : Eng) (p : Nat) (x : Fld) (n : Nat) : (e.put p x n).tap = e.tap := rfl
@[simp] theorem Eng.put_drainB (e : Eng) (p : Nat) (x : Fld) (n : Nat) : (e.put p x n).drainB = e.drainB := rfl

/-! ### `Eng.shPut`: only `shad` changes -/

@[simp] theorem Eng.shPut_live (e : Eng) (p : Nat) (x : Fld) (n : Nat) : (e.shPut p x n).live = e.live := rfl
@[simp] theorem Eng.shPut_latch (e : Eng) (p : Nat) (x : Fld) (n : Nat) : (e.shPut p x n).latch = e.latch := rfl
@[simp] theorem Eng.shPut_snap (e : Eng) (p : Nat) (x : Fld) (n : Nat) : (e.shPut p x n).snap = e.snap := rfl
@[simp] theorem Eng.shPut_tixC (e : Eng) (p : Nat) (x : Fld) (n : Nat) : (e.shPut p x n).tixC = e.tixC := rfl
@[simp] theorem Eng.shPut_tixA (e : Eng) (p : Nat) (x : Fld) (n : Nat) : (e.shPut p x n).tixA = e.tixA := rfl
@[simp] theorem Eng.shPut_dev (e : Eng) (p : Nat) (x : Fld) (n : Nat) : (e.shPut p x n).dev = e.dev := rfl
@[simp] theorem Eng.shPut_fused (e : Eng) (p : Nat) (x : Fld) (n : Nat) : (e.shPut p x n).fused = e.fused := rfl
@[simp] theorem Eng.shPut_tb (e : Eng) (p : Nat) (x : Fld) (n : Nat) : (e.shPut p x n).tb = e.tb := rfl
@[simp] theorem Eng.shPut_cyc (e : Eng) (p : Nat) (x : Fld) (n : Nat) : (e.shPut p x n).cyc = e.cyc := rfl
@[simp] theorem Eng.shPut_cnv (e : Eng) (p : Nat) (x : Fld) (n : Nat) : (e.shPut p x n).cnv = e.cnv := rfl
@[simp] theorem Eng.shPut_cal (e : Eng) (p : Nat) (x : Fld) (n : Nat) : (e.shPut p x n).cal = e.cal := rfl
@[simp] theorem Eng.shPut_fch (e : Eng) (p : Nat) (x : Fld) (n : Nat) : (e.shPut p x n).fch = e.fch := rfl
@[simp] theorem Eng.shPut_trg (e : Eng) (p : Nat) (x : Fld) (n : Nat) : (e.shPut p x n).trg = e.trg := rfl
@[simp] theorem Eng.shPut_acq (e : Eng) (p : Nat) (x : Fld) (n : Nat) : (e.shPut p x n).acq = e.acq := rfl
@[simp] theorem Eng.shPut_his (e : Eng) (p : Nat) (x : Fld) (n : Nat) : (e.shPut p x n).his = e.his := rfl
@[simp] theorem Eng.shPut_dmc (e : Eng) (p : Nat) (x : Fld) (n : Nat) : (e.shPut p x n).dmc = e.dmc := rfl
@[simp] theorem Eng.shPut_bucket (e : Eng) (p : Nat) (x : Fld) (n : Nat) : (e.shPut p x n).bucket = e.bucket := rfl
@[simp] theorem Eng.shPut_retrainQ (e : Eng) (p : Nat) (x : Fld) (n : Nat) : (e.shPut p x n).retrainQ = e.retrainQ := rfl
@[simp] theorem Eng.shPut_mapNext (e : Eng) (p : Nat) (x : Fld) (n : Nat) : (e.shPut p x n).mapNext = e.mapNext := rfl
@[simp] theorem Eng.shPut_mapGood (e : Eng) (p : Nat) (x : Fld) (n : Nat) : (e.shPut p x n).mapGood = e.mapGood := rfl
@[simp] theorem Eng.shPut_ckT (e : Eng) (p : Nat) (x : Fld) (n : Nat) : (e.shPut p x n).ckT = e.ckT := rfl
@[simp] theorem Eng.shPut_mapBad (e : Eng) (p : Nat) (x : Fld) (n : Nat) : (e.shPut p x n).mapBad = e.mapBad := rfl
@[simp] theorem Eng.shPut_epoch (e : Eng) (p : Nat) (x : Fld) (n : Nat) : (e.shPut p x n).epoch = e.epoch := rfl
@[simp] theorem Eng.shPut_mcv (e : Eng) (p : Nat) (x : Fld) (n : Nat) : (e.shPut p x n).mcv = e.mcv := rfl
@[simp] theorem Eng.shPut_wcp (e : Eng) (p : Nat) (x : Fld) (n : Nat) : (e.shPut p x n).wcp = e.wcp := rfl
@[simp] theorem Eng.shPut_evr (e : Eng) (p : Nat) (x : Fld) (n : Nat) : (e.shPut p x n).evr = e.evr := rfl
@[simp] theorem Eng.shPut_xpt (e : Eng) (p : Nat) (x : Fld) (n : Nat) : (e.shPut p x n).xpt = e.xpt := rfl
@[simp] theorem Eng.shPut_sfe (e : Eng) (p : Nat) (x : Fld) (n : Nat) : (e.shPut p x n).sfe = e.sfe := rfl
@[simp] theorem Eng.shPut_dmq (e : Eng) (p : Nat) (x : Fld) (n : Nat) : (e.shPut p x n).dmq = e.dmq := rfl
@[simp] theorem Eng.shPut_dmaStop (e : Eng) (p : Nat) (x : Fld) (n : Nat) : (e.shPut p x n).dmaStop = e.dmaStop := rfl
@[simp] theorem Eng.shPut_spiErr (e : Eng) (p : Nat) (x : Fld) (n : Nat) : (e.shPut p x n).spiErr = e.spiErr := rfl
@[simp] theorem Eng.shPut_mln (e : Eng) (p : Nat) (x : Fld) (n : Nat) : (e.shPut p x n).mln = e.mln := rfl
@[simp] theorem Eng.shPut_key (e : Eng) (p : Nat) (x : Fld) (n : Nat) : (e.shPut p x n).key = e.key := rfl
@[simp] theorem Eng.shPut_tim (e : Eng) (p : Nat) (x : Fld) (n : Nat) : (e.shPut p x n).tim = e.tim := rfl
@[simp] theorem Eng.shPut_use (e : Eng) (p : Nat) (x : Fld) (n : Nat) : (e.shPut p x n).use = e.use := rfl
@[simp] theorem Eng.shPut_rst (e : Eng) (p : Nat) (x : Fld) (n : Nat) : (e.shPut p x n).rst = e.rst := rfl
@[simp] theorem Eng.shPut_bud (e : Eng) (p : Nat) (x : Fld) (n : Nat) : (e.shPut p x n).bud = e.bud := rfl
@[simp] theorem Eng.shPut_flt (e : Eng) (p : Nat) (x : Fld) (n : Nat) : (e.shPut p x n).flt = e.flt := rfl
@[simp] theorem Eng.shPut_drains (e : Eng) (p : Nat) (x : Fld) (n : Nat) : (e.shPut p x n).drains = e.drains := rfl
@[simp] theorem Eng.shPut_grpReady (e : Eng) (p : Nat) (x : Fld) (n : Nat) : (e.shPut p x n).grpReady = e.grpReady := rfl
@[simp] theorem Eng.shPut_unmasked (e : Eng) (p : Nat) (x : Fld) (n : Nat) : (e.shPut p x n).unmasked = e.unmasked := rfl
@[simp] theorem Eng.shPut_msiPend (e : Eng) (p : Nat) (x : Fld) (n : Nat) : (e.shPut p x n).msiPend = e.msiPend := rfl
@[simp] theorem Eng.shPut_resp (e : Eng) (p : Nat) (x : Fld) (n : Nat) : (e.shPut p x n).resp = e.resp := rfl
@[simp] theorem Eng.shPut_sent (e : Eng) (p : Nat) (x : Fld) (n : Nat) : (e.shPut p x n).sent = e.sent := rfl
@[simp] theorem Eng.shPut_freeCtr (e : Eng) (p : Nat) (x : Fld) (n : Nat) : (e.shPut p x n).freeCtr = e.freeCtr := rfl
@[simp] theorem Eng.shPut_tileRs (e : Eng) (p : Nat) (x : Fld) (n : Nat) : (e.shPut p x n).tileRs = e.tileRs := rfl
@[simp] theorem Eng.shPut_tileNext (e : Eng) (p : Nat) (x : Fld) (n : Nat) : (e.shPut p x n).tileNext = e.tileNext := rfl
@[simp] theorem Eng.shPut_dma (e : Eng) (p : Nat) (x : Fld) (n : Nat) : (e.shPut p x n).dma = e.dma := rfl
@[simp] theorem Eng.shPut_tap (e : Eng) (p : Nat) (x : Fld) (n : Nat) : (e.shPut p x n).tap = e.tap := rfl
@[simp] theorem Eng.shPut_drainB (e : Eng) (p : Nat) (x : Fld) (n : Nat) : (e.shPut p x n).drainB = e.drainB := rfl

/-! ### `Eng.setTix`: only the tickets change -/

@[simp] theorem Eng.setTix_live (e : Eng) (p c a : Nat) : (e.setTix p c a).live = e.live := rfl
@[simp] theorem Eng.setTix_shad (e : Eng) (p c a : Nat) : (e.setTix p c a).shad = e.shad := rfl
@[simp] theorem Eng.setTix_dev (e : Eng) (p c a : Nat) : (e.setTix p c a).dev = e.dev := rfl
@[simp] theorem Eng.setTix_tb (e : Eng) (p c a : Nat) : (e.setTix p c a).tb = e.tb := rfl
@[simp] theorem Eng.setTix_bud (e : Eng) (p c a : Nat) : (e.setTix p c a).bud = e.bud := rfl
@[simp] theorem Eng.setTix_drains (e : Eng) (p c a : Nat) : (e.setTix p c a).drains = e.drains := rfl
@[simp] theorem Eng.setTix_flt (e : Eng) (p c a : Nat) : (e.setTix p c a).flt = e.flt := rfl
@[simp] theorem Eng.setTix_resp (e : Eng) (p c a : Nat) : (e.setTix p c a).resp = e.resp := rfl
@[simp] theorem Eng.setTix_sent (e : Eng) (p c a : Nat) : (e.setTix p c a).sent = e.sent := rfl
@[simp] theorem Eng.setTix_latch (e : Eng) (p c a : Nat) : (e.setTix p c a).latch = e.latch := rfl
@[simp] theorem Eng.setTix_snap (e : Eng) (p c a : Nat) : (e.setTix p c a).snap = e.snap := rfl
@[simp] theorem Eng.setTix_fused (e : Eng) (p c a : Nat) : (e.setTix p c a).fused = e.fused := rfl
@[simp] theorem Eng.setTix_cyc (e : Eng) (p c a : Nat) : (e.setTix p c a).cyc = e.cyc := rfl
@[simp] theorem Eng.setTix_cnv (e : Eng) (p c a : Nat) : (e.setTix p c a).cnv = e.cnv := rfl
@[simp] theorem Eng.setTix_cal (e : Eng) (p c a : Nat) : (e.setTix p c a).cal = e.cal := rfl
@[simp] theorem Eng.setTix_fch (e : Eng) (p c a : Nat) : (e.setTix p c a).fch = e.fch := rfl
@[simp] theorem Eng.setTix_trg (e : Eng) (p c a : Nat) : (e.setTix p c a).trg = e.trg := rfl
@[simp] theorem Eng.setTix_acq (e : Eng) (p c a : Nat) : (e.setTix p c a).acq = e.acq := rfl
@[simp] theorem Eng.setTix_his (e : Eng) (p c a : Nat) : (e.setTix p c a).his = e.his := rfl
@[simp] theorem Eng.setTix_tileRs (e : Eng) (p c a : Nat) : (e.setTix p c a).tileRs = e.tileRs := rfl
@[simp] theorem Eng.setTix_tileNext (e : Eng) (p c a : Nat) : (e.setTix p c a).tileNext = e.tileNext := rfl
@[simp] theorem Eng.setTix_dmc (e : Eng) (p c a : Nat) : (e.setTix p c a).dmc = e.dmc := rfl
@[simp] theorem Eng.setTix_bucket (e : Eng) (p c a : Nat) : (e.setTix p c a).bucket = e.bucket := rfl
@[simp] theorem Eng.setTix_retrainQ (e : Eng) (p c a : Nat) : (e.setTix p c a).retrainQ = e.retrainQ := rfl
@[simp] theorem Eng.setTix_mapNext (e : Eng) (p c a : Nat) : (e.setTix p c a).mapNext = e.mapNext := rfl
@[simp] theorem Eng.setTix_mapGood (e : Eng) (p c a : Nat) : (e.setTix p c a).mapGood = e.mapGood := rfl
@[simp] theorem Eng.setTix_ckT (e : Eng) (p c a : Nat) : (e.setTix p c a).ckT = e.ckT := rfl
@[simp] theorem Eng.setTix_mapBad (e : Eng) (p c a : Nat) : (e.setTix p c a).mapBad = e.mapBad := rfl
@[simp] theorem Eng.setTix_epoch (e : Eng) (p c a : Nat) : (e.setTix p c a).epoch = e.epoch := rfl
@[simp] theorem Eng.setTix_mcv (e : Eng) (p c a : Nat) : (e.setTix p c a).mcv = e.mcv := rfl
@[simp] theorem Eng.setTix_wcp (e : Eng) (p c a : Nat) : (e.setTix p c a).wcp = e.wcp := rfl
@[simp] theorem Eng.setTix_evr (e : Eng) (p c a : Nat) : (e.setTix p c a).evr = e.evr := rfl
@[simp] theorem Eng.setTix_xpt (e : Eng) (p c a : Nat) : (e.setTix p c a).xpt = e.xpt := rfl
@[simp] theorem Eng.setTix_sfe (e : Eng) (p c a : Nat) : (e.setTix p c a).sfe = e.sfe := rfl
@[simp] theorem Eng.setTix_dmq (e : Eng) (p c a : Nat) : (e.setTix p c a).dmq = e.dmq := rfl
@[simp] theorem Eng.setTix_dma (e : Eng) (p c a : Nat) : (e.setTix p c a).dma = e.dma := rfl
@[simp] theorem Eng.setTix_dmaStop (e : Eng) (p c a : Nat) : (e.setTix p c a).dmaStop = e.dmaStop := rfl
@[simp] theorem Eng.setTix_spiErr (e : Eng) (p c a : Nat) : (e.setTix p c a).spiErr = e.spiErr := rfl
@[simp] theorem Eng.setTix_mln (e : Eng) (p c a : Nat) : (e.setTix p c a).mln = e.mln := rfl
@[simp] theorem Eng.setTix_key (e : Eng) (p c a : Nat) : (e.setTix p c a).key = e.key := rfl
@[simp] theorem Eng.setTix_tim (e : Eng) (p c a : Nat) : (e.setTix p c a).tim = e.tim := rfl
@[simp] theorem Eng.setTix_use (e : Eng) (p c a : Nat) : (e.setTix p c a).use = e.use := rfl
@[simp] theorem Eng.setTix_tap (e : Eng) (p c a : Nat) : (e.setTix p c a).tap = e.tap := rfl
@[simp] theorem Eng.setTix_rst (e : Eng) (p c a : Nat) : (e.setTix p c a).rst = e.rst := rfl
@[simp] theorem Eng.setTix_drainB (e : Eng) (p c a : Nat) : (e.setTix p c a).drainB = e.drainB := rfl
@[simp] theorem Eng.setTix_grpReady (e : Eng) (p c a : Nat) : (e.setTix p c a).grpReady = e.grpReady := rfl
@[simp] theorem Eng.setTix_unmasked (e : Eng) (p c a : Nat) : (e.setTix p c a).unmasked = e.unmasked := rfl
@[simp] theorem Eng.setTix_msiPend (e : Eng) (p c a : Nat) : (e.setTix p c a).msiPend = e.msiPend := rfl
@[simp] theorem Eng.setTix_freeCtr (e : Eng) (p c a : Nat) : (e.setTix p c a).freeCtr = e.freeCtr := rfl

/-! ### The changes of one unit: its own field, and the registers and shadows as they were -/

@[simp] theorem Eng.onAcq_acq (e : Eng) (i : Fin 8) (f : AcqRt → AcqRt) : (e.onAcq i f).acq = upd e.acq i f := rfl
@[simp] theorem Eng.onAcq_live (e : Eng) (i : Fin 8) (f : AcqRt → AcqRt) : (e.onAcq i f).live = e.live := rfl
@[simp] theorem Eng.onAcq_shad (e : Eng) (i : Fin 8) (f : AcqRt → AcqRt) : (e.onAcq i f).shad = e.shad := rfl
@[simp] theorem Eng.onAcq_flt (e : Eng) (i : Fin 8) (f : AcqRt → AcqRt) : (e.onAcq i f).flt = e.flt := rfl
@[simp] theorem Eng.onAcq_resp (e : Eng) (i : Fin 8) (f : AcqRt → AcqRt) : (e.onAcq i f).resp = e.resp := rfl
@[simp] theorem Eng.onAcq_latch (e : Eng) (i : Fin 8) (f : AcqRt → AcqRt) : (e.onAcq i f).latch = e.latch := rfl
@[simp] theorem Eng.onAcq_snap (e : Eng) (i : Fin 8) (f : AcqRt → AcqRt) : (e.onAcq i f).snap = e.snap := rfl
@[simp] theorem Eng.onAcq_tixC (e : Eng) (i : Fin 8) (f : AcqRt → AcqRt) : (e.onAcq i f).tixC = e.tixC := rfl
@[simp] theorem Eng.onAcq_tixA (e : Eng) (i : Fin 8) (f : AcqRt → AcqRt) : (e.onAcq i f).tixA = e.tixA := rfl
@[simp] theorem Eng.onAcq_dev (e : Eng) (i : Fin 8) (f : AcqRt → AcqRt) : (e.onAcq i f).dev = e.dev := rfl
@[simp] theorem Eng.onAcq_fused (e : Eng) (i : Fin 8) (f : AcqRt → AcqRt) : (e.onAcq i f).fused = e.fused := rfl
@[simp] theorem Eng.onAcq_tb (e : Eng) (i : Fin 8) (f : AcqRt → AcqRt) : (e.onAcq i f).tb = e.tb := rfl
@[simp] theorem Eng.onAcq_cyc (e : Eng) (i : Fin 8) (f : AcqRt → AcqRt) : (e.onAcq i f).cyc = e.cyc := rfl
@[simp] theorem Eng.onAcq_cnv (e : Eng) (i : Fin 8) (f : AcqRt → AcqRt) : (e.onAcq i f).cnv = e.cnv := rfl
@[simp] theorem Eng.onAcq_cal (e : Eng) (i : Fin 8) (f : AcqRt → AcqRt) : (e.onAcq i f).cal = e.cal := rfl
@[simp] theorem Eng.onAcq_fch (e : Eng) (i : Fin 8) (f : AcqRt → AcqRt) : (e.onAcq i f).fch = e.fch := rfl
@[simp] theorem Eng.onAcq_trg (e : Eng) (i : Fin 8) (f : AcqRt → AcqRt) : (e.onAcq i f).trg = e.trg := rfl
@[simp] theorem Eng.onAcq_his (e : Eng) (i : Fin 8) (f : AcqRt → AcqRt) : (e.onAcq i f).his = e.his := rfl
@[simp] theorem Eng.onAcq_tileRs (e : Eng) (i : Fin 8) (f : AcqRt → AcqRt) : (e.onAcq i f).tileRs = e.tileRs := rfl
@[simp] theorem Eng.onAcq_tileNext (e : Eng) (i : Fin 8) (f : AcqRt → AcqRt) : (e.onAcq i f).tileNext = e.tileNext := rfl
@[simp] theorem Eng.onAcq_dmc (e : Eng) (i : Fin 8) (f : AcqRt → AcqRt) : (e.onAcq i f).dmc = e.dmc := rfl
@[simp] theorem Eng.onAcq_bucket (e : Eng) (i : Fin 8) (f : AcqRt → AcqRt) : (e.onAcq i f).bucket = e.bucket := rfl
@[simp] theorem Eng.onAcq_retrainQ (e : Eng) (i : Fin 8) (f : AcqRt → AcqRt) : (e.onAcq i f).retrainQ = e.retrainQ := rfl
@[simp] theorem Eng.onAcq_mapNext (e : Eng) (i : Fin 8) (f : AcqRt → AcqRt) : (e.onAcq i f).mapNext = e.mapNext := rfl
@[simp] theorem Eng.onAcq_mapGood (e : Eng) (i : Fin 8) (f : AcqRt → AcqRt) : (e.onAcq i f).mapGood = e.mapGood := rfl
@[simp] theorem Eng.onAcq_ckT (e : Eng) (i : Fin 8) (f : AcqRt → AcqRt) : (e.onAcq i f).ckT = e.ckT := rfl
@[simp] theorem Eng.onAcq_mapBad (e : Eng) (i : Fin 8) (f : AcqRt → AcqRt) : (e.onAcq i f).mapBad = e.mapBad := rfl
@[simp] theorem Eng.onAcq_epoch (e : Eng) (i : Fin 8) (f : AcqRt → AcqRt) : (e.onAcq i f).epoch = e.epoch := rfl
@[simp] theorem Eng.onAcq_mcv (e : Eng) (i : Fin 8) (f : AcqRt → AcqRt) : (e.onAcq i f).mcv = e.mcv := rfl
@[simp] theorem Eng.onAcq_wcp (e : Eng) (i : Fin 8) (f : AcqRt → AcqRt) : (e.onAcq i f).wcp = e.wcp := rfl
@[simp] theorem Eng.onAcq_evr (e : Eng) (i : Fin 8) (f : AcqRt → AcqRt) : (e.onAcq i f).evr = e.evr := rfl
@[simp] theorem Eng.onAcq_xpt (e : Eng) (i : Fin 8) (f : AcqRt → AcqRt) : (e.onAcq i f).xpt = e.xpt := rfl
@[simp] theorem Eng.onAcq_sfe (e : Eng) (i : Fin 8) (f : AcqRt → AcqRt) : (e.onAcq i f).sfe = e.sfe := rfl
@[simp] theorem Eng.onAcq_dmq (e : Eng) (i : Fin 8) (f : AcqRt → AcqRt) : (e.onAcq i f).dmq = e.dmq := rfl
@[simp] theorem Eng.onAcq_dma (e : Eng) (i : Fin 8) (f : AcqRt → AcqRt) : (e.onAcq i f).dma = e.dma := rfl
@[simp] theorem Eng.onAcq_dmaStop (e : Eng) (i : Fin 8) (f : AcqRt → AcqRt) : (e.onAcq i f).dmaStop = e.dmaStop := rfl
@[simp] theorem Eng.onAcq_spiErr (e : Eng) (i : Fin 8) (f : AcqRt → AcqRt) : (e.onAcq i f).spiErr = e.spiErr := rfl
@[simp] theorem Eng.onAcq_mln (e : Eng) (i : Fin 8) (f : AcqRt → AcqRt) : (e.onAcq i f).mln = e.mln := rfl
@[simp] theorem Eng.onAcq_key (e : Eng) (i : Fin 8) (f : AcqRt → AcqRt) : (e.onAcq i f).key = e.key := rfl
@[simp] theorem Eng.onAcq_tim (e : Eng) (i : Fin 8) (f : AcqRt → AcqRt) : (e.onAcq i f).tim = e.tim := rfl
@[simp] theorem Eng.onAcq_use (e : Eng) (i : Fin 8) (f : AcqRt → AcqRt) : (e.onAcq i f).use = e.use := rfl
@[simp] theorem Eng.onAcq_tap (e : Eng) (i : Fin 8) (f : AcqRt → AcqRt) : (e.onAcq i f).tap = e.tap := rfl
@[simp] theorem Eng.onAcq_rst (e : Eng) (i : Fin 8) (f : AcqRt → AcqRt) : (e.onAcq i f).rst = e.rst := rfl
@[simp] theorem Eng.onAcq_bud (e : Eng) (i : Fin 8) (f : AcqRt → AcqRt) : (e.onAcq i f).bud = e.bud := rfl
@[simp] theorem Eng.onAcq_drains (e : Eng) (i : Fin 8) (f : AcqRt → AcqRt) : (e.onAcq i f).drains = e.drains := rfl
@[simp] theorem Eng.onAcq_drainB (e : Eng) (i : Fin 8) (f : AcqRt → AcqRt) : (e.onAcq i f).drainB = e.drainB := rfl
@[simp] theorem Eng.onAcq_grpReady (e : Eng) (i : Fin 8) (f : AcqRt → AcqRt) : (e.onAcq i f).grpReady = e.grpReady := rfl
@[simp] theorem Eng.onAcq_unmasked (e : Eng) (i : Fin 8) (f : AcqRt → AcqRt) : (e.onAcq i f).unmasked = e.unmasked := rfl
@[simp] theorem Eng.onAcq_msiPend (e : Eng) (i : Fin 8) (f : AcqRt → AcqRt) : (e.onAcq i f).msiPend = e.msiPend := rfl
@[simp] theorem Eng.onAcq_sent (e : Eng) (i : Fin 8) (f : AcqRt → AcqRt) : (e.onAcq i f).sent = e.sent := rfl
@[simp] theorem Eng.onAcq_freeCtr (e : Eng) (i : Fin 8) (f : AcqRt → AcqRt) : (e.onAcq i f).freeCtr = e.freeCtr := rfl
@[simp] theorem Eng.onAcq_get (e : Eng) (i : Fin 8) (f : AcqRt → AcqRt) (p : Nat) (x : Fld) : (e.onAcq i f).get p x = e.get p x := rfl
@[simp] theorem Eng.onAcq_sh (e : Eng) (i : Fin 8) (f : AcqRt → AcqRt) (p : Nat) (x : Fld) : (e.onAcq i f).sh p x = e.sh p x := rfl
@[simp] theorem Eng.onTrg_trg (e : Eng) (i : Fin 8) (f : TrgRt → TrgRt) : (e.onTrg i f).trg = upd e.trg i f := rfl
@[simp] theorem Eng.onTrg_live (e : Eng) (i : Fin 8) (f : TrgRt → TrgRt) : (e.onTrg i f).live = e.live := rfl
@[simp] theorem Eng.onTrg_shad (e : Eng) (i : Fin 8) (f : TrgRt → TrgRt) : (e.onTrg i f).shad = e.shad := rfl
@[simp] theorem Eng.onTrg_flt (e : Eng) (i : Fin 8) (f : TrgRt → TrgRt) : (e.onTrg i f).flt = e.flt := rfl
@[simp] theorem Eng.onTrg_resp (e : Eng) (i : Fin 8) (f : TrgRt → TrgRt) : (e.onTrg i f).resp = e.resp := rfl
@[simp] theorem Eng.onTrg_latch (e : Eng) (i : Fin 8) (f : TrgRt → TrgRt) : (e.onTrg i f).latch = e.latch := rfl
@[simp] theorem Eng.onTrg_snap (e : Eng) (i : Fin 8) (f : TrgRt → TrgRt) : (e.onTrg i f).snap = e.snap := rfl
@[simp] theorem Eng.onTrg_tixC (e : Eng) (i : Fin 8) (f : TrgRt → TrgRt) : (e.onTrg i f).tixC = e.tixC := rfl
@[simp] theorem Eng.onTrg_tixA (e : Eng) (i : Fin 8) (f : TrgRt → TrgRt) : (e.onTrg i f).tixA = e.tixA := rfl
@[simp] theorem Eng.onTrg_dev (e : Eng) (i : Fin 8) (f : TrgRt → TrgRt) : (e.onTrg i f).dev = e.dev := rfl
@[simp] theorem Eng.onTrg_fused (e : Eng) (i : Fin 8) (f : TrgRt → TrgRt) : (e.onTrg i f).fused = e.fused := rfl
@[simp] theorem Eng.onTrg_tb (e : Eng) (i : Fin 8) (f : TrgRt → TrgRt) : (e.onTrg i f).tb = e.tb := rfl
@[simp] theorem Eng.onTrg_cyc (e : Eng) (i : Fin 8) (f : TrgRt → TrgRt) : (e.onTrg i f).cyc = e.cyc := rfl
@[simp] theorem Eng.onTrg_cnv (e : Eng) (i : Fin 8) (f : TrgRt → TrgRt) : (e.onTrg i f).cnv = e.cnv := rfl
@[simp] theorem Eng.onTrg_cal (e : Eng) (i : Fin 8) (f : TrgRt → TrgRt) : (e.onTrg i f).cal = e.cal := rfl
@[simp] theorem Eng.onTrg_fch (e : Eng) (i : Fin 8) (f : TrgRt → TrgRt) : (e.onTrg i f).fch = e.fch := rfl
@[simp] theorem Eng.onTrg_acq (e : Eng) (i : Fin 8) (f : TrgRt → TrgRt) : (e.onTrg i f).acq = e.acq := rfl
@[simp] theorem Eng.onTrg_his (e : Eng) (i : Fin 8) (f : TrgRt → TrgRt) : (e.onTrg i f).his = e.his := rfl
@[simp] theorem Eng.onTrg_tileRs (e : Eng) (i : Fin 8) (f : TrgRt → TrgRt) : (e.onTrg i f).tileRs = e.tileRs := rfl
@[simp] theorem Eng.onTrg_tileNext (e : Eng) (i : Fin 8) (f : TrgRt → TrgRt) : (e.onTrg i f).tileNext = e.tileNext := rfl
@[simp] theorem Eng.onTrg_dmc (e : Eng) (i : Fin 8) (f : TrgRt → TrgRt) : (e.onTrg i f).dmc = e.dmc := rfl
@[simp] theorem Eng.onTrg_bucket (e : Eng) (i : Fin 8) (f : TrgRt → TrgRt) : (e.onTrg i f).bucket = e.bucket := rfl
@[simp] theorem Eng.onTrg_retrainQ (e : Eng) (i : Fin 8) (f : TrgRt → TrgRt) : (e.onTrg i f).retrainQ = e.retrainQ := rfl
@[simp] theorem Eng.onTrg_mapNext (e : Eng) (i : Fin 8) (f : TrgRt → TrgRt) : (e.onTrg i f).mapNext = e.mapNext := rfl
@[simp] theorem Eng.onTrg_mapGood (e : Eng) (i : Fin 8) (f : TrgRt → TrgRt) : (e.onTrg i f).mapGood = e.mapGood := rfl
@[simp] theorem Eng.onTrg_ckT (e : Eng) (i : Fin 8) (f : TrgRt → TrgRt) : (e.onTrg i f).ckT = e.ckT := rfl
@[simp] theorem Eng.onTrg_mapBad (e : Eng) (i : Fin 8) (f : TrgRt → TrgRt) : (e.onTrg i f).mapBad = e.mapBad := rfl
@[simp] theorem Eng.onTrg_epoch (e : Eng) (i : Fin 8) (f : TrgRt → TrgRt) : (e.onTrg i f).epoch = e.epoch := rfl
@[simp] theorem Eng.onTrg_mcv (e : Eng) (i : Fin 8) (f : TrgRt → TrgRt) : (e.onTrg i f).mcv = e.mcv := rfl
@[simp] theorem Eng.onTrg_wcp (e : Eng) (i : Fin 8) (f : TrgRt → TrgRt) : (e.onTrg i f).wcp = e.wcp := rfl
@[simp] theorem Eng.onTrg_evr (e : Eng) (i : Fin 8) (f : TrgRt → TrgRt) : (e.onTrg i f).evr = e.evr := rfl
@[simp] theorem Eng.onTrg_xpt (e : Eng) (i : Fin 8) (f : TrgRt → TrgRt) : (e.onTrg i f).xpt = e.xpt := rfl
@[simp] theorem Eng.onTrg_sfe (e : Eng) (i : Fin 8) (f : TrgRt → TrgRt) : (e.onTrg i f).sfe = e.sfe := rfl
@[simp] theorem Eng.onTrg_dmq (e : Eng) (i : Fin 8) (f : TrgRt → TrgRt) : (e.onTrg i f).dmq = e.dmq := rfl
@[simp] theorem Eng.onTrg_dma (e : Eng) (i : Fin 8) (f : TrgRt → TrgRt) : (e.onTrg i f).dma = e.dma := rfl
@[simp] theorem Eng.onTrg_dmaStop (e : Eng) (i : Fin 8) (f : TrgRt → TrgRt) : (e.onTrg i f).dmaStop = e.dmaStop := rfl
@[simp] theorem Eng.onTrg_spiErr (e : Eng) (i : Fin 8) (f : TrgRt → TrgRt) : (e.onTrg i f).spiErr = e.spiErr := rfl
@[simp] theorem Eng.onTrg_mln (e : Eng) (i : Fin 8) (f : TrgRt → TrgRt) : (e.onTrg i f).mln = e.mln := rfl
@[simp] theorem Eng.onTrg_key (e : Eng) (i : Fin 8) (f : TrgRt → TrgRt) : (e.onTrg i f).key = e.key := rfl
@[simp] theorem Eng.onTrg_tim (e : Eng) (i : Fin 8) (f : TrgRt → TrgRt) : (e.onTrg i f).tim = e.tim := rfl
@[simp] theorem Eng.onTrg_use (e : Eng) (i : Fin 8) (f : TrgRt → TrgRt) : (e.onTrg i f).use = e.use := rfl
@[simp] theorem Eng.onTrg_tap (e : Eng) (i : Fin 8) (f : TrgRt → TrgRt) : (e.onTrg i f).tap = e.tap := rfl
@[simp] theorem Eng.onTrg_rst (e : Eng) (i : Fin 8) (f : TrgRt → TrgRt) : (e.onTrg i f).rst = e.rst := rfl
@[simp] theorem Eng.onTrg_bud (e : Eng) (i : Fin 8) (f : TrgRt → TrgRt) : (e.onTrg i f).bud = e.bud := rfl
@[simp] theorem Eng.onTrg_drains (e : Eng) (i : Fin 8) (f : TrgRt → TrgRt) : (e.onTrg i f).drains = e.drains := rfl
@[simp] theorem Eng.onTrg_drainB (e : Eng) (i : Fin 8) (f : TrgRt → TrgRt) : (e.onTrg i f).drainB = e.drainB := rfl
@[simp] theorem Eng.onTrg_grpReady (e : Eng) (i : Fin 8) (f : TrgRt → TrgRt) : (e.onTrg i f).grpReady = e.grpReady := rfl
@[simp] theorem Eng.onTrg_unmasked (e : Eng) (i : Fin 8) (f : TrgRt → TrgRt) : (e.onTrg i f).unmasked = e.unmasked := rfl
@[simp] theorem Eng.onTrg_msiPend (e : Eng) (i : Fin 8) (f : TrgRt → TrgRt) : (e.onTrg i f).msiPend = e.msiPend := rfl
@[simp] theorem Eng.onTrg_sent (e : Eng) (i : Fin 8) (f : TrgRt → TrgRt) : (e.onTrg i f).sent = e.sent := rfl
@[simp] theorem Eng.onTrg_freeCtr (e : Eng) (i : Fin 8) (f : TrgRt → TrgRt) : (e.onTrg i f).freeCtr = e.freeCtr := rfl
@[simp] theorem Eng.onTrg_get (e : Eng) (i : Fin 8) (f : TrgRt → TrgRt) (p : Nat) (x : Fld) : (e.onTrg i f).get p x = e.get p x := rfl
@[simp] theorem Eng.onTrg_sh (e : Eng) (i : Fin 8) (f : TrgRt → TrgRt) (p : Nat) (x : Fld) : (e.onTrg i f).sh p x = e.sh p x := rfl
@[simp] theorem Eng.onFch_fch (e : Eng) (i : Fin 8) (f : FchRt → FchRt) : (e.onFch i f).fch = upd e.fch i f := rfl
@[simp] theorem Eng.onFch_live (e : Eng) (i : Fin 8) (f : FchRt → FchRt) : (e.onFch i f).live = e.live := rfl
@[simp] theorem Eng.onFch_shad (e : Eng) (i : Fin 8) (f : FchRt → FchRt) : (e.onFch i f).shad = e.shad := rfl
@[simp] theorem Eng.onFch_flt (e : Eng) (i : Fin 8) (f : FchRt → FchRt) : (e.onFch i f).flt = e.flt := rfl
@[simp] theorem Eng.onFch_resp (e : Eng) (i : Fin 8) (f : FchRt → FchRt) : (e.onFch i f).resp = e.resp := rfl
@[simp] theorem Eng.onFch_latch (e : Eng) (i : Fin 8) (f : FchRt → FchRt) : (e.onFch i f).latch = e.latch := rfl
@[simp] theorem Eng.onFch_snap (e : Eng) (i : Fin 8) (f : FchRt → FchRt) : (e.onFch i f).snap = e.snap := rfl
@[simp] theorem Eng.onFch_tixC (e : Eng) (i : Fin 8) (f : FchRt → FchRt) : (e.onFch i f).tixC = e.tixC := rfl
@[simp] theorem Eng.onFch_tixA (e : Eng) (i : Fin 8) (f : FchRt → FchRt) : (e.onFch i f).tixA = e.tixA := rfl
@[simp] theorem Eng.onFch_dev (e : Eng) (i : Fin 8) (f : FchRt → FchRt) : (e.onFch i f).dev = e.dev := rfl
@[simp] theorem Eng.onFch_fused (e : Eng) (i : Fin 8) (f : FchRt → FchRt) : (e.onFch i f).fused = e.fused := rfl
@[simp] theorem Eng.onFch_tb (e : Eng) (i : Fin 8) (f : FchRt → FchRt) : (e.onFch i f).tb = e.tb := rfl
@[simp] theorem Eng.onFch_cyc (e : Eng) (i : Fin 8) (f : FchRt → FchRt) : (e.onFch i f).cyc = e.cyc := rfl
@[simp] theorem Eng.onFch_cnv (e : Eng) (i : Fin 8) (f : FchRt → FchRt) : (e.onFch i f).cnv = e.cnv := rfl
@[simp] theorem Eng.onFch_cal (e : Eng) (i : Fin 8) (f : FchRt → FchRt) : (e.onFch i f).cal = e.cal := rfl
@[simp] theorem Eng.onFch_trg (e : Eng) (i : Fin 8) (f : FchRt → FchRt) : (e.onFch i f).trg = e.trg := rfl
@[simp] theorem Eng.onFch_acq (e : Eng) (i : Fin 8) (f : FchRt → FchRt) : (e.onFch i f).acq = e.acq := rfl
@[simp] theorem Eng.onFch_his (e : Eng) (i : Fin 8) (f : FchRt → FchRt) : (e.onFch i f).his = e.his := rfl
@[simp] theorem Eng.onFch_tileRs (e : Eng) (i : Fin 8) (f : FchRt → FchRt) : (e.onFch i f).tileRs = e.tileRs := rfl
@[simp] theorem Eng.onFch_tileNext (e : Eng) (i : Fin 8) (f : FchRt → FchRt) : (e.onFch i f).tileNext = e.tileNext := rfl
@[simp] theorem Eng.onFch_dmc (e : Eng) (i : Fin 8) (f : FchRt → FchRt) : (e.onFch i f).dmc = e.dmc := rfl
@[simp] theorem Eng.onFch_bucket (e : Eng) (i : Fin 8) (f : FchRt → FchRt) : (e.onFch i f).bucket = e.bucket := rfl
@[simp] theorem Eng.onFch_retrainQ (e : Eng) (i : Fin 8) (f : FchRt → FchRt) : (e.onFch i f).retrainQ = e.retrainQ := rfl
@[simp] theorem Eng.onFch_mapNext (e : Eng) (i : Fin 8) (f : FchRt → FchRt) : (e.onFch i f).mapNext = e.mapNext := rfl
@[simp] theorem Eng.onFch_mapGood (e : Eng) (i : Fin 8) (f : FchRt → FchRt) : (e.onFch i f).mapGood = e.mapGood := rfl
@[simp] theorem Eng.onFch_ckT (e : Eng) (i : Fin 8) (f : FchRt → FchRt) : (e.onFch i f).ckT = e.ckT := rfl
@[simp] theorem Eng.onFch_mapBad (e : Eng) (i : Fin 8) (f : FchRt → FchRt) : (e.onFch i f).mapBad = e.mapBad := rfl
@[simp] theorem Eng.onFch_epoch (e : Eng) (i : Fin 8) (f : FchRt → FchRt) : (e.onFch i f).epoch = e.epoch := rfl
@[simp] theorem Eng.onFch_mcv (e : Eng) (i : Fin 8) (f : FchRt → FchRt) : (e.onFch i f).mcv = e.mcv := rfl
@[simp] theorem Eng.onFch_wcp (e : Eng) (i : Fin 8) (f : FchRt → FchRt) : (e.onFch i f).wcp = e.wcp := rfl
@[simp] theorem Eng.onFch_evr (e : Eng) (i : Fin 8) (f : FchRt → FchRt) : (e.onFch i f).evr = e.evr := rfl
@[simp] theorem Eng.onFch_xpt (e : Eng) (i : Fin 8) (f : FchRt → FchRt) : (e.onFch i f).xpt = e.xpt := rfl
@[simp] theorem Eng.onFch_sfe (e : Eng) (i : Fin 8) (f : FchRt → FchRt) : (e.onFch i f).sfe = e.sfe := rfl
@[simp] theorem Eng.onFch_dmq (e : Eng) (i : Fin 8) (f : FchRt → FchRt) : (e.onFch i f).dmq = e.dmq := rfl
@[simp] theorem Eng.onFch_dma (e : Eng) (i : Fin 8) (f : FchRt → FchRt) : (e.onFch i f).dma = e.dma := rfl
@[simp] theorem Eng.onFch_dmaStop (e : Eng) (i : Fin 8) (f : FchRt → FchRt) : (e.onFch i f).dmaStop = e.dmaStop := rfl
@[simp] theorem Eng.onFch_spiErr (e : Eng) (i : Fin 8) (f : FchRt → FchRt) : (e.onFch i f).spiErr = e.spiErr := rfl
@[simp] theorem Eng.onFch_mln (e : Eng) (i : Fin 8) (f : FchRt → FchRt) : (e.onFch i f).mln = e.mln := rfl
@[simp] theorem Eng.onFch_key (e : Eng) (i : Fin 8) (f : FchRt → FchRt) : (e.onFch i f).key = e.key := rfl
@[simp] theorem Eng.onFch_tim (e : Eng) (i : Fin 8) (f : FchRt → FchRt) : (e.onFch i f).tim = e.tim := rfl
@[simp] theorem Eng.onFch_use (e : Eng) (i : Fin 8) (f : FchRt → FchRt) : (e.onFch i f).use = e.use := rfl
@[simp] theorem Eng.onFch_tap (e : Eng) (i : Fin 8) (f : FchRt → FchRt) : (e.onFch i f).tap = e.tap := rfl
@[simp] theorem Eng.onFch_rst (e : Eng) (i : Fin 8) (f : FchRt → FchRt) : (e.onFch i f).rst = e.rst := rfl
@[simp] theorem Eng.onFch_bud (e : Eng) (i : Fin 8) (f : FchRt → FchRt) : (e.onFch i f).bud = e.bud := rfl
@[simp] theorem Eng.onFch_drains (e : Eng) (i : Fin 8) (f : FchRt → FchRt) : (e.onFch i f).drains = e.drains := rfl
@[simp] theorem Eng.onFch_drainB (e : Eng) (i : Fin 8) (f : FchRt → FchRt) : (e.onFch i f).drainB = e.drainB := rfl
@[simp] theorem Eng.onFch_grpReady (e : Eng) (i : Fin 8) (f : FchRt → FchRt) : (e.onFch i f).grpReady = e.grpReady := rfl
@[simp] theorem Eng.onFch_unmasked (e : Eng) (i : Fin 8) (f : FchRt → FchRt) : (e.onFch i f).unmasked = e.unmasked := rfl
@[simp] theorem Eng.onFch_msiPend (e : Eng) (i : Fin 8) (f : FchRt → FchRt) : (e.onFch i f).msiPend = e.msiPend := rfl
@[simp] theorem Eng.onFch_sent (e : Eng) (i : Fin 8) (f : FchRt → FchRt) : (e.onFch i f).sent = e.sent := rfl
@[simp] theorem Eng.onFch_freeCtr (e : Eng) (i : Fin 8) (f : FchRt → FchRt) : (e.onFch i f).freeCtr = e.freeCtr := rfl
@[simp] theorem Eng.onFch_get (e : Eng) (i : Fin 8) (f : FchRt → FchRt) (p : Nat) (x : Fld) : (e.onFch i f).get p x = e.get p x := rfl
@[simp] theorem Eng.onFch_sh (e : Eng) (i : Fin 8) (f : FchRt → FchRt) (p : Nat) (x : Fld) : (e.onFch i f).sh p x = e.sh p x := rfl
@[simp] theorem Eng.onCnv_cnv (e : Eng) (i : Fin 4) (f : CnvRt → CnvRt) : (e.onCnv i f).cnv = upd e.cnv i f := rfl
@[simp] theorem Eng.onCnv_live (e : Eng) (i : Fin 4) (f : CnvRt → CnvRt) : (e.onCnv i f).live = e.live := rfl
@[simp] theorem Eng.onCnv_shad (e : Eng) (i : Fin 4) (f : CnvRt → CnvRt) : (e.onCnv i f).shad = e.shad := rfl
@[simp] theorem Eng.onCnv_flt (e : Eng) (i : Fin 4) (f : CnvRt → CnvRt) : (e.onCnv i f).flt = e.flt := rfl
@[simp] theorem Eng.onCnv_resp (e : Eng) (i : Fin 4) (f : CnvRt → CnvRt) : (e.onCnv i f).resp = e.resp := rfl
@[simp] theorem Eng.onCnv_latch (e : Eng) (i : Fin 4) (f : CnvRt → CnvRt) : (e.onCnv i f).latch = e.latch := rfl
@[simp] theorem Eng.onCnv_snap (e : Eng) (i : Fin 4) (f : CnvRt → CnvRt) : (e.onCnv i f).snap = e.snap := rfl
@[simp] theorem Eng.onCnv_tixC (e : Eng) (i : Fin 4) (f : CnvRt → CnvRt) : (e.onCnv i f).tixC = e.tixC := rfl
@[simp] theorem Eng.onCnv_tixA (e : Eng) (i : Fin 4) (f : CnvRt → CnvRt) : (e.onCnv i f).tixA = e.tixA := rfl
@[simp] theorem Eng.onCnv_dev (e : Eng) (i : Fin 4) (f : CnvRt → CnvRt) : (e.onCnv i f).dev = e.dev := rfl
@[simp] theorem Eng.onCnv_fused (e : Eng) (i : Fin 4) (f : CnvRt → CnvRt) : (e.onCnv i f).fused = e.fused := rfl
@[simp] theorem Eng.onCnv_tb (e : Eng) (i : Fin 4) (f : CnvRt → CnvRt) : (e.onCnv i f).tb = e.tb := rfl
@[simp] theorem Eng.onCnv_cyc (e : Eng) (i : Fin 4) (f : CnvRt → CnvRt) : (e.onCnv i f).cyc = e.cyc := rfl
@[simp] theorem Eng.onCnv_cal (e : Eng) (i : Fin 4) (f : CnvRt → CnvRt) : (e.onCnv i f).cal = e.cal := rfl
@[simp] theorem Eng.onCnv_fch (e : Eng) (i : Fin 4) (f : CnvRt → CnvRt) : (e.onCnv i f).fch = e.fch := rfl
@[simp] theorem Eng.onCnv_trg (e : Eng) (i : Fin 4) (f : CnvRt → CnvRt) : (e.onCnv i f).trg = e.trg := rfl
@[simp] theorem Eng.onCnv_acq (e : Eng) (i : Fin 4) (f : CnvRt → CnvRt) : (e.onCnv i f).acq = e.acq := rfl
@[simp] theorem Eng.onCnv_his (e : Eng) (i : Fin 4) (f : CnvRt → CnvRt) : (e.onCnv i f).his = e.his := rfl
@[simp] theorem Eng.onCnv_tileRs (e : Eng) (i : Fin 4) (f : CnvRt → CnvRt) : (e.onCnv i f).tileRs = e.tileRs := rfl
@[simp] theorem Eng.onCnv_tileNext (e : Eng) (i : Fin 4) (f : CnvRt → CnvRt) : (e.onCnv i f).tileNext = e.tileNext := rfl
@[simp] theorem Eng.onCnv_dmc (e : Eng) (i : Fin 4) (f : CnvRt → CnvRt) : (e.onCnv i f).dmc = e.dmc := rfl
@[simp] theorem Eng.onCnv_bucket (e : Eng) (i : Fin 4) (f : CnvRt → CnvRt) : (e.onCnv i f).bucket = e.bucket := rfl
@[simp] theorem Eng.onCnv_retrainQ (e : Eng) (i : Fin 4) (f : CnvRt → CnvRt) : (e.onCnv i f).retrainQ = e.retrainQ := rfl
@[simp] theorem Eng.onCnv_mapNext (e : Eng) (i : Fin 4) (f : CnvRt → CnvRt) : (e.onCnv i f).mapNext = e.mapNext := rfl
@[simp] theorem Eng.onCnv_mapGood (e : Eng) (i : Fin 4) (f : CnvRt → CnvRt) : (e.onCnv i f).mapGood = e.mapGood := rfl
@[simp] theorem Eng.onCnv_ckT (e : Eng) (i : Fin 4) (f : CnvRt → CnvRt) : (e.onCnv i f).ckT = e.ckT := rfl
@[simp] theorem Eng.onCnv_mapBad (e : Eng) (i : Fin 4) (f : CnvRt → CnvRt) : (e.onCnv i f).mapBad = e.mapBad := rfl
@[simp] theorem Eng.onCnv_epoch (e : Eng) (i : Fin 4) (f : CnvRt → CnvRt) : (e.onCnv i f).epoch = e.epoch := rfl
@[simp] theorem Eng.onCnv_mcv (e : Eng) (i : Fin 4) (f : CnvRt → CnvRt) : (e.onCnv i f).mcv = e.mcv := rfl
@[simp] theorem Eng.onCnv_wcp (e : Eng) (i : Fin 4) (f : CnvRt → CnvRt) : (e.onCnv i f).wcp = e.wcp := rfl
@[simp] theorem Eng.onCnv_evr (e : Eng) (i : Fin 4) (f : CnvRt → CnvRt) : (e.onCnv i f).evr = e.evr := rfl
@[simp] theorem Eng.onCnv_xpt (e : Eng) (i : Fin 4) (f : CnvRt → CnvRt) : (e.onCnv i f).xpt = e.xpt := rfl
@[simp] theorem Eng.onCnv_sfe (e : Eng) (i : Fin 4) (f : CnvRt → CnvRt) : (e.onCnv i f).sfe = e.sfe := rfl
@[simp] theorem Eng.onCnv_dmq (e : Eng) (i : Fin 4) (f : CnvRt → CnvRt) : (e.onCnv i f).dmq = e.dmq := rfl
@[simp] theorem Eng.onCnv_dma (e : Eng) (i : Fin 4) (f : CnvRt → CnvRt) : (e.onCnv i f).dma = e.dma := rfl
@[simp] theorem Eng.onCnv_dmaStop (e : Eng) (i : Fin 4) (f : CnvRt → CnvRt) : (e.onCnv i f).dmaStop = e.dmaStop := rfl
@[simp] theorem Eng.onCnv_spiErr (e : Eng) (i : Fin 4) (f : CnvRt → CnvRt) : (e.onCnv i f).spiErr = e.spiErr := rfl
@[simp] theorem Eng.onCnv_mln (e : Eng) (i : Fin 4) (f : CnvRt → CnvRt) : (e.onCnv i f).mln = e.mln := rfl
@[simp] theorem Eng.onCnv_key (e : Eng) (i : Fin 4) (f : CnvRt → CnvRt) : (e.onCnv i f).key = e.key := rfl
@[simp] theorem Eng.onCnv_tim (e : Eng) (i : Fin 4) (f : CnvRt → CnvRt) : (e.onCnv i f).tim = e.tim := rfl
@[simp] theorem Eng.onCnv_use (e : Eng) (i : Fin 4) (f : CnvRt → CnvRt) : (e.onCnv i f).use = e.use := rfl
@[simp] theorem Eng.onCnv_tap (e : Eng) (i : Fin 4) (f : CnvRt → CnvRt) : (e.onCnv i f).tap = e.tap := rfl
@[simp] theorem Eng.onCnv_rst (e : Eng) (i : Fin 4) (f : CnvRt → CnvRt) : (e.onCnv i f).rst = e.rst := rfl
@[simp] theorem Eng.onCnv_bud (e : Eng) (i : Fin 4) (f : CnvRt → CnvRt) : (e.onCnv i f).bud = e.bud := rfl
@[simp] theorem Eng.onCnv_drains (e : Eng) (i : Fin 4) (f : CnvRt → CnvRt) : (e.onCnv i f).drains = e.drains := rfl
@[simp] theorem Eng.onCnv_drainB (e : Eng) (i : Fin 4) (f : CnvRt → CnvRt) : (e.onCnv i f).drainB = e.drainB := rfl
@[simp] theorem Eng.onCnv_grpReady (e : Eng) (i : Fin 4) (f : CnvRt → CnvRt) : (e.onCnv i f).grpReady = e.grpReady := rfl
@[simp] theorem Eng.onCnv_unmasked (e : Eng) (i : Fin 4) (f : CnvRt → CnvRt) : (e.onCnv i f).unmasked = e.unmasked := rfl
@[simp] theorem Eng.onCnv_msiPend (e : Eng) (i : Fin 4) (f : CnvRt → CnvRt) : (e.onCnv i f).msiPend = e.msiPend := rfl
@[simp] theorem Eng.onCnv_sent (e : Eng) (i : Fin 4) (f : CnvRt → CnvRt) : (e.onCnv i f).sent = e.sent := rfl
@[simp] theorem Eng.onCnv_freeCtr (e : Eng) (i : Fin 4) (f : CnvRt → CnvRt) : (e.onCnv i f).freeCtr = e.freeCtr := rfl
@[simp] theorem Eng.onCnv_get (e : Eng) (i : Fin 4) (f : CnvRt → CnvRt) (p : Nat) (x : Fld) : (e.onCnv i f).get p x = e.get p x := rfl
@[simp] theorem Eng.onCnv_sh (e : Eng) (i : Fin 4) (f : CnvRt → CnvRt) (p : Nat) (x : Fld) : (e.onCnv i f).sh p x = e.sh p x := rfl
@[simp] theorem Eng.onCal_cal (e : Eng) (i : Fin 4) (f : CalRt → CalRt) : (e.onCal i f).cal = upd e.cal i f := rfl
@[simp] theorem Eng.onCal_live (e : Eng) (i : Fin 4) (f : CalRt → CalRt) : (e.onCal i f).live = e.live := rfl
@[simp] theorem Eng.onCal_shad (e : Eng) (i : Fin 4) (f : CalRt → CalRt) : (e.onCal i f).shad = e.shad := rfl
@[simp] theorem Eng.onCal_flt (e : Eng) (i : Fin 4) (f : CalRt → CalRt) : (e.onCal i f).flt = e.flt := rfl
@[simp] theorem Eng.onCal_resp (e : Eng) (i : Fin 4) (f : CalRt → CalRt) : (e.onCal i f).resp = e.resp := rfl
@[simp] theorem Eng.onCal_latch (e : Eng) (i : Fin 4) (f : CalRt → CalRt) : (e.onCal i f).latch = e.latch := rfl
@[simp] theorem Eng.onCal_snap (e : Eng) (i : Fin 4) (f : CalRt → CalRt) : (e.onCal i f).snap = e.snap := rfl
@[simp] theorem Eng.onCal_tixC (e : Eng) (i : Fin 4) (f : CalRt → CalRt) : (e.onCal i f).tixC = e.tixC := rfl
@[simp] theorem Eng.onCal_tixA (e : Eng) (i : Fin 4) (f : CalRt → CalRt) : (e.onCal i f).tixA = e.tixA := rfl
@[simp] theorem Eng.onCal_dev (e : Eng) (i : Fin 4) (f : CalRt → CalRt) : (e.onCal i f).dev = e.dev := rfl
@[simp] theorem Eng.onCal_fused (e : Eng) (i : Fin 4) (f : CalRt → CalRt) : (e.onCal i f).fused = e.fused := rfl
@[simp] theorem Eng.onCal_tb (e : Eng) (i : Fin 4) (f : CalRt → CalRt) : (e.onCal i f).tb = e.tb := rfl
@[simp] theorem Eng.onCal_cyc (e : Eng) (i : Fin 4) (f : CalRt → CalRt) : (e.onCal i f).cyc = e.cyc := rfl
@[simp] theorem Eng.onCal_cnv (e : Eng) (i : Fin 4) (f : CalRt → CalRt) : (e.onCal i f).cnv = e.cnv := rfl
@[simp] theorem Eng.onCal_fch (e : Eng) (i : Fin 4) (f : CalRt → CalRt) : (e.onCal i f).fch = e.fch := rfl
@[simp] theorem Eng.onCal_trg (e : Eng) (i : Fin 4) (f : CalRt → CalRt) : (e.onCal i f).trg = e.trg := rfl
@[simp] theorem Eng.onCal_acq (e : Eng) (i : Fin 4) (f : CalRt → CalRt) : (e.onCal i f).acq = e.acq := rfl
@[simp] theorem Eng.onCal_his (e : Eng) (i : Fin 4) (f : CalRt → CalRt) : (e.onCal i f).his = e.his := rfl
@[simp] theorem Eng.onCal_tileRs (e : Eng) (i : Fin 4) (f : CalRt → CalRt) : (e.onCal i f).tileRs = e.tileRs := rfl
@[simp] theorem Eng.onCal_tileNext (e : Eng) (i : Fin 4) (f : CalRt → CalRt) : (e.onCal i f).tileNext = e.tileNext := rfl
@[simp] theorem Eng.onCal_dmc (e : Eng) (i : Fin 4) (f : CalRt → CalRt) : (e.onCal i f).dmc = e.dmc := rfl
@[simp] theorem Eng.onCal_bucket (e : Eng) (i : Fin 4) (f : CalRt → CalRt) : (e.onCal i f).bucket = e.bucket := rfl
@[simp] theorem Eng.onCal_retrainQ (e : Eng) (i : Fin 4) (f : CalRt → CalRt) : (e.onCal i f).retrainQ = e.retrainQ := rfl
@[simp] theorem Eng.onCal_mapNext (e : Eng) (i : Fin 4) (f : CalRt → CalRt) : (e.onCal i f).mapNext = e.mapNext := rfl
@[simp] theorem Eng.onCal_mapGood (e : Eng) (i : Fin 4) (f : CalRt → CalRt) : (e.onCal i f).mapGood = e.mapGood := rfl
@[simp] theorem Eng.onCal_ckT (e : Eng) (i : Fin 4) (f : CalRt → CalRt) : (e.onCal i f).ckT = e.ckT := rfl
@[simp] theorem Eng.onCal_mapBad (e : Eng) (i : Fin 4) (f : CalRt → CalRt) : (e.onCal i f).mapBad = e.mapBad := rfl
@[simp] theorem Eng.onCal_epoch (e : Eng) (i : Fin 4) (f : CalRt → CalRt) : (e.onCal i f).epoch = e.epoch := rfl
@[simp] theorem Eng.onCal_mcv (e : Eng) (i : Fin 4) (f : CalRt → CalRt) : (e.onCal i f).mcv = e.mcv := rfl
@[simp] theorem Eng.onCal_wcp (e : Eng) (i : Fin 4) (f : CalRt → CalRt) : (e.onCal i f).wcp = e.wcp := rfl
@[simp] theorem Eng.onCal_evr (e : Eng) (i : Fin 4) (f : CalRt → CalRt) : (e.onCal i f).evr = e.evr := rfl
@[simp] theorem Eng.onCal_xpt (e : Eng) (i : Fin 4) (f : CalRt → CalRt) : (e.onCal i f).xpt = e.xpt := rfl
@[simp] theorem Eng.onCal_sfe (e : Eng) (i : Fin 4) (f : CalRt → CalRt) : (e.onCal i f).sfe = e.sfe := rfl
@[simp] theorem Eng.onCal_dmq (e : Eng) (i : Fin 4) (f : CalRt → CalRt) : (e.onCal i f).dmq = e.dmq := rfl
@[simp] theorem Eng.onCal_dma (e : Eng) (i : Fin 4) (f : CalRt → CalRt) : (e.onCal i f).dma = e.dma := rfl
@[simp] theorem Eng.onCal_dmaStop (e : Eng) (i : Fin 4) (f : CalRt → CalRt) : (e.onCal i f).dmaStop = e.dmaStop := rfl
@[simp] theorem Eng.onCal_spiErr (e : Eng) (i : Fin 4) (f : CalRt → CalRt) : (e.onCal i f).spiErr = e.spiErr := rfl
@[simp] theorem Eng.onCal_mln (e : Eng) (i : Fin 4) (f : CalRt → CalRt) : (e.onCal i f).mln = e.mln := rfl
@[simp] theorem Eng.onCal_key (e : Eng) (i : Fin 4) (f : CalRt → CalRt) : (e.onCal i f).key = e.key := rfl
@[simp] theorem Eng.onCal_tim (e : Eng) (i : Fin 4) (f : CalRt → CalRt) : (e.onCal i f).tim = e.tim := rfl
@[simp] theorem Eng.onCal_use (e : Eng) (i : Fin 4) (f : CalRt → CalRt) : (e.onCal i f).use = e.use := rfl
@[simp] theorem Eng.onCal_tap (e : Eng) (i : Fin 4) (f : CalRt → CalRt) : (e.onCal i f).tap = e.tap := rfl
@[simp] theorem Eng.onCal_rst (e : Eng) (i : Fin 4) (f : CalRt → CalRt) : (e.onCal i f).rst = e.rst := rfl
@[simp] theorem Eng.onCal_bud (e : Eng) (i : Fin 4) (f : CalRt → CalRt) : (e.onCal i f).bud = e.bud := rfl
@[simp] theorem Eng.onCal_drains (e : Eng) (i : Fin 4) (f : CalRt → CalRt) : (e.onCal i f).drains = e.drains := rfl
@[simp] theorem Eng.onCal_drainB (e : Eng) (i : Fin 4) (f : CalRt → CalRt) : (e.onCal i f).drainB = e.drainB := rfl
@[simp] theorem Eng.onCal_grpReady (e : Eng) (i : Fin 4) (f : CalRt → CalRt) : (e.onCal i f).grpReady = e.grpReady := rfl
@[simp] theorem Eng.onCal_unmasked (e : Eng) (i : Fin 4) (f : CalRt → CalRt) : (e.onCal i f).unmasked = e.unmasked := rfl
@[simp] theorem Eng.onCal_msiPend (e : Eng) (i : Fin 4) (f : CalRt → CalRt) : (e.onCal i f).msiPend = e.msiPend := rfl
@[simp] theorem Eng.onCal_sent (e : Eng) (i : Fin 4) (f : CalRt → CalRt) : (e.onCal i f).sent = e.sent := rfl
@[simp] theorem Eng.onCal_freeCtr (e : Eng) (i : Fin 4) (f : CalRt → CalRt) : (e.onCal i f).freeCtr = e.freeCtr := rfl
@[simp] theorem Eng.onCal_get (e : Eng) (i : Fin 4) (f : CalRt → CalRt) (p : Nat) (x : Fld) : (e.onCal i f).get p x = e.get p x := rfl
@[simp] theorem Eng.onCal_sh (e : Eng) (i : Fin 4) (f : CalRt → CalRt) (p : Nat) (x : Fld) : (e.onCal i f).sh p x = e.sh p x := rfl
@[simp] theorem Eng.onBud_bud (e : Eng) (f : BudRt → BudRt) : (e.onBud f).bud = f e.bud := rfl
@[simp] theorem Eng.onBud_live (e : Eng) (f : BudRt → BudRt) : (e.onBud f).live = e.live := rfl
@[simp] theorem Eng.onBud_shad (e : Eng) (f : BudRt → BudRt) : (e.onBud f).shad = e.shad := rfl
@[simp] theorem Eng.onBud_flt (e : Eng) (f : BudRt → BudRt) : (e.onBud f).flt = e.flt := rfl
@[simp] theorem Eng.onBud_resp (e : Eng) (f : BudRt → BudRt) : (e.onBud f).resp = e.resp := rfl
@[simp] theorem Eng.onBud_latch (e : Eng) (f : BudRt → BudRt) : (e.onBud f).latch = e.latch := rfl
@[simp] theorem Eng.onBud_snap (e : Eng) (f : BudRt → BudRt) : (e.onBud f).snap = e.snap := rfl
@[simp] theorem Eng.onBud_tixC (e : Eng) (f : BudRt → BudRt) : (e.onBud f).tixC = e.tixC := rfl
@[simp] theorem Eng.onBud_tixA (e : Eng) (f : BudRt → BudRt) : (e.onBud f).tixA = e.tixA := rfl
@[simp] theorem Eng.onBud_dev (e : Eng) (f : BudRt → BudRt) : (e.onBud f).dev = e.dev := rfl
@[simp] theorem Eng.onBud_fused (e : Eng) (f : BudRt → BudRt) : (e.onBud f).fused = e.fused := rfl
@[simp] theorem Eng.onBud_tb (e : Eng) (f : BudRt → BudRt) : (e.onBud f).tb = e.tb := rfl
@[simp] theorem Eng.onBud_cyc (e : Eng) (f : BudRt → BudRt) : (e.onBud f).cyc = e.cyc := rfl
@[simp] theorem Eng.onBud_cnv (e : Eng) (f : BudRt → BudRt) : (e.onBud f).cnv = e.cnv := rfl
@[simp] theorem Eng.onBud_cal (e : Eng) (f : BudRt → BudRt) : (e.onBud f).cal = e.cal := rfl
@[simp] theorem Eng.onBud_fch (e : Eng) (f : BudRt → BudRt) : (e.onBud f).fch = e.fch := rfl
@[simp] theorem Eng.onBud_trg (e : Eng) (f : BudRt → BudRt) : (e.onBud f).trg = e.trg := rfl
@[simp] theorem Eng.onBud_acq (e : Eng) (f : BudRt → BudRt) : (e.onBud f).acq = e.acq := rfl
@[simp] theorem Eng.onBud_his (e : Eng) (f : BudRt → BudRt) : (e.onBud f).his = e.his := rfl
@[simp] theorem Eng.onBud_tileRs (e : Eng) (f : BudRt → BudRt) : (e.onBud f).tileRs = e.tileRs := rfl
@[simp] theorem Eng.onBud_tileNext (e : Eng) (f : BudRt → BudRt) : (e.onBud f).tileNext = e.tileNext := rfl
@[simp] theorem Eng.onBud_dmc (e : Eng) (f : BudRt → BudRt) : (e.onBud f).dmc = e.dmc := rfl
@[simp] theorem Eng.onBud_bucket (e : Eng) (f : BudRt → BudRt) : (e.onBud f).bucket = e.bucket := rfl
@[simp] theorem Eng.onBud_retrainQ (e : Eng) (f : BudRt → BudRt) : (e.onBud f).retrainQ = e.retrainQ := rfl
@[simp] theorem Eng.onBud_mapNext (e : Eng) (f : BudRt → BudRt) : (e.onBud f).mapNext = e.mapNext := rfl
@[simp] theorem Eng.onBud_mapGood (e : Eng) (f : BudRt → BudRt) : (e.onBud f).mapGood = e.mapGood := rfl
@[simp] theorem Eng.onBud_ckT (e : Eng) (f : BudRt → BudRt) : (e.onBud f).ckT = e.ckT := rfl
@[simp] theorem Eng.onBud_mapBad (e : Eng) (f : BudRt → BudRt) : (e.onBud f).mapBad = e.mapBad := rfl
@[simp] theorem Eng.onBud_epoch (e : Eng) (f : BudRt → BudRt) : (e.onBud f).epoch = e.epoch := rfl
@[simp] theorem Eng.onBud_mcv (e : Eng) (f : BudRt → BudRt) : (e.onBud f).mcv = e.mcv := rfl
@[simp] theorem Eng.onBud_wcp (e : Eng) (f : BudRt → BudRt) : (e.onBud f).wcp = e.wcp := rfl
@[simp] theorem Eng.onBud_evr (e : Eng) (f : BudRt → BudRt) : (e.onBud f).evr = e.evr := rfl
@[simp] theorem Eng.onBud_xpt (e : Eng) (f : BudRt → BudRt) : (e.onBud f).xpt = e.xpt := rfl
@[simp] theorem Eng.onBud_sfe (e : Eng) (f : BudRt → BudRt) : (e.onBud f).sfe = e.sfe := rfl
@[simp] theorem Eng.onBud_dmq (e : Eng) (f : BudRt → BudRt) : (e.onBud f).dmq = e.dmq := rfl
@[simp] theorem Eng.onBud_dma (e : Eng) (f : BudRt → BudRt) : (e.onBud f).dma = e.dma := rfl
@[simp] theorem Eng.onBud_dmaStop (e : Eng) (f : BudRt → BudRt) : (e.onBud f).dmaStop = e.dmaStop := rfl
@[simp] theorem Eng.onBud_spiErr (e : Eng) (f : BudRt → BudRt) : (e.onBud f).spiErr = e.spiErr := rfl
@[simp] theorem Eng.onBud_mln (e : Eng) (f : BudRt → BudRt) : (e.onBud f).mln = e.mln := rfl
@[simp] theorem Eng.onBud_key (e : Eng) (f : BudRt → BudRt) : (e.onBud f).key = e.key := rfl
@[simp] theorem Eng.onBud_tim (e : Eng) (f : BudRt → BudRt) : (e.onBud f).tim = e.tim := rfl
@[simp] theorem Eng.onBud_use (e : Eng) (f : BudRt → BudRt) : (e.onBud f).use = e.use := rfl
@[simp] theorem Eng.onBud_tap (e : Eng) (f : BudRt → BudRt) : (e.onBud f).tap = e.tap := rfl
@[simp] theorem Eng.onBud_rst (e : Eng) (f : BudRt → BudRt) : (e.onBud f).rst = e.rst := rfl
@[simp] theorem Eng.onBud_drains (e : Eng) (f : BudRt → BudRt) : (e.onBud f).drains = e.drains := rfl
@[simp] theorem Eng.onBud_drainB (e : Eng) (f : BudRt → BudRt) : (e.onBud f).drainB = e.drainB := rfl
@[simp] theorem Eng.onBud_grpReady (e : Eng) (f : BudRt → BudRt) : (e.onBud f).grpReady = e.grpReady := rfl
@[simp] theorem Eng.onBud_unmasked (e : Eng) (f : BudRt → BudRt) : (e.onBud f).unmasked = e.unmasked := rfl
@[simp] theorem Eng.onBud_msiPend (e : Eng) (f : BudRt → BudRt) : (e.onBud f).msiPend = e.msiPend := rfl
@[simp] theorem Eng.onBud_sent (e : Eng) (f : BudRt → BudRt) : (e.onBud f).sent = e.sent := rfl
@[simp] theorem Eng.onBud_freeCtr (e : Eng) (f : BudRt → BudRt) : (e.onBud f).freeCtr = e.freeCtr := rfl
@[simp] theorem Eng.onBud_get (e : Eng) (f : BudRt → BudRt) (p : Nat) (x : Fld) : (e.onBud f).get p x = e.get p x := rfl
@[simp] theorem Eng.onBud_sh (e : Eng) (f : BudRt → BudRt) (p : Nat) (x : Fld) : (e.onBud f).sh p x = e.sh p x := rfl
@[simp] theorem Eng.onDmc_dmc (e : Eng) (i : Fin 8) (f : DmcRt → DmcRt) : (e.onDmc i f).dmc = upd e.dmc i f := rfl
@[simp] theorem Eng.onDmc_live (e : Eng) (i : Fin 8) (f : DmcRt → DmcRt) : (e.onDmc i f).live = e.live := rfl
@[simp] theorem Eng.onDmc_shad (e : Eng) (i : Fin 8) (f : DmcRt → DmcRt) : (e.onDmc i f).shad = e.shad := rfl
@[simp] theorem Eng.onDmc_flt (e : Eng) (i : Fin 8) (f : DmcRt → DmcRt) : (e.onDmc i f).flt = e.flt := rfl
@[simp] theorem Eng.onDmc_resp (e : Eng) (i : Fin 8) (f : DmcRt → DmcRt) : (e.onDmc i f).resp = e.resp := rfl
@[simp] theorem Eng.onDmc_latch (e : Eng) (i : Fin 8) (f : DmcRt → DmcRt) : (e.onDmc i f).latch = e.latch := rfl
@[simp] theorem Eng.onDmc_snap (e : Eng) (i : Fin 8) (f : DmcRt → DmcRt) : (e.onDmc i f).snap = e.snap := rfl
@[simp] theorem Eng.onDmc_tixC (e : Eng) (i : Fin 8) (f : DmcRt → DmcRt) : (e.onDmc i f).tixC = e.tixC := rfl
@[simp] theorem Eng.onDmc_tixA (e : Eng) (i : Fin 8) (f : DmcRt → DmcRt) : (e.onDmc i f).tixA = e.tixA := rfl
@[simp] theorem Eng.onDmc_dev (e : Eng) (i : Fin 8) (f : DmcRt → DmcRt) : (e.onDmc i f).dev = e.dev := rfl
@[simp] theorem Eng.onDmc_fused (e : Eng) (i : Fin 8) (f : DmcRt → DmcRt) : (e.onDmc i f).fused = e.fused := rfl
@[simp] theorem Eng.onDmc_tb (e : Eng) (i : Fin 8) (f : DmcRt → DmcRt) : (e.onDmc i f).tb = e.tb := rfl
@[simp] theorem Eng.onDmc_cyc (e : Eng) (i : Fin 8) (f : DmcRt → DmcRt) : (e.onDmc i f).cyc = e.cyc := rfl
@[simp] theorem Eng.onDmc_cnv (e : Eng) (i : Fin 8) (f : DmcRt → DmcRt) : (e.onDmc i f).cnv = e.cnv := rfl
@[simp] theorem Eng.onDmc_cal (e : Eng) (i : Fin 8) (f : DmcRt → DmcRt) : (e.onDmc i f).cal = e.cal := rfl
@[simp] theorem Eng.onDmc_fch (e : Eng) (i : Fin 8) (f : DmcRt → DmcRt) : (e.onDmc i f).fch = e.fch := rfl
@[simp] theorem Eng.onDmc_trg (e : Eng) (i : Fin 8) (f : DmcRt → DmcRt) : (e.onDmc i f).trg = e.trg := rfl
@[simp] theorem Eng.onDmc_acq (e : Eng) (i : Fin 8) (f : DmcRt → DmcRt) : (e.onDmc i f).acq = e.acq := rfl
@[simp] theorem Eng.onDmc_his (e : Eng) (i : Fin 8) (f : DmcRt → DmcRt) : (e.onDmc i f).his = e.his := rfl
@[simp] theorem Eng.onDmc_tileRs (e : Eng) (i : Fin 8) (f : DmcRt → DmcRt) : (e.onDmc i f).tileRs = e.tileRs := rfl
@[simp] theorem Eng.onDmc_tileNext (e : Eng) (i : Fin 8) (f : DmcRt → DmcRt) : (e.onDmc i f).tileNext = e.tileNext := rfl
@[simp] theorem Eng.onDmc_bucket (e : Eng) (i : Fin 8) (f : DmcRt → DmcRt) : (e.onDmc i f).bucket = e.bucket := rfl
@[simp] theorem Eng.onDmc_retrainQ (e : Eng) (i : Fin 8) (f : DmcRt → DmcRt) : (e.onDmc i f).retrainQ = e.retrainQ := rfl
@[simp] theorem Eng.onDmc_mapNext (e : Eng) (i : Fin 8) (f : DmcRt → DmcRt) : (e.onDmc i f).mapNext = e.mapNext := rfl
@[simp] theorem Eng.onDmc_mapGood (e : Eng) (i : Fin 8) (f : DmcRt → DmcRt) : (e.onDmc i f).mapGood = e.mapGood := rfl
@[simp] theorem Eng.onDmc_ckT (e : Eng) (i : Fin 8) (f : DmcRt → DmcRt) : (e.onDmc i f).ckT = e.ckT := rfl
@[simp] theorem Eng.onDmc_mapBad (e : Eng) (i : Fin 8) (f : DmcRt → DmcRt) : (e.onDmc i f).mapBad = e.mapBad := rfl
@[simp] theorem Eng.onDmc_epoch (e : Eng) (i : Fin 8) (f : DmcRt → DmcRt) : (e.onDmc i f).epoch = e.epoch := rfl
@[simp] theorem Eng.onDmc_mcv (e : Eng) (i : Fin 8) (f : DmcRt → DmcRt) : (e.onDmc i f).mcv = e.mcv := rfl
@[simp] theorem Eng.onDmc_wcp (e : Eng) (i : Fin 8) (f : DmcRt → DmcRt) : (e.onDmc i f).wcp = e.wcp := rfl
@[simp] theorem Eng.onDmc_evr (e : Eng) (i : Fin 8) (f : DmcRt → DmcRt) : (e.onDmc i f).evr = e.evr := rfl
@[simp] theorem Eng.onDmc_xpt (e : Eng) (i : Fin 8) (f : DmcRt → DmcRt) : (e.onDmc i f).xpt = e.xpt := rfl
@[simp] theorem Eng.onDmc_sfe (e : Eng) (i : Fin 8) (f : DmcRt → DmcRt) : (e.onDmc i f).sfe = e.sfe := rfl
@[simp] theorem Eng.onDmc_dmq (e : Eng) (i : Fin 8) (f : DmcRt → DmcRt) : (e.onDmc i f).dmq = e.dmq := rfl
@[simp] theorem Eng.onDmc_dma (e : Eng) (i : Fin 8) (f : DmcRt → DmcRt) : (e.onDmc i f).dma = e.dma := rfl
@[simp] theorem Eng.onDmc_dmaStop (e : Eng) (i : Fin 8) (f : DmcRt → DmcRt) : (e.onDmc i f).dmaStop = e.dmaStop := rfl
@[simp] theorem Eng.onDmc_spiErr (e : Eng) (i : Fin 8) (f : DmcRt → DmcRt) : (e.onDmc i f).spiErr = e.spiErr := rfl
@[simp] theorem Eng.onDmc_mln (e : Eng) (i : Fin 8) (f : DmcRt → DmcRt) : (e.onDmc i f).mln = e.mln := rfl
@[simp] theorem Eng.onDmc_key (e : Eng) (i : Fin 8) (f : DmcRt → DmcRt) : (e.onDmc i f).key = e.key := rfl
@[simp] theorem Eng.onDmc_tim (e : Eng) (i : Fin 8) (f : DmcRt → DmcRt) : (e.onDmc i f).tim = e.tim := rfl
@[simp] theorem Eng.onDmc_use (e : Eng) (i : Fin 8) (f : DmcRt → DmcRt) : (e.onDmc i f).use = e.use := rfl
@[simp] theorem Eng.onDmc_tap (e : Eng) (i : Fin 8) (f : DmcRt → DmcRt) : (e.onDmc i f).tap = e.tap := rfl
@[simp] theorem Eng.onDmc_rst (e : Eng) (i : Fin 8) (f : DmcRt → DmcRt) : (e.onDmc i f).rst = e.rst := rfl
@[simp] theorem Eng.onDmc_bud (e : Eng) (i : Fin 8) (f : DmcRt → DmcRt) : (e.onDmc i f).bud = e.bud := rfl
@[simp] theorem Eng.onDmc_drains (e : Eng) (i : Fin 8) (f : DmcRt → DmcRt) : (e.onDmc i f).drains = e.drains := rfl
@[simp] theorem Eng.onDmc_drainB (e : Eng) (i : Fin 8) (f : DmcRt → DmcRt) : (e.onDmc i f).drainB = e.drainB := rfl
@[simp] theorem Eng.onDmc_grpReady (e : Eng) (i : Fin 8) (f : DmcRt → DmcRt) : (e.onDmc i f).grpReady = e.grpReady := rfl
@[simp] theorem Eng.onDmc_unmasked (e : Eng) (i : Fin 8) (f : DmcRt → DmcRt) : (e.onDmc i f).unmasked = e.unmasked := rfl
@[simp] theorem Eng.onDmc_msiPend (e : Eng) (i : Fin 8) (f : DmcRt → DmcRt) : (e.onDmc i f).msiPend = e.msiPend := rfl
@[simp] theorem Eng.onDmc_sent (e : Eng) (i : Fin 8) (f : DmcRt → DmcRt) : (e.onDmc i f).sent = e.sent := rfl
@[simp] theorem Eng.onDmc_freeCtr (e : Eng) (i : Fin 8) (f : DmcRt → DmcRt) : (e.onDmc i f).freeCtr = e.freeCtr := rfl
@[simp] theorem Eng.onDmc_get (e : Eng) (i : Fin 8) (f : DmcRt → DmcRt) (p : Nat) (x : Fld) : (e.onDmc i f).get p x = e.get p x := rfl
@[simp] theorem Eng.onDmc_sh (e : Eng) (i : Fin 8) (f : DmcRt → DmcRt) (p : Nat) (x : Fld) : (e.onDmc i f).sh p x = e.sh p x := rfl
@[simp] theorem Eng.onMcv_mcv (e : Eng) (f : McvRt → McvRt) : (e.onMcv f).mcv = f e.mcv := rfl
@[simp] theorem Eng.onMcv_live (e : Eng) (f : McvRt → McvRt) : (e.onMcv f).live = e.live := rfl
@[simp] theorem Eng.onMcv_shad (e : Eng) (f : McvRt → McvRt) : (e.onMcv f).shad = e.shad := rfl
@[simp] theorem Eng.onMcv_flt (e : Eng) (f : McvRt → McvRt) : (e.onMcv f).flt = e.flt := rfl
@[simp] theorem Eng.onMcv_resp (e : Eng) (f : McvRt → McvRt) : (e.onMcv f).resp = e.resp := rfl
@[simp] theorem Eng.onMcv_latch (e : Eng) (f : McvRt → McvRt) : (e.onMcv f).latch = e.latch := rfl
@[simp] theorem Eng.onMcv_snap (e : Eng) (f : McvRt → McvRt) : (e.onMcv f).snap = e.snap := rfl
@[simp] theorem Eng.onMcv_tixC (e : Eng) (f : McvRt → McvRt) : (e.onMcv f).tixC = e.tixC := rfl
@[simp] theorem Eng.onMcv_tixA (e : Eng) (f : McvRt → McvRt) : (e.onMcv f).tixA = e.tixA := rfl
@[simp] theorem Eng.onMcv_dev (e : Eng) (f : McvRt → McvRt) : (e.onMcv f).dev = e.dev := rfl
@[simp] theorem Eng.onMcv_fused (e : Eng) (f : McvRt → McvRt) : (e.onMcv f).fused = e.fused := rfl
@[simp] theorem Eng.onMcv_tb (e : Eng) (f : McvRt → McvRt) : (e.onMcv f).tb = e.tb := rfl
@[simp] theorem Eng.onMcv_cyc (e : Eng) (f : McvRt → McvRt) : (e.onMcv f).cyc = e.cyc := rfl
@[simp] theorem Eng.onMcv_cnv (e : Eng) (f : McvRt → McvRt) : (e.onMcv f).cnv = e.cnv := rfl
@[simp] theorem Eng.onMcv_cal (e : Eng) (f : McvRt → McvRt) : (e.onMcv f).cal = e.cal := rfl
@[simp] theorem Eng.onMcv_fch (e : Eng) (f : McvRt → McvRt) : (e.onMcv f).fch = e.fch := rfl
@[simp] theorem Eng.onMcv_trg (e : Eng) (f : McvRt → McvRt) : (e.onMcv f).trg = e.trg := rfl
@[simp] theorem Eng.onMcv_acq (e : Eng) (f : McvRt → McvRt) : (e.onMcv f).acq = e.acq := rfl
@[simp] theorem Eng.onMcv_his (e : Eng) (f : McvRt → McvRt) : (e.onMcv f).his = e.his := rfl
@[simp] theorem Eng.onMcv_tileRs (e : Eng) (f : McvRt → McvRt) : (e.onMcv f).tileRs = e.tileRs := rfl
@[simp] theorem Eng.onMcv_tileNext (e : Eng) (f : McvRt → McvRt) : (e.onMcv f).tileNext = e.tileNext := rfl
@[simp] theorem Eng.onMcv_dmc (e : Eng) (f : McvRt → McvRt) : (e.onMcv f).dmc = e.dmc := rfl
@[simp] theorem Eng.onMcv_bucket (e : Eng) (f : McvRt → McvRt) : (e.onMcv f).bucket = e.bucket := rfl
@[simp] theorem Eng.onMcv_retrainQ (e : Eng) (f : McvRt → McvRt) : (e.onMcv f).retrainQ = e.retrainQ := rfl
@[simp] theorem Eng.onMcv_mapNext (e : Eng) (f : McvRt → McvRt) : (e.onMcv f).mapNext = e.mapNext := rfl
@[simp] theorem Eng.onMcv_mapGood (e : Eng) (f : McvRt → McvRt) : (e.onMcv f).mapGood = e.mapGood := rfl
@[simp] theorem Eng.onMcv_ckT (e : Eng) (f : McvRt → McvRt) : (e.onMcv f).ckT = e.ckT := rfl
@[simp] theorem Eng.onMcv_mapBad (e : Eng) (f : McvRt → McvRt) : (e.onMcv f).mapBad = e.mapBad := rfl
@[simp] theorem Eng.onMcv_epoch (e : Eng) (f : McvRt → McvRt) : (e.onMcv f).epoch = e.epoch := rfl
@[simp] theorem Eng.onMcv_wcp (e : Eng) (f : McvRt → McvRt) : (e.onMcv f).wcp = e.wcp := rfl
@[simp] theorem Eng.onMcv_evr (e : Eng) (f : McvRt → McvRt) : (e.onMcv f).evr = e.evr := rfl
@[simp] theorem Eng.onMcv_xpt (e : Eng) (f : McvRt → McvRt) : (e.onMcv f).xpt = e.xpt := rfl
@[simp] theorem Eng.onMcv_sfe (e : Eng) (f : McvRt → McvRt) : (e.onMcv f).sfe = e.sfe := rfl
@[simp] theorem Eng.onMcv_dmq (e : Eng) (f : McvRt → McvRt) : (e.onMcv f).dmq = e.dmq := rfl
@[simp] theorem Eng.onMcv_dma (e : Eng) (f : McvRt → McvRt) : (e.onMcv f).dma = e.dma := rfl
@[simp] theorem Eng.onMcv_dmaStop (e : Eng) (f : McvRt → McvRt) : (e.onMcv f).dmaStop = e.dmaStop := rfl
@[simp] theorem Eng.onMcv_spiErr (e : Eng) (f : McvRt → McvRt) : (e.onMcv f).spiErr = e.spiErr := rfl
@[simp] theorem Eng.onMcv_mln (e : Eng) (f : McvRt → McvRt) : (e.onMcv f).mln = e.mln := rfl
@[simp] theorem Eng.onMcv_key (e : Eng) (f : McvRt → McvRt) : (e.onMcv f).key = e.key := rfl
@[simp] theorem Eng.onMcv_tim (e : Eng) (f : McvRt → McvRt) : (e.onMcv f).tim = e.tim := rfl
@[simp] theorem Eng.onMcv_use (e : Eng) (f : McvRt → McvRt) : (e.onMcv f).use = e.use := rfl
@[simp] theorem Eng.onMcv_tap (e : Eng) (f : McvRt → McvRt) : (e.onMcv f).tap = e.tap := rfl
@[simp] theorem Eng.onMcv_rst (e : Eng) (f : McvRt → McvRt) : (e.onMcv f).rst = e.rst := rfl
@[simp] theorem Eng.onMcv_bud (e : Eng) (f : McvRt → McvRt) : (e.onMcv f).bud = e.bud := rfl
@[simp] theorem Eng.onMcv_drains (e : Eng) (f : McvRt → McvRt) : (e.onMcv f).drains = e.drains := rfl
@[simp] theorem Eng.onMcv_drainB (e : Eng) (f : McvRt → McvRt) : (e.onMcv f).drainB = e.drainB := rfl
@[simp] theorem Eng.onMcv_grpReady (e : Eng) (f : McvRt → McvRt) : (e.onMcv f).grpReady = e.grpReady := rfl
@[simp] theorem Eng.onMcv_unmasked (e : Eng) (f : McvRt → McvRt) : (e.onMcv f).unmasked = e.unmasked := rfl
@[simp] theorem Eng.onMcv_msiPend (e : Eng) (f : McvRt → McvRt) : (e.onMcv f).msiPend = e.msiPend := rfl
@[simp] theorem Eng.onMcv_sent (e : Eng) (f : McvRt → McvRt) : (e.onMcv f).sent = e.sent := rfl
@[simp] theorem Eng.onMcv_freeCtr (e : Eng) (f : McvRt → McvRt) : (e.onMcv f).freeCtr = e.freeCtr := rfl
@[simp] theorem Eng.onMcv_get (e : Eng) (f : McvRt → McvRt) (p : Nat) (x : Fld) : (e.onMcv f).get p x = e.get p x := rfl
@[simp] theorem Eng.onMcv_sh (e : Eng) (f : McvRt → McvRt) (p : Nat) (x : Fld) : (e.onMcv f).sh p x = e.sh p x := rfl
@[simp] theorem Eng.onWcp_wcp (e : Eng) (i : Fin 8) (f : WcpRt → WcpRt) : (e.onWcp i f).wcp = upd e.wcp i f := rfl
@[simp] theorem Eng.onWcp_live (e : Eng) (i : Fin 8) (f : WcpRt → WcpRt) : (e.onWcp i f).live = e.live := rfl
@[simp] theorem Eng.onWcp_shad (e : Eng) (i : Fin 8) (f : WcpRt → WcpRt) : (e.onWcp i f).shad = e.shad := rfl
@[simp] theorem Eng.onWcp_flt (e : Eng) (i : Fin 8) (f : WcpRt → WcpRt) : (e.onWcp i f).flt = e.flt := rfl
@[simp] theorem Eng.onWcp_resp (e : Eng) (i : Fin 8) (f : WcpRt → WcpRt) : (e.onWcp i f).resp = e.resp := rfl
@[simp] theorem Eng.onWcp_latch (e : Eng) (i : Fin 8) (f : WcpRt → WcpRt) : (e.onWcp i f).latch = e.latch := rfl
@[simp] theorem Eng.onWcp_snap (e : Eng) (i : Fin 8) (f : WcpRt → WcpRt) : (e.onWcp i f).snap = e.snap := rfl
@[simp] theorem Eng.onWcp_tixC (e : Eng) (i : Fin 8) (f : WcpRt → WcpRt) : (e.onWcp i f).tixC = e.tixC := rfl
@[simp] theorem Eng.onWcp_tixA (e : Eng) (i : Fin 8) (f : WcpRt → WcpRt) : (e.onWcp i f).tixA = e.tixA := rfl
@[simp] theorem Eng.onWcp_dev (e : Eng) (i : Fin 8) (f : WcpRt → WcpRt) : (e.onWcp i f).dev = e.dev := rfl
@[simp] theorem Eng.onWcp_fused (e : Eng) (i : Fin 8) (f : WcpRt → WcpRt) : (e.onWcp i f).fused = e.fused := rfl
@[simp] theorem Eng.onWcp_tb (e : Eng) (i : Fin 8) (f : WcpRt → WcpRt) : (e.onWcp i f).tb = e.tb := rfl
@[simp] theorem Eng.onWcp_cyc (e : Eng) (i : Fin 8) (f : WcpRt → WcpRt) : (e.onWcp i f).cyc = e.cyc := rfl
@[simp] theorem Eng.onWcp_cnv (e : Eng) (i : Fin 8) (f : WcpRt → WcpRt) : (e.onWcp i f).cnv = e.cnv := rfl
@[simp] theorem Eng.onWcp_cal (e : Eng) (i : Fin 8) (f : WcpRt → WcpRt) : (e.onWcp i f).cal = e.cal := rfl
@[simp] theorem Eng.onWcp_fch (e : Eng) (i : Fin 8) (f : WcpRt → WcpRt) : (e.onWcp i f).fch = e.fch := rfl
@[simp] theorem Eng.onWcp_trg (e : Eng) (i : Fin 8) (f : WcpRt → WcpRt) : (e.onWcp i f).trg = e.trg := rfl
@[simp] theorem Eng.onWcp_acq (e : Eng) (i : Fin 8) (f : WcpRt → WcpRt) : (e.onWcp i f).acq = e.acq := rfl
@[simp] theorem Eng.onWcp_his (e : Eng) (i : Fin 8) (f : WcpRt → WcpRt) : (e.onWcp i f).his = e.his := rfl
@[simp] theorem Eng.onWcp_tileRs (e : Eng) (i : Fin 8) (f : WcpRt → WcpRt) : (e.onWcp i f).tileRs = e.tileRs := rfl
@[simp] theorem Eng.onWcp_tileNext (e : Eng) (i : Fin 8) (f : WcpRt → WcpRt) : (e.onWcp i f).tileNext = e.tileNext := rfl
@[simp] theorem Eng.onWcp_dmc (e : Eng) (i : Fin 8) (f : WcpRt → WcpRt) : (e.onWcp i f).dmc = e.dmc := rfl
@[simp] theorem Eng.onWcp_bucket (e : Eng) (i : Fin 8) (f : WcpRt → WcpRt) : (e.onWcp i f).bucket = e.bucket := rfl
@[simp] theorem Eng.onWcp_retrainQ (e : Eng) (i : Fin 8) (f : WcpRt → WcpRt) : (e.onWcp i f).retrainQ = e.retrainQ := rfl
@[simp] theorem Eng.onWcp_mapNext (e : Eng) (i : Fin 8) (f : WcpRt → WcpRt) : (e.onWcp i f).mapNext = e.mapNext := rfl
@[simp] theorem Eng.onWcp_mapGood (e : Eng) (i : Fin 8) (f : WcpRt → WcpRt) : (e.onWcp i f).mapGood = e.mapGood := rfl
@[simp] theorem Eng.onWcp_ckT (e : Eng) (i : Fin 8) (f : WcpRt → WcpRt) : (e.onWcp i f).ckT = e.ckT := rfl
@[simp] theorem Eng.onWcp_mapBad (e : Eng) (i : Fin 8) (f : WcpRt → WcpRt) : (e.onWcp i f).mapBad = e.mapBad := rfl
@[simp] theorem Eng.onWcp_epoch (e : Eng) (i : Fin 8) (f : WcpRt → WcpRt) : (e.onWcp i f).epoch = e.epoch := rfl
@[simp] theorem Eng.onWcp_mcv (e : Eng) (i : Fin 8) (f : WcpRt → WcpRt) : (e.onWcp i f).mcv = e.mcv := rfl
@[simp] theorem Eng.onWcp_evr (e : Eng) (i : Fin 8) (f : WcpRt → WcpRt) : (e.onWcp i f).evr = e.evr := rfl
@[simp] theorem Eng.onWcp_xpt (e : Eng) (i : Fin 8) (f : WcpRt → WcpRt) : (e.onWcp i f).xpt = e.xpt := rfl
@[simp] theorem Eng.onWcp_sfe (e : Eng) (i : Fin 8) (f : WcpRt → WcpRt) : (e.onWcp i f).sfe = e.sfe := rfl
@[simp] theorem Eng.onWcp_dmq (e : Eng) (i : Fin 8) (f : WcpRt → WcpRt) : (e.onWcp i f).dmq = e.dmq := rfl
@[simp] theorem Eng.onWcp_dma (e : Eng) (i : Fin 8) (f : WcpRt → WcpRt) : (e.onWcp i f).dma = e.dma := rfl
@[simp] theorem Eng.onWcp_dmaStop (e : Eng) (i : Fin 8) (f : WcpRt → WcpRt) : (e.onWcp i f).dmaStop = e.dmaStop := rfl
@[simp] theorem Eng.onWcp_spiErr (e : Eng) (i : Fin 8) (f : WcpRt → WcpRt) : (e.onWcp i f).spiErr = e.spiErr := rfl
@[simp] theorem Eng.onWcp_mln (e : Eng) (i : Fin 8) (f : WcpRt → WcpRt) : (e.onWcp i f).mln = e.mln := rfl
@[simp] theorem Eng.onWcp_key (e : Eng) (i : Fin 8) (f : WcpRt → WcpRt) : (e.onWcp i f).key = e.key := rfl
@[simp] theorem Eng.onWcp_tim (e : Eng) (i : Fin 8) (f : WcpRt → WcpRt) : (e.onWcp i f).tim = e.tim := rfl
@[simp] theorem Eng.onWcp_use (e : Eng) (i : Fin 8) (f : WcpRt → WcpRt) : (e.onWcp i f).use = e.use := rfl
@[simp] theorem Eng.onWcp_tap (e : Eng) (i : Fin 8) (f : WcpRt → WcpRt) : (e.onWcp i f).tap = e.tap := rfl
@[simp] theorem Eng.onWcp_rst (e : Eng) (i : Fin 8) (f : WcpRt → WcpRt) : (e.onWcp i f).rst = e.rst := rfl
@[simp] theorem Eng.onWcp_bud (e : Eng) (i : Fin 8) (f : WcpRt → WcpRt) : (e.onWcp i f).bud = e.bud := rfl
@[simp] theorem Eng.onWcp_drains (e : Eng) (i : Fin 8) (f : WcpRt → WcpRt) : (e.onWcp i f).drains = e.drains := rfl
@[simp] theorem Eng.onWcp_drainB (e : Eng) (i : Fin 8) (f : WcpRt → WcpRt) : (e.onWcp i f).drainB = e.drainB := rfl
@[simp] theorem Eng.onWcp_grpReady (e : Eng) (i : Fin 8) (f : WcpRt → WcpRt) : (e.onWcp i f).grpReady = e.grpReady := rfl
@[simp] theorem Eng.onWcp_unmasked (e : Eng) (i : Fin 8) (f : WcpRt → WcpRt) : (e.onWcp i f).unmasked = e.unmasked := rfl
@[simp] theorem Eng.onWcp_msiPend (e : Eng) (i : Fin 8) (f : WcpRt → WcpRt) : (e.onWcp i f).msiPend = e.msiPend := rfl
@[simp] theorem Eng.onWcp_sent (e : Eng) (i : Fin 8) (f : WcpRt → WcpRt) : (e.onWcp i f).sent = e.sent := rfl
@[simp] theorem Eng.onWcp_freeCtr (e : Eng) (i : Fin 8) (f : WcpRt → WcpRt) : (e.onWcp i f).freeCtr = e.freeCtr := rfl
@[simp] theorem Eng.onWcp_get (e : Eng) (i : Fin 8) (f : WcpRt → WcpRt) (p : Nat) (x : Fld) : (e.onWcp i f).get p x = e.get p x := rfl
@[simp] theorem Eng.onWcp_sh (e : Eng) (i : Fin 8) (f : WcpRt → WcpRt) (p : Nat) (x : Fld) : (e.onWcp i f).sh p x = e.sh p x := rfl
@[simp] theorem Eng.onRst_rst (e : Eng) (f : RstRt → RstRt) : (e.onRst f).rst = f e.rst := rfl
@[simp] theorem Eng.onRst_live (e : Eng) (f : RstRt → RstRt) : (e.onRst f).live = e.live := rfl
@[simp] theorem Eng.onRst_shad (e : Eng) (f : RstRt → RstRt) : (e.onRst f).shad = e.shad := rfl
@[simp] theorem Eng.onRst_flt (e : Eng) (f : RstRt → RstRt) : (e.onRst f).flt = e.flt := rfl
@[simp] theorem Eng.onRst_resp (e : Eng) (f : RstRt → RstRt) : (e.onRst f).resp = e.resp := rfl
@[simp] theorem Eng.onRst_latch (e : Eng) (f : RstRt → RstRt) : (e.onRst f).latch = e.latch := rfl
@[simp] theorem Eng.onRst_snap (e : Eng) (f : RstRt → RstRt) : (e.onRst f).snap = e.snap := rfl
@[simp] theorem Eng.onRst_tixC (e : Eng) (f : RstRt → RstRt) : (e.onRst f).tixC = e.tixC := rfl
@[simp] theorem Eng.onRst_tixA (e : Eng) (f : RstRt → RstRt) : (e.onRst f).tixA = e.tixA := rfl
@[simp] theorem Eng.onRst_dev (e : Eng) (f : RstRt → RstRt) : (e.onRst f).dev = e.dev := rfl
@[simp] theorem Eng.onRst_fused (e : Eng) (f : RstRt → RstRt) : (e.onRst f).fused = e.fused := rfl
@[simp] theorem Eng.onRst_tb (e : Eng) (f : RstRt → RstRt) : (e.onRst f).tb = e.tb := rfl
@[simp] theorem Eng.onRst_cyc (e : Eng) (f : RstRt → RstRt) : (e.onRst f).cyc = e.cyc := rfl
@[simp] theorem Eng.onRst_cnv (e : Eng) (f : RstRt → RstRt) : (e.onRst f).cnv = e.cnv := rfl
@[simp] theorem Eng.onRst_cal (e : Eng) (f : RstRt → RstRt) : (e.onRst f).cal = e.cal := rfl
@[simp] theorem Eng.onRst_fch (e : Eng) (f : RstRt → RstRt) : (e.onRst f).fch = e.fch := rfl
@[simp] theorem Eng.onRst_trg (e : Eng) (f : RstRt → RstRt) : (e.onRst f).trg = e.trg := rfl
@[simp] theorem Eng.onRst_acq (e : Eng) (f : RstRt → RstRt) : (e.onRst f).acq = e.acq := rfl
@[simp] theorem Eng.onRst_his (e : Eng) (f : RstRt → RstRt) : (e.onRst f).his = e.his := rfl
@[simp] theorem Eng.onRst_tileRs (e : Eng) (f : RstRt → RstRt) : (e.onRst f).tileRs = e.tileRs := rfl
@[simp] theorem Eng.onRst_tileNext (e : Eng) (f : RstRt → RstRt) : (e.onRst f).tileNext = e.tileNext := rfl
@[simp] theorem Eng.onRst_dmc (e : Eng) (f : RstRt → RstRt) : (e.onRst f).dmc = e.dmc := rfl
@[simp] theorem Eng.onRst_bucket (e : Eng) (f : RstRt → RstRt) : (e.onRst f).bucket = e.bucket := rfl
@[simp] theorem Eng.onRst_retrainQ (e : Eng) (f : RstRt → RstRt) : (e.onRst f).retrainQ = e.retrainQ := rfl
@[simp] theorem Eng.onRst_mapNext (e : Eng) (f : RstRt → RstRt) : (e.onRst f).mapNext = e.mapNext := rfl
@[simp] theorem Eng.onRst_mapGood (e : Eng) (f : RstRt → RstRt) : (e.onRst f).mapGood = e.mapGood := rfl
@[simp] theorem Eng.onRst_ckT (e : Eng) (f : RstRt → RstRt) : (e.onRst f).ckT = e.ckT := rfl
@[simp] theorem Eng.onRst_mapBad (e : Eng) (f : RstRt → RstRt) : (e.onRst f).mapBad = e.mapBad := rfl
@[simp] theorem Eng.onRst_epoch (e : Eng) (f : RstRt → RstRt) : (e.onRst f).epoch = e.epoch := rfl
@[simp] theorem Eng.onRst_mcv (e : Eng) (f : RstRt → RstRt) : (e.onRst f).mcv = e.mcv := rfl
@[simp] theorem Eng.onRst_wcp (e : Eng) (f : RstRt → RstRt) : (e.onRst f).wcp = e.wcp := rfl
@[simp] theorem Eng.onRst_evr (e : Eng) (f : RstRt → RstRt) : (e.onRst f).evr = e.evr := rfl
@[simp] theorem Eng.onRst_xpt (e : Eng) (f : RstRt → RstRt) : (e.onRst f).xpt = e.xpt := rfl
@[simp] theorem Eng.onRst_sfe (e : Eng) (f : RstRt → RstRt) : (e.onRst f).sfe = e.sfe := rfl
@[simp] theorem Eng.onRst_dmq (e : Eng) (f : RstRt → RstRt) : (e.onRst f).dmq = e.dmq := rfl
@[simp] theorem Eng.onRst_dma (e : Eng) (f : RstRt → RstRt) : (e.onRst f).dma = e.dma := rfl
@[simp] theorem Eng.onRst_dmaStop (e : Eng) (f : RstRt → RstRt) : (e.onRst f).dmaStop = e.dmaStop := rfl
@[simp] theorem Eng.onRst_spiErr (e : Eng) (f : RstRt → RstRt) : (e.onRst f).spiErr = e.spiErr := rfl
@[simp] theorem Eng.onRst_mln (e : Eng) (f : RstRt → RstRt) : (e.onRst f).mln = e.mln := rfl
@[simp] theorem Eng.onRst_key (e : Eng) (f : RstRt → RstRt) : (e.onRst f).key = e.key := rfl
@[simp] theorem Eng.onRst_tim (e : Eng) (f : RstRt → RstRt) : (e.onRst f).tim = e.tim := rfl
@[simp] theorem Eng.onRst_use (e : Eng) (f : RstRt → RstRt) : (e.onRst f).use = e.use := rfl
@[simp] theorem Eng.onRst_tap (e : Eng) (f : RstRt → RstRt) : (e.onRst f).tap = e.tap := rfl
@[simp] theorem Eng.onRst_bud (e : Eng) (f : RstRt → RstRt) : (e.onRst f).bud = e.bud := rfl
@[simp] theorem Eng.onRst_drains (e : Eng) (f : RstRt → RstRt) : (e.onRst f).drains = e.drains := rfl
@[simp] theorem Eng.onRst_drainB (e : Eng) (f : RstRt → RstRt) : (e.onRst f).drainB = e.drainB := rfl
@[simp] theorem Eng.onRst_grpReady (e : Eng) (f : RstRt → RstRt) : (e.onRst f).grpReady = e.grpReady := rfl
@[simp] theorem Eng.onRst_unmasked (e : Eng) (f : RstRt → RstRt) : (e.onRst f).unmasked = e.unmasked := rfl
@[simp] theorem Eng.onRst_msiPend (e : Eng) (f : RstRt → RstRt) : (e.onRst f).msiPend = e.msiPend := rfl
@[simp] theorem Eng.onRst_sent (e : Eng) (f : RstRt → RstRt) : (e.onRst f).sent = e.sent := rfl
@[simp] theorem Eng.onRst_freeCtr (e : Eng) (f : RstRt → RstRt) : (e.onRst f).freeCtr = e.freeCtr := rfl
@[simp] theorem Eng.onRst_get (e : Eng) (f : RstRt → RstRt) (p : Nat) (x : Fld) : (e.onRst f).get p x = e.get p x := rfl
@[simp] theorem Eng.onRst_sh (e : Eng) (f : RstRt → RstRt) (p : Nat) (x : Fld) : (e.onRst f).sh p x = e.sh p x := rfl
@[simp] theorem Eng.onHis_his (e : Eng) (i : Fin 8) (f : HisRt → HisRt) : (e.onHis i f).his = upd e.his i f := rfl
@[simp] theorem Eng.onHis_live (e : Eng) (i : Fin 8) (f : HisRt → HisRt) : (e.onHis i f).live = e.live := rfl
@[simp] theorem Eng.onHis_shad (e : Eng) (i : Fin 8) (f : HisRt → HisRt) : (e.onHis i f).shad = e.shad := rfl
@[simp] theorem Eng.onHis_flt (e : Eng) (i : Fin 8) (f : HisRt → HisRt) : (e.onHis i f).flt = e.flt := rfl
@[simp] theorem Eng.onHis_resp (e : Eng) (i : Fin 8) (f : HisRt → HisRt) : (e.onHis i f).resp = e.resp := rfl
@[simp] theorem Eng.onHis_latch (e : Eng) (i : Fin 8) (f : HisRt → HisRt) : (e.onHis i f).latch = e.latch := rfl
@[simp] theorem Eng.onHis_snap (e : Eng) (i : Fin 8) (f : HisRt → HisRt) : (e.onHis i f).snap = e.snap := rfl
@[simp] theorem Eng.onHis_tixC (e : Eng) (i : Fin 8) (f : HisRt → HisRt) : (e.onHis i f).tixC = e.tixC := rfl
@[simp] theorem Eng.onHis_tixA (e : Eng) (i : Fin 8) (f : HisRt → HisRt) : (e.onHis i f).tixA = e.tixA := rfl
@[simp] theorem Eng.onHis_dev (e : Eng) (i : Fin 8) (f : HisRt → HisRt) : (e.onHis i f).dev = e.dev := rfl
@[simp] theorem Eng.onHis_fused (e : Eng) (i : Fin 8) (f : HisRt → HisRt) : (e.onHis i f).fused = e.fused := rfl
@[simp] theorem Eng.onHis_tb (e : Eng) (i : Fin 8) (f : HisRt → HisRt) : (e.onHis i f).tb = e.tb := rfl
@[simp] theorem Eng.onHis_cyc (e : Eng) (i : Fin 8) (f : HisRt → HisRt) : (e.onHis i f).cyc = e.cyc := rfl
@[simp] theorem Eng.onHis_cnv (e : Eng) (i : Fin 8) (f : HisRt → HisRt) : (e.onHis i f).cnv = e.cnv := rfl
@[simp] theorem Eng.onHis_cal (e : Eng) (i : Fin 8) (f : HisRt → HisRt) : (e.onHis i f).cal = e.cal := rfl
@[simp] theorem Eng.onHis_fch (e : Eng) (i : Fin 8) (f : HisRt → HisRt) : (e.onHis i f).fch = e.fch := rfl
@[simp] theorem Eng.onHis_trg (e : Eng) (i : Fin 8) (f : HisRt → HisRt) : (e.onHis i f).trg = e.trg := rfl
@[simp] theorem Eng.onHis_acq (e : Eng) (i : Fin 8) (f : HisRt → HisRt) : (e.onHis i f).acq = e.acq := rfl
@[simp] theorem Eng.onHis_tileRs (e : Eng) (i : Fin 8) (f : HisRt → HisRt) : (e.onHis i f).tileRs = e.tileRs := rfl
@[simp] theorem Eng.onHis_tileNext (e : Eng) (i : Fin 8) (f : HisRt → HisRt) : (e.onHis i f).tileNext = e.tileNext := rfl
@[simp] theorem Eng.onHis_dmc (e : Eng) (i : Fin 8) (f : HisRt → HisRt) : (e.onHis i f).dmc = e.dmc := rfl
@[simp] theorem Eng.onHis_bucket (e : Eng) (i : Fin 8) (f : HisRt → HisRt) : (e.onHis i f).bucket = e.bucket := rfl
@[simp] theorem Eng.onHis_retrainQ (e : Eng) (i : Fin 8) (f : HisRt → HisRt) : (e.onHis i f).retrainQ = e.retrainQ := rfl
@[simp] theorem Eng.onHis_mapNext (e : Eng) (i : Fin 8) (f : HisRt → HisRt) : (e.onHis i f).mapNext = e.mapNext := rfl
@[simp] theorem Eng.onHis_mapGood (e : Eng) (i : Fin 8) (f : HisRt → HisRt) : (e.onHis i f).mapGood = e.mapGood := rfl
@[simp] theorem Eng.onHis_ckT (e : Eng) (i : Fin 8) (f : HisRt → HisRt) : (e.onHis i f).ckT = e.ckT := rfl
@[simp] theorem Eng.onHis_mapBad (e : Eng) (i : Fin 8) (f : HisRt → HisRt) : (e.onHis i f).mapBad = e.mapBad := rfl
@[simp] theorem Eng.onHis_epoch (e : Eng) (i : Fin 8) (f : HisRt → HisRt) : (e.onHis i f).epoch = e.epoch := rfl
@[simp] theorem Eng.onHis_mcv (e : Eng) (i : Fin 8) (f : HisRt → HisRt) : (e.onHis i f).mcv = e.mcv := rfl
@[simp] theorem Eng.onHis_wcp (e : Eng) (i : Fin 8) (f : HisRt → HisRt) : (e.onHis i f).wcp = e.wcp := rfl
@[simp] theorem Eng.onHis_evr (e : Eng) (i : Fin 8) (f : HisRt → HisRt) : (e.onHis i f).evr = e.evr := rfl
@[simp] theorem Eng.onHis_xpt (e : Eng) (i : Fin 8) (f : HisRt → HisRt) : (e.onHis i f).xpt = e.xpt := rfl
@[simp] theorem Eng.onHis_sfe (e : Eng) (i : Fin 8) (f : HisRt → HisRt) : (e.onHis i f).sfe = e.sfe := rfl
@[simp] theorem Eng.onHis_dmq (e : Eng) (i : Fin 8) (f : HisRt → HisRt) : (e.onHis i f).dmq = e.dmq := rfl
@[simp] theorem Eng.onHis_dma (e : Eng) (i : Fin 8) (f : HisRt → HisRt) : (e.onHis i f).dma = e.dma := rfl
@[simp] theorem Eng.onHis_dmaStop (e : Eng) (i : Fin 8) (f : HisRt → HisRt) : (e.onHis i f).dmaStop = e.dmaStop := rfl
@[simp] theorem Eng.onHis_spiErr (e : Eng) (i : Fin 8) (f : HisRt → HisRt) : (e.onHis i f).spiErr = e.spiErr := rfl
@[simp] theorem Eng.onHis_mln (e : Eng) (i : Fin 8) (f : HisRt → HisRt) : (e.onHis i f).mln = e.mln := rfl
@[simp] theorem Eng.onHis_key (e : Eng) (i : Fin 8) (f : HisRt → HisRt) : (e.onHis i f).key = e.key := rfl
@[simp] theorem Eng.onHis_tim (e : Eng) (i : Fin 8) (f : HisRt → HisRt) : (e.onHis i f).tim = e.tim := rfl
@[simp] theorem Eng.onHis_use (e : Eng) (i : Fin 8) (f : HisRt → HisRt) : (e.onHis i f).use = e.use := rfl
@[simp] theorem Eng.onHis_tap (e : Eng) (i : Fin 8) (f : HisRt → HisRt) : (e.onHis i f).tap = e.tap := rfl
@[simp] theorem Eng.onHis_rst (e : Eng) (i : Fin 8) (f : HisRt → HisRt) : (e.onHis i f).rst = e.rst := rfl
@[simp] theorem Eng.onHis_bud (e : Eng) (i : Fin 8) (f : HisRt → HisRt) : (e.onHis i f).bud = e.bud := rfl
@[simp] theorem Eng.onHis_drains (e : Eng) (i : Fin 8) (f : HisRt → HisRt) : (e.onHis i f).drains = e.drains := rfl
@[simp] theorem Eng.onHis_drainB (e : Eng) (i : Fin 8) (f : HisRt → HisRt) : (e.onHis i f).drainB = e.drainB := rfl
@[simp] theorem Eng.onHis_grpReady (e : Eng) (i : Fin 8) (f : HisRt → HisRt) : (e.onHis i f).grpReady = e.grpReady := rfl
@[simp] theorem Eng.onHis_unmasked (e : Eng) (i : Fin 8) (f : HisRt → HisRt) : (e.onHis i f).unmasked = e.unmasked := rfl
@[simp] theorem Eng.onHis_msiPend (e : Eng) (i : Fin 8) (f : HisRt → HisRt) : (e.onHis i f).msiPend = e.msiPend := rfl
@[simp] theorem Eng.onHis_sent (e : Eng) (i : Fin 8) (f : HisRt → HisRt) : (e.onHis i f).sent = e.sent := rfl
@[simp] theorem Eng.onHis_freeCtr (e : Eng) (i : Fin 8) (f : HisRt → HisRt) : (e.onHis i f).freeCtr = e.freeCtr := rfl
@[simp] theorem Eng.onHis_get (e : Eng) (i : Fin 8) (f : HisRt → HisRt) (p : Nat) (x : Fld) : (e.onHis i f).get p x = e.get p x := rfl
@[simp] theorem Eng.onHis_sh (e : Eng) (i : Fin 8) (f : HisRt → HisRt) (p : Nat) (x : Fld) : (e.onHis i f).sh p x = e.sh p x := rfl
@[simp] theorem Eng.onKey_key (e : Eng) (f : KeyRt → KeyRt) : (e.onKey f).key = f e.key := rfl
@[simp] theorem Eng.onKey_live (e : Eng) (f : KeyRt → KeyRt) : (e.onKey f).live = e.live := rfl
@[simp] theorem Eng.onKey_shad (e : Eng) (f : KeyRt → KeyRt) : (e.onKey f).shad = e.shad := rfl
@[simp] theorem Eng.onKey_flt (e : Eng) (f : KeyRt → KeyRt) : (e.onKey f).flt = e.flt := rfl
@[simp] theorem Eng.onKey_resp (e : Eng) (f : KeyRt → KeyRt) : (e.onKey f).resp = e.resp := rfl
@[simp] theorem Eng.onKey_latch (e : Eng) (f : KeyRt → KeyRt) : (e.onKey f).latch = e.latch := rfl
@[simp] theorem Eng.onKey_snap (e : Eng) (f : KeyRt → KeyRt) : (e.onKey f).snap = e.snap := rfl
@[simp] theorem Eng.onKey_tixC (e : Eng) (f : KeyRt → KeyRt) : (e.onKey f).tixC = e.tixC := rfl
@[simp] theorem Eng.onKey_tixA (e : Eng) (f : KeyRt → KeyRt) : (e.onKey f).tixA = e.tixA := rfl
@[simp] theorem Eng.onKey_dev (e : Eng) (f : KeyRt → KeyRt) : (e.onKey f).dev = e.dev := rfl
@[simp] theorem Eng.onKey_fused (e : Eng) (f : KeyRt → KeyRt) : (e.onKey f).fused = e.fused := rfl
@[simp] theorem Eng.onKey_tb (e : Eng) (f : KeyRt → KeyRt) : (e.onKey f).tb = e.tb := rfl
@[simp] theorem Eng.onKey_cyc (e : Eng) (f : KeyRt → KeyRt) : (e.onKey f).cyc = e.cyc := rfl
@[simp] theorem Eng.onKey_cnv (e : Eng) (f : KeyRt → KeyRt) : (e.onKey f).cnv = e.cnv := rfl
@[simp] theorem Eng.onKey_cal (e : Eng) (f : KeyRt → KeyRt) : (e.onKey f).cal = e.cal := rfl
@[simp] theorem Eng.onKey_fch (e : Eng) (f : KeyRt → KeyRt) : (e.onKey f).fch = e.fch := rfl
@[simp] theorem Eng.onKey_trg (e : Eng) (f : KeyRt → KeyRt) : (e.onKey f).trg = e.trg := rfl
@[simp] theorem Eng.onKey_acq (e : Eng) (f : KeyRt → KeyRt) : (e.onKey f).acq = e.acq := rfl
@[simp] theorem Eng.onKey_his (e : Eng) (f : KeyRt → KeyRt) : (e.onKey f).his = e.his := rfl
@[simp] theorem Eng.onKey_tileRs (e : Eng) (f : KeyRt → KeyRt) : (e.onKey f).tileRs = e.tileRs := rfl
@[simp] theorem Eng.onKey_tileNext (e : Eng) (f : KeyRt → KeyRt) : (e.onKey f).tileNext = e.tileNext := rfl
@[simp] theorem Eng.onKey_dmc (e : Eng) (f : KeyRt → KeyRt) : (e.onKey f).dmc = e.dmc := rfl
@[simp] theorem Eng.onKey_bucket (e : Eng) (f : KeyRt → KeyRt) : (e.onKey f).bucket = e.bucket := rfl
@[simp] theorem Eng.onKey_retrainQ (e : Eng) (f : KeyRt → KeyRt) : (e.onKey f).retrainQ = e.retrainQ := rfl
@[simp] theorem Eng.onKey_mapNext (e : Eng) (f : KeyRt → KeyRt) : (e.onKey f).mapNext = e.mapNext := rfl
@[simp] theorem Eng.onKey_mapGood (e : Eng) (f : KeyRt → KeyRt) : (e.onKey f).mapGood = e.mapGood := rfl
@[simp] theorem Eng.onKey_ckT (e : Eng) (f : KeyRt → KeyRt) : (e.onKey f).ckT = e.ckT := rfl
@[simp] theorem Eng.onKey_mapBad (e : Eng) (f : KeyRt → KeyRt) : (e.onKey f).mapBad = e.mapBad := rfl
@[simp] theorem Eng.onKey_epoch (e : Eng) (f : KeyRt → KeyRt) : (e.onKey f).epoch = e.epoch := rfl
@[simp] theorem Eng.onKey_mcv (e : Eng) (f : KeyRt → KeyRt) : (e.onKey f).mcv = e.mcv := rfl
@[simp] theorem Eng.onKey_wcp (e : Eng) (f : KeyRt → KeyRt) : (e.onKey f).wcp = e.wcp := rfl
@[simp] theorem Eng.onKey_evr (e : Eng) (f : KeyRt → KeyRt) : (e.onKey f).evr = e.evr := rfl
@[simp] theorem Eng.onKey_xpt (e : Eng) (f : KeyRt → KeyRt) : (e.onKey f).xpt = e.xpt := rfl
@[simp] theorem Eng.onKey_sfe (e : Eng) (f : KeyRt → KeyRt) : (e.onKey f).sfe = e.sfe := rfl
@[simp] theorem Eng.onKey_dmq (e : Eng) (f : KeyRt → KeyRt) : (e.onKey f).dmq = e.dmq := rfl
@[simp] theorem Eng.onKey_dma (e : Eng) (f : KeyRt → KeyRt) : (e.onKey f).dma = e.dma := rfl
@[simp] theorem Eng.onKey_dmaStop (e : Eng) (f : KeyRt → KeyRt) : (e.onKey f).dmaStop = e.dmaStop := rfl
@[simp] theorem Eng.onKey_spiErr (e : Eng) (f : KeyRt → KeyRt) : (e.onKey f).spiErr = e.spiErr := rfl
@[simp] theorem Eng.onKey_mln (e : Eng) (f : KeyRt → KeyRt) : (e.onKey f).mln = e.mln := rfl
@[simp] theorem Eng.onKey_tim (e : Eng) (f : KeyRt → KeyRt) : (e.onKey f).tim = e.tim := rfl
@[simp] theorem Eng.onKey_use (e : Eng) (f : KeyRt → KeyRt) : (e.onKey f).use = e.use := rfl
@[simp] theorem Eng.onKey_tap (e : Eng) (f : KeyRt → KeyRt) : (e.onKey f).tap = e.tap := rfl
@[simp] theorem Eng.onKey_rst (e : Eng) (f : KeyRt → KeyRt) : (e.onKey f).rst = e.rst := rfl
@[simp] theorem Eng.onKey_bud (e : Eng) (f : KeyRt → KeyRt) : (e.onKey f).bud = e.bud := rfl
@[simp] theorem Eng.onKey_drains (e : Eng) (f : KeyRt → KeyRt) : (e.onKey f).drains = e.drains := rfl
@[simp] theorem Eng.onKey_drainB (e : Eng) (f : KeyRt → KeyRt) : (e.onKey f).drainB = e.drainB := rfl
@[simp] theorem Eng.onKey_grpReady (e : Eng) (f : KeyRt → KeyRt) : (e.onKey f).grpReady = e.grpReady := rfl
@[simp] theorem Eng.onKey_unmasked (e : Eng) (f : KeyRt → KeyRt) : (e.onKey f).unmasked = e.unmasked := rfl
@[simp] theorem Eng.onKey_msiPend (e : Eng) (f : KeyRt → KeyRt) : (e.onKey f).msiPend = e.msiPend := rfl
@[simp] theorem Eng.onKey_sent (e : Eng) (f : KeyRt → KeyRt) : (e.onKey f).sent = e.sent := rfl
@[simp] theorem Eng.onKey_freeCtr (e : Eng) (f : KeyRt → KeyRt) : (e.onKey f).freeCtr = e.freeCtr := rfl
@[simp] theorem Eng.onKey_get (e : Eng) (f : KeyRt → KeyRt) (p : Nat) (x : Fld) : (e.onKey f).get p x = e.get p x := rfl
@[simp] theorem Eng.onKey_sh (e : Eng) (f : KeyRt → KeyRt) (p : Nat) (x : Fld) : (e.onKey f).sh p x = e.sh p x := rfl
@[simp] theorem Eng.onMln_mln (e : Eng) (f : MlnRt → MlnRt) : (e.onMln f).mln = f e.mln := rfl
@[simp] theorem Eng.onMln_live (e : Eng) (f : MlnRt → MlnRt) : (e.onMln f).live = e.live := rfl
@[simp] theorem Eng.onMln_shad (e : Eng) (f : MlnRt → MlnRt) : (e.onMln f).shad = e.shad := rfl
@[simp] theorem Eng.onMln_flt (e : Eng) (f : MlnRt → MlnRt) : (e.onMln f).flt = e.flt := rfl
@[simp] theorem Eng.onMln_resp (e : Eng) (f : MlnRt → MlnRt) : (e.onMln f).resp = e.resp := rfl
@[simp] theorem Eng.onMln_latch (e : Eng) (f : MlnRt → MlnRt) : (e.onMln f).latch = e.latch := rfl
@[simp] theorem Eng.onMln_snap (e : Eng) (f : MlnRt → MlnRt) : (e.onMln f).snap = e.snap := rfl
@[simp] theorem Eng.onMln_tixC (e : Eng) (f : MlnRt → MlnRt) : (e.onMln f).tixC = e.tixC := rfl
@[simp] theorem Eng.onMln_tixA (e : Eng) (f : MlnRt → MlnRt) : (e.onMln f).tixA = e.tixA := rfl
@[simp] theorem Eng.onMln_dev (e : Eng) (f : MlnRt → MlnRt) : (e.onMln f).dev = e.dev := rfl
@[simp] theorem Eng.onMln_fused (e : Eng) (f : MlnRt → MlnRt) : (e.onMln f).fused = e.fused := rfl
@[simp] theorem Eng.onMln_tb (e : Eng) (f : MlnRt → MlnRt) : (e.onMln f).tb = e.tb := rfl
@[simp] theorem Eng.onMln_cyc (e : Eng) (f : MlnRt → MlnRt) : (e.onMln f).cyc = e.cyc := rfl
@[simp] theorem Eng.onMln_cnv (e : Eng) (f : MlnRt → MlnRt) : (e.onMln f).cnv = e.cnv := rfl
@[simp] theorem Eng.onMln_cal (e : Eng) (f : MlnRt → MlnRt) : (e.onMln f).cal = e.cal := rfl
@[simp] theorem Eng.onMln_fch (e : Eng) (f : MlnRt → MlnRt) : (e.onMln f).fch = e.fch := rfl
@[simp] theorem Eng.onMln_trg (e : Eng) (f : MlnRt → MlnRt) : (e.onMln f).trg = e.trg := rfl
@[simp] theorem Eng.onMln_acq (e : Eng) (f : MlnRt → MlnRt) : (e.onMln f).acq = e.acq := rfl
@[simp] theorem Eng.onMln_his (e : Eng) (f : MlnRt → MlnRt) : (e.onMln f).his = e.his := rfl
@[simp] theorem Eng.onMln_tileRs (e : Eng) (f : MlnRt → MlnRt) : (e.onMln f).tileRs = e.tileRs := rfl
@[simp] theorem Eng.onMln_tileNext (e : Eng) (f : MlnRt → MlnRt) : (e.onMln f).tileNext = e.tileNext := rfl
@[simp] theorem Eng.onMln_dmc (e : Eng) (f : MlnRt → MlnRt) : (e.onMln f).dmc = e.dmc := rfl
@[simp] theorem Eng.onMln_bucket (e : Eng) (f : MlnRt → MlnRt) : (e.onMln f).bucket = e.bucket := rfl
@[simp] theorem Eng.onMln_retrainQ (e : Eng) (f : MlnRt → MlnRt) : (e.onMln f).retrainQ = e.retrainQ := rfl
@[simp] theorem Eng.onMln_mapNext (e : Eng) (f : MlnRt → MlnRt) : (e.onMln f).mapNext = e.mapNext := rfl
@[simp] theorem Eng.onMln_mapGood (e : Eng) (f : MlnRt → MlnRt) : (e.onMln f).mapGood = e.mapGood := rfl
@[simp] theorem Eng.onMln_ckT (e : Eng) (f : MlnRt → MlnRt) : (e.onMln f).ckT = e.ckT := rfl
@[simp] theorem Eng.onMln_mapBad (e : Eng) (f : MlnRt → MlnRt) : (e.onMln f).mapBad = e.mapBad := rfl
@[simp] theorem Eng.onMln_epoch (e : Eng) (f : MlnRt → MlnRt) : (e.onMln f).epoch = e.epoch := rfl
@[simp] theorem Eng.onMln_mcv (e : Eng) (f : MlnRt → MlnRt) : (e.onMln f).mcv = e.mcv := rfl
@[simp] theorem Eng.onMln_wcp (e : Eng) (f : MlnRt → MlnRt) : (e.onMln f).wcp = e.wcp := rfl
@[simp] theorem Eng.onMln_evr (e : Eng) (f : MlnRt → MlnRt) : (e.onMln f).evr = e.evr := rfl
@[simp] theorem Eng.onMln_xpt (e : Eng) (f : MlnRt → MlnRt) : (e.onMln f).xpt = e.xpt := rfl
@[simp] theorem Eng.onMln_sfe (e : Eng) (f : MlnRt → MlnRt) : (e.onMln f).sfe = e.sfe := rfl
@[simp] theorem Eng.onMln_dmq (e : Eng) (f : MlnRt → MlnRt) : (e.onMln f).dmq = e.dmq := rfl
@[simp] theorem Eng.onMln_dma (e : Eng) (f : MlnRt → MlnRt) : (e.onMln f).dma = e.dma := rfl
@[simp] theorem Eng.onMln_dmaStop (e : Eng) (f : MlnRt → MlnRt) : (e.onMln f).dmaStop = e.dmaStop := rfl
@[simp] theorem Eng.onMln_spiErr (e : Eng) (f : MlnRt → MlnRt) : (e.onMln f).spiErr = e.spiErr := rfl
@[simp] theorem Eng.onMln_key (e : Eng) (f : MlnRt → MlnRt) : (e.onMln f).key = e.key := rfl
@[simp] theorem Eng.onMln_tim (e : Eng) (f : MlnRt → MlnRt) : (e.onMln f).tim = e.tim := rfl
@[simp] theorem Eng.onMln_use (e : Eng) (f : MlnRt → MlnRt) : (e.onMln f).use = e.use := rfl
@[simp] theorem Eng.onMln_tap (e : Eng) (f : MlnRt → MlnRt) : (e.onMln f).tap = e.tap := rfl
@[simp] theorem Eng.onMln_rst (e : Eng) (f : MlnRt → MlnRt) : (e.onMln f).rst = e.rst := rfl
@[simp] theorem Eng.onMln_bud (e : Eng) (f : MlnRt → MlnRt) : (e.onMln f).bud = e.bud := rfl
@[simp] theorem Eng.onMln_drains (e : Eng) (f : MlnRt → MlnRt) : (e.onMln f).drains = e.drains := rfl
@[simp] theorem Eng.onMln_drainB (e : Eng) (f : MlnRt → MlnRt) : (e.onMln f).drainB = e.drainB := rfl
@[simp] theorem Eng.onMln_grpReady (e : Eng) (f : MlnRt → MlnRt) : (e.onMln f).grpReady = e.grpReady := rfl
@[simp] theorem Eng.onMln_unmasked (e : Eng) (f : MlnRt → MlnRt) : (e.onMln f).unmasked = e.unmasked := rfl
@[simp] theorem Eng.onMln_msiPend (e : Eng) (f : MlnRt → MlnRt) : (e.onMln f).msiPend = e.msiPend := rfl
@[simp] theorem Eng.onMln_sent (e : Eng) (f : MlnRt → MlnRt) : (e.onMln f).sent = e.sent := rfl
@[simp] theorem Eng.onMln_freeCtr (e : Eng) (f : MlnRt → MlnRt) : (e.onMln f).freeCtr = e.freeCtr := rfl
@[simp] theorem Eng.onMln_get (e : Eng) (f : MlnRt → MlnRt) (p : Nat) (x : Fld) : (e.onMln f).get p x = e.get p x := rfl
@[simp] theorem Eng.onMln_sh (e : Eng) (f : MlnRt → MlnRt) (p : Nat) (x : Fld) : (e.onMln f).sh p x = e.sh p x := rfl
@[simp] theorem Eng.onDmq_dmq (e : Eng) (i : Fin 16) (f : DmqRt → DmqRt) : (e.onDmq i f).dmq = upd e.dmq i f := rfl
@[simp] theorem Eng.onDmq_live (e : Eng) (i : Fin 16) (f : DmqRt → DmqRt) : (e.onDmq i f).live = e.live := rfl
@[simp] theorem Eng.onDmq_shad (e : Eng) (i : Fin 16) (f : DmqRt → DmqRt) : (e.onDmq i f).shad = e.shad := rfl
@[simp] theorem Eng.onDmq_flt (e : Eng) (i : Fin 16) (f : DmqRt → DmqRt) : (e.onDmq i f).flt = e.flt := rfl
@[simp] theorem Eng.onDmq_resp (e : Eng) (i : Fin 16) (f : DmqRt → DmqRt) : (e.onDmq i f).resp = e.resp := rfl
@[simp] theorem Eng.onDmq_latch (e : Eng) (i : Fin 16) (f : DmqRt → DmqRt) : (e.onDmq i f).latch = e.latch := rfl
@[simp] theorem Eng.onDmq_snap (e : Eng) (i : Fin 16) (f : DmqRt → DmqRt) : (e.onDmq i f).snap = e.snap := rfl
@[simp] theorem Eng.onDmq_tixC (e : Eng) (i : Fin 16) (f : DmqRt → DmqRt) : (e.onDmq i f).tixC = e.tixC := rfl
@[simp] theorem Eng.onDmq_tixA (e : Eng) (i : Fin 16) (f : DmqRt → DmqRt) : (e.onDmq i f).tixA = e.tixA := rfl
@[simp] theorem Eng.onDmq_dev (e : Eng) (i : Fin 16) (f : DmqRt → DmqRt) : (e.onDmq i f).dev = e.dev := rfl
@[simp] theorem Eng.onDmq_fused (e : Eng) (i : Fin 16) (f : DmqRt → DmqRt) : (e.onDmq i f).fused = e.fused := rfl
@[simp] theorem Eng.onDmq_tb (e : Eng) (i : Fin 16) (f : DmqRt → DmqRt) : (e.onDmq i f).tb = e.tb := rfl
@[simp] theorem Eng.onDmq_cyc (e : Eng) (i : Fin 16) (f : DmqRt → DmqRt) : (e.onDmq i f).cyc = e.cyc := rfl
@[simp] theorem Eng.onDmq_cnv (e : Eng) (i : Fin 16) (f : DmqRt → DmqRt) : (e.onDmq i f).cnv = e.cnv := rfl
@[simp] theorem Eng.onDmq_cal (e : Eng) (i : Fin 16) (f : DmqRt → DmqRt) : (e.onDmq i f).cal = e.cal := rfl
@[simp] theorem Eng.onDmq_fch (e : Eng) (i : Fin 16) (f : DmqRt → DmqRt) : (e.onDmq i f).fch = e.fch := rfl
@[simp] theorem Eng.onDmq_trg (e : Eng) (i : Fin 16) (f : DmqRt → DmqRt) : (e.onDmq i f).trg = e.trg := rfl
@[simp] theorem Eng.onDmq_acq (e : Eng) (i : Fin 16) (f : DmqRt → DmqRt) : (e.onDmq i f).acq = e.acq := rfl
@[simp] theorem Eng.onDmq_his (e : Eng) (i : Fin 16) (f : DmqRt → DmqRt) : (e.onDmq i f).his = e.his := rfl
@[simp] theorem Eng.onDmq_tileRs (e : Eng) (i : Fin 16) (f : DmqRt → DmqRt) : (e.onDmq i f).tileRs = e.tileRs := rfl
@[simp] theorem Eng.onDmq_tileNext (e : Eng) (i : Fin 16) (f : DmqRt → DmqRt) : (e.onDmq i f).tileNext = e.tileNext := rfl
@[simp] theorem Eng.onDmq_dmc (e : Eng) (i : Fin 16) (f : DmqRt → DmqRt) : (e.onDmq i f).dmc = e.dmc := rfl
@[simp] theorem Eng.onDmq_bucket (e : Eng) (i : Fin 16) (f : DmqRt → DmqRt) : (e.onDmq i f).bucket = e.bucket := rfl
@[simp] theorem Eng.onDmq_retrainQ (e : Eng) (i : Fin 16) (f : DmqRt → DmqRt) : (e.onDmq i f).retrainQ = e.retrainQ := rfl
@[simp] theorem Eng.onDmq_mapNext (e : Eng) (i : Fin 16) (f : DmqRt → DmqRt) : (e.onDmq i f).mapNext = e.mapNext := rfl
@[simp] theorem Eng.onDmq_mapGood (e : Eng) (i : Fin 16) (f : DmqRt → DmqRt) : (e.onDmq i f).mapGood = e.mapGood := rfl
@[simp] theorem Eng.onDmq_ckT (e : Eng) (i : Fin 16) (f : DmqRt → DmqRt) : (e.onDmq i f).ckT = e.ckT := rfl
@[simp] theorem Eng.onDmq_mapBad (e : Eng) (i : Fin 16) (f : DmqRt → DmqRt) : (e.onDmq i f).mapBad = e.mapBad := rfl
@[simp] theorem Eng.onDmq_epoch (e : Eng) (i : Fin 16) (f : DmqRt → DmqRt) : (e.onDmq i f).epoch = e.epoch := rfl
@[simp] theorem Eng.onDmq_mcv (e : Eng) (i : Fin 16) (f : DmqRt → DmqRt) : (e.onDmq i f).mcv = e.mcv := rfl
@[simp] theorem Eng.onDmq_wcp (e : Eng) (i : Fin 16) (f : DmqRt → DmqRt) : (e.onDmq i f).wcp = e.wcp := rfl
@[simp] theorem Eng.onDmq_evr (e : Eng) (i : Fin 16) (f : DmqRt → DmqRt) : (e.onDmq i f).evr = e.evr := rfl
@[simp] theorem Eng.onDmq_xpt (e : Eng) (i : Fin 16) (f : DmqRt → DmqRt) : (e.onDmq i f).xpt = e.xpt := rfl
@[simp] theorem Eng.onDmq_sfe (e : Eng) (i : Fin 16) (f : DmqRt → DmqRt) : (e.onDmq i f).sfe = e.sfe := rfl
@[simp] theorem Eng.onDmq_dma (e : Eng) (i : Fin 16) (f : DmqRt → DmqRt) : (e.onDmq i f).dma = e.dma := rfl
@[simp] theorem Eng.onDmq_dmaStop (e : Eng) (i : Fin 16) (f : DmqRt → DmqRt) : (e.onDmq i f).dmaStop = e.dmaStop := rfl
@[simp] theorem Eng.onDmq_spiErr (e : Eng) (i : Fin 16) (f : DmqRt → DmqRt) : (e.onDmq i f).spiErr = e.spiErr := rfl
@[simp] theorem Eng.onDmq_mln (e : Eng) (i : Fin 16) (f : DmqRt → DmqRt) : (e.onDmq i f).mln = e.mln := rfl
@[simp] theorem Eng.onDmq_key (e : Eng) (i : Fin 16) (f : DmqRt → DmqRt) : (e.onDmq i f).key = e.key := rfl
@[simp] theorem Eng.onDmq_tim (e : Eng) (i : Fin 16) (f : DmqRt → DmqRt) : (e.onDmq i f).tim = e.tim := rfl
@[simp] theorem Eng.onDmq_use (e : Eng) (i : Fin 16) (f : DmqRt → DmqRt) : (e.onDmq i f).use = e.use := rfl
@[simp] theorem Eng.onDmq_tap (e : Eng) (i : Fin 16) (f : DmqRt → DmqRt) : (e.onDmq i f).tap = e.tap := rfl
@[simp] theorem Eng.onDmq_rst (e : Eng) (i : Fin 16) (f : DmqRt → DmqRt) : (e.onDmq i f).rst = e.rst := rfl
@[simp] theorem Eng.onDmq_bud (e : Eng) (i : Fin 16) (f : DmqRt → DmqRt) : (e.onDmq i f).bud = e.bud := rfl
@[simp] theorem Eng.onDmq_drains (e : Eng) (i : Fin 16) (f : DmqRt → DmqRt) : (e.onDmq i f).drains = e.drains := rfl
@[simp] theorem Eng.onDmq_drainB (e : Eng) (i : Fin 16) (f : DmqRt → DmqRt) : (e.onDmq i f).drainB = e.drainB := rfl
@[simp] theorem Eng.onDmq_grpReady (e : Eng) (i : Fin 16) (f : DmqRt → DmqRt) : (e.onDmq i f).grpReady = e.grpReady := rfl
@[simp] theorem Eng.onDmq_unmasked (e : Eng) (i : Fin 16) (f : DmqRt → DmqRt) : (e.onDmq i f).unmasked = e.unmasked := rfl
@[simp] theorem Eng.onDmq_msiPend (e : Eng) (i : Fin 16) (f : DmqRt → DmqRt) : (e.onDmq i f).msiPend = e.msiPend := rfl
@[simp] theorem Eng.onDmq_sent (e : Eng) (i : Fin 16) (f : DmqRt → DmqRt) : (e.onDmq i f).sent = e.sent := rfl
@[simp] theorem Eng.onDmq_freeCtr (e : Eng) (i : Fin 16) (f : DmqRt → DmqRt) : (e.onDmq i f).freeCtr = e.freeCtr := rfl
@[simp] theorem Eng.onDmq_get (e : Eng) (i : Fin 16) (f : DmqRt → DmqRt) (p : Nat) (x : Fld) : (e.onDmq i f).get p x = e.get p x := rfl
@[simp] theorem Eng.onDmq_sh (e : Eng) (i : Fin 16) (f : DmqRt → DmqRt) (p : Nat) (x : Fld) : (e.onDmq i f).sh p x = e.sh p x := rfl
@[simp] theorem Eng.onUse_use (e : Eng) (f : UseRt → UseRt) : (e.onUse f).use = f e.use := rfl
@[simp] theorem Eng.onUse_live (e : Eng) (f : UseRt → UseRt) : (e.onUse f).live = e.live := rfl
@[simp] theorem Eng.onUse_shad (e : Eng) (f : UseRt → UseRt) : (e.onUse f).shad = e.shad := rfl
@[simp] theorem Eng.onUse_flt (e : Eng) (f : UseRt → UseRt) : (e.onUse f).flt = e.flt := rfl
@[simp] theorem Eng.onUse_resp (e : Eng) (f : UseRt → UseRt) : (e.onUse f).resp = e.resp := rfl
@[simp] theorem Eng.onUse_latch (e : Eng) (f : UseRt → UseRt) : (e.onUse f).latch = e.latch := rfl
@[simp] theorem Eng.onUse_snap (e : Eng) (f : UseRt → UseRt) : (e.onUse f).snap = e.snap := rfl
@[simp] theorem Eng.onUse_tixC (e : Eng) (f : UseRt → UseRt) : (e.onUse f).tixC = e.tixC := rfl
@[simp] theorem Eng.onUse_tixA (e : Eng) (f : UseRt → UseRt) : (e.onUse f).tixA = e.tixA := rfl
@[simp] theorem Eng.onUse_dev (e : Eng) (f : UseRt → UseRt) : (e.onUse f).dev = e.dev := rfl
@[simp] theorem Eng.onUse_fused (e : Eng) (f : UseRt → UseRt) : (e.onUse f).fused = e.fused := rfl
@[simp] theorem Eng.onUse_tb (e : Eng) (f : UseRt → UseRt) : (e.onUse f).tb = e.tb := rfl
@[simp] theorem Eng.onUse_cyc (e : Eng) (f : UseRt → UseRt) : (e.onUse f).cyc = e.cyc := rfl
@[simp] theorem Eng.onUse_cnv (e : Eng) (f : UseRt → UseRt) : (e.onUse f).cnv = e.cnv := rfl
@[simp] theorem Eng.onUse_cal (e : Eng) (f : UseRt → UseRt) : (e.onUse f).cal = e.cal := rfl
@[simp] theorem Eng.onUse_fch (e : Eng) (f : UseRt → UseRt) : (e.onUse f).fch = e.fch := rfl
@[simp] theorem Eng.onUse_trg (e : Eng) (f : UseRt → UseRt) : (e.onUse f).trg = e.trg := rfl
@[simp] theorem Eng.onUse_acq (e : Eng) (f : UseRt → UseRt) : (e.onUse f).acq = e.acq := rfl
@[simp] theorem Eng.onUse_his (e : Eng) (f : UseRt → UseRt) : (e.onUse f).his = e.his := rfl
@[simp] theorem Eng.onUse_tileRs (e : Eng) (f : UseRt → UseRt) : (e.onUse f).tileRs = e.tileRs := rfl
@[simp] theorem Eng.onUse_tileNext (e : Eng) (f : UseRt → UseRt) : (e.onUse f).tileNext = e.tileNext := rfl
@[simp] theorem Eng.onUse_dmc (e : Eng) (f : UseRt → UseRt) : (e.onUse f).dmc = e.dmc := rfl
@[simp] theorem Eng.onUse_bucket (e : Eng) (f : UseRt → UseRt) : (e.onUse f).bucket = e.bucket := rfl
@[simp] theorem Eng.onUse_retrainQ (e : Eng) (f : UseRt → UseRt) : (e.onUse f).retrainQ = e.retrainQ := rfl
@[simp] theorem Eng.onUse_mapNext (e : Eng) (f : UseRt → UseRt) : (e.onUse f).mapNext = e.mapNext := rfl
@[simp] theorem Eng.onUse_mapGood (e : Eng) (f : UseRt → UseRt) : (e.onUse f).mapGood = e.mapGood := rfl
@[simp] theorem Eng.onUse_ckT (e : Eng) (f : UseRt → UseRt) : (e.onUse f).ckT = e.ckT := rfl
@[simp] theorem Eng.onUse_mapBad (e : Eng) (f : UseRt → UseRt) : (e.onUse f).mapBad = e.mapBad := rfl
@[simp] theorem Eng.onUse_epoch (e : Eng) (f : UseRt → UseRt) : (e.onUse f).epoch = e.epoch := rfl
@[simp] theorem Eng.onUse_mcv (e : Eng) (f : UseRt → UseRt) : (e.onUse f).mcv = e.mcv := rfl
@[simp] theorem Eng.onUse_wcp (e : Eng) (f : UseRt → UseRt) : (e.onUse f).wcp = e.wcp := rfl
@[simp] theorem Eng.onUse_evr (e : Eng) (f : UseRt → UseRt) : (e.onUse f).evr = e.evr := rfl
@[simp] theorem Eng.onUse_xpt (e : Eng) (f : UseRt → UseRt) : (e.onUse f).xpt = e.xpt := rfl
@[simp] theorem Eng.onUse_sfe (e : Eng) (f : UseRt → UseRt) : (e.onUse f).sfe = e.sfe := rfl
@[simp] theorem Eng.onUse_dmq (e : Eng) (f : UseRt → UseRt) : (e.onUse f).dmq = e.dmq := rfl
@[simp] theorem Eng.onUse_dma (e : Eng) (f : UseRt → UseRt) : (e.onUse f).dma = e.dma := rfl
@[simp] theorem Eng.onUse_dmaStop (e : Eng) (f : UseRt → UseRt) : (e.onUse f).dmaStop = e.dmaStop := rfl
@[simp] theorem Eng.onUse_spiErr (e : Eng) (f : UseRt → UseRt) : (e.onUse f).spiErr = e.spiErr := rfl
@[simp] theorem Eng.onUse_mln (e : Eng) (f : UseRt → UseRt) : (e.onUse f).mln = e.mln := rfl
@[simp] theorem Eng.onUse_key (e : Eng) (f : UseRt → UseRt) : (e.onUse f).key = e.key := rfl
@[simp] theorem Eng.onUse_tim (e : Eng) (f : UseRt → UseRt) : (e.onUse f).tim = e.tim := rfl
@[simp] theorem Eng.onUse_tap (e : Eng) (f : UseRt → UseRt) : (e.onUse f).tap = e.tap := rfl
@[simp] theorem Eng.onUse_rst (e : Eng) (f : UseRt → UseRt) : (e.onUse f).rst = e.rst := rfl
@[simp] theorem Eng.onUse_bud (e : Eng) (f : UseRt → UseRt) : (e.onUse f).bud = e.bud := rfl
@[simp] theorem Eng.onUse_drains (e : Eng) (f : UseRt → UseRt) : (e.onUse f).drains = e.drains := rfl
@[simp] theorem Eng.onUse_drainB (e : Eng) (f : UseRt → UseRt) : (e.onUse f).drainB = e.drainB := rfl
@[simp] theorem Eng.onUse_grpReady (e : Eng) (f : UseRt → UseRt) : (e.onUse f).grpReady = e.grpReady := rfl
@[simp] theorem Eng.onUse_unmasked (e : Eng) (f : UseRt → UseRt) : (e.onUse f).unmasked = e.unmasked := rfl
@[simp] theorem Eng.onUse_msiPend (e : Eng) (f : UseRt → UseRt) : (e.onUse f).msiPend = e.msiPend := rfl
@[simp] theorem Eng.onUse_sent (e : Eng) (f : UseRt → UseRt) : (e.onUse f).sent = e.sent := rfl
@[simp] theorem Eng.onUse_freeCtr (e : Eng) (f : UseRt → UseRt) : (e.onUse f).freeCtr = e.freeCtr := rfl
@[simp] theorem Eng.onUse_get (e : Eng) (f : UseRt → UseRt) (p : Nat) (x : Fld) : (e.onUse f).get p x = e.get p x := rfl
@[simp] theorem Eng.onUse_sh (e : Eng) (f : UseRt → UseRt) (p : Nat) (x : Fld) : (e.onUse f).sh p x = e.sh p x := rfl
@[simp] theorem Eng.onXpt_xpt (e : Eng) (f : XptRt → XptRt) : (e.onXpt f).xpt = f e.xpt := rfl
@[simp] theorem Eng.onXpt_live (e : Eng) (f : XptRt → XptRt) : (e.onXpt f).live = e.live := rfl
@[simp] theorem Eng.onXpt_shad (e : Eng) (f : XptRt → XptRt) : (e.onXpt f).shad = e.shad := rfl
@[simp] theorem Eng.onXpt_flt (e : Eng) (f : XptRt → XptRt) : (e.onXpt f).flt = e.flt := rfl
@[simp] theorem Eng.onXpt_resp (e : Eng) (f : XptRt → XptRt) : (e.onXpt f).resp = e.resp := rfl
@[simp] theorem Eng.onXpt_latch (e : Eng) (f : XptRt → XptRt) : (e.onXpt f).latch = e.latch := rfl
@[simp] theorem Eng.onXpt_snap (e : Eng) (f : XptRt → XptRt) : (e.onXpt f).snap = e.snap := rfl
@[simp] theorem Eng.onXpt_tixC (e : Eng) (f : XptRt → XptRt) : (e.onXpt f).tixC = e.tixC := rfl
@[simp] theorem Eng.onXpt_tixA (e : Eng) (f : XptRt → XptRt) : (e.onXpt f).tixA = e.tixA := rfl
@[simp] theorem Eng.onXpt_dev (e : Eng) (f : XptRt → XptRt) : (e.onXpt f).dev = e.dev := rfl
@[simp] theorem Eng.onXpt_fused (e : Eng) (f : XptRt → XptRt) : (e.onXpt f).fused = e.fused := rfl
@[simp] theorem Eng.onXpt_tb (e : Eng) (f : XptRt → XptRt) : (e.onXpt f).tb = e.tb := rfl
@[simp] theorem Eng.onXpt_cyc (e : Eng) (f : XptRt → XptRt) : (e.onXpt f).cyc = e.cyc := rfl
@[simp] theorem Eng.onXpt_cnv (e : Eng) (f : XptRt → XptRt) : (e.onXpt f).cnv = e.cnv := rfl
@[simp] theorem Eng.onXpt_cal (e : Eng) (f : XptRt → XptRt) : (e.onXpt f).cal = e.cal := rfl
@[simp] theorem Eng.onXpt_fch (e : Eng) (f : XptRt → XptRt) : (e.onXpt f).fch = e.fch := rfl
@[simp] theorem Eng.onXpt_trg (e : Eng) (f : XptRt → XptRt) : (e.onXpt f).trg = e.trg := rfl
@[simp] theorem Eng.onXpt_acq (e : Eng) (f : XptRt → XptRt) : (e.onXpt f).acq = e.acq := rfl
@[simp] theorem Eng.onXpt_his (e : Eng) (f : XptRt → XptRt) : (e.onXpt f).his = e.his := rfl
@[simp] theorem Eng.onXpt_tileRs (e : Eng) (f : XptRt → XptRt) : (e.onXpt f).tileRs = e.tileRs := rfl
@[simp] theorem Eng.onXpt_tileNext (e : Eng) (f : XptRt → XptRt) : (e.onXpt f).tileNext = e.tileNext := rfl
@[simp] theorem Eng.onXpt_dmc (e : Eng) (f : XptRt → XptRt) : (e.onXpt f).dmc = e.dmc := rfl
@[simp] theorem Eng.onXpt_bucket (e : Eng) (f : XptRt → XptRt) : (e.onXpt f).bucket = e.bucket := rfl
@[simp] theorem Eng.onXpt_retrainQ (e : Eng) (f : XptRt → XptRt) : (e.onXpt f).retrainQ = e.retrainQ := rfl
@[simp] theorem Eng.onXpt_mapNext (e : Eng) (f : XptRt → XptRt) : (e.onXpt f).mapNext = e.mapNext := rfl
@[simp] theorem Eng.onXpt_mapGood (e : Eng) (f : XptRt → XptRt) : (e.onXpt f).mapGood = e.mapGood := rfl
@[simp] theorem Eng.onXpt_ckT (e : Eng) (f : XptRt → XptRt) : (e.onXpt f).ckT = e.ckT := rfl
@[simp] theorem Eng.onXpt_mapBad (e : Eng) (f : XptRt → XptRt) : (e.onXpt f).mapBad = e.mapBad := rfl
@[simp] theorem Eng.onXpt_epoch (e : Eng) (f : XptRt → XptRt) : (e.onXpt f).epoch = e.epoch := rfl
@[simp] theorem Eng.onXpt_mcv (e : Eng) (f : XptRt → XptRt) : (e.onXpt f).mcv = e.mcv := rfl
@[simp] theorem Eng.onXpt_wcp (e : Eng) (f : XptRt → XptRt) : (e.onXpt f).wcp = e.wcp := rfl
@[simp] theorem Eng.onXpt_evr (e : Eng) (f : XptRt → XptRt) : (e.onXpt f).evr = e.evr := rfl
@[simp] theorem Eng.onXpt_sfe (e : Eng) (f : XptRt → XptRt) : (e.onXpt f).sfe = e.sfe := rfl
@[simp] theorem Eng.onXpt_dmq (e : Eng) (f : XptRt → XptRt) : (e.onXpt f).dmq = e.dmq := rfl
@[simp] theorem Eng.onXpt_dma (e : Eng) (f : XptRt → XptRt) : (e.onXpt f).dma = e.dma := rfl
@[simp] theorem Eng.onXpt_dmaStop (e : Eng) (f : XptRt → XptRt) : (e.onXpt f).dmaStop = e.dmaStop := rfl
@[simp] theorem Eng.onXpt_spiErr (e : Eng) (f : XptRt → XptRt) : (e.onXpt f).spiErr = e.spiErr := rfl
@[simp] theorem Eng.onXpt_mln (e : Eng) (f : XptRt → XptRt) : (e.onXpt f).mln = e.mln := rfl
@[simp] theorem Eng.onXpt_key (e : Eng) (f : XptRt → XptRt) : (e.onXpt f).key = e.key := rfl
@[simp] theorem Eng.onXpt_tim (e : Eng) (f : XptRt → XptRt) : (e.onXpt f).tim = e.tim := rfl
@[simp] theorem Eng.onXpt_use (e : Eng) (f : XptRt → XptRt) : (e.onXpt f).use = e.use := rfl
@[simp] theorem Eng.onXpt_tap (e : Eng) (f : XptRt → XptRt) : (e.onXpt f).tap = e.tap := rfl
@[simp] theorem Eng.onXpt_rst (e : Eng) (f : XptRt → XptRt) : (e.onXpt f).rst = e.rst := rfl
@[simp] theorem Eng.onXpt_bud (e : Eng) (f : XptRt → XptRt) : (e.onXpt f).bud = e.bud := rfl
@[simp] theorem Eng.onXpt_drains (e : Eng) (f : XptRt → XptRt) : (e.onXpt f).drains = e.drains := rfl
@[simp] theorem Eng.onXpt_drainB (e : Eng) (f : XptRt → XptRt) : (e.onXpt f).drainB = e.drainB := rfl
@[simp] theorem Eng.onXpt_grpReady (e : Eng) (f : XptRt → XptRt) : (e.onXpt f).grpReady = e.grpReady := rfl
@[simp] theorem Eng.onXpt_unmasked (e : Eng) (f : XptRt → XptRt) : (e.onXpt f).unmasked = e.unmasked := rfl
@[simp] theorem Eng.onXpt_msiPend (e : Eng) (f : XptRt → XptRt) : (e.onXpt f).msiPend = e.msiPend := rfl
@[simp] theorem Eng.onXpt_sent (e : Eng) (f : XptRt → XptRt) : (e.onXpt f).sent = e.sent := rfl
@[simp] theorem Eng.onXpt_freeCtr (e : Eng) (f : XptRt → XptRt) : (e.onXpt f).freeCtr = e.freeCtr := rfl
@[simp] theorem Eng.onXpt_get (e : Eng) (f : XptRt → XptRt) (p : Nat) (x : Fld) : (e.onXpt f).get p x = e.get p x := rfl
@[simp] theorem Eng.onXpt_sh (e : Eng) (f : XptRt → XptRt) (p : Nat) (x : Fld) : (e.onXpt f).sh p x = e.sh p x := rfl
@[simp] theorem Eng.onSfe_sfe (e : Eng) (i : Fin 4) (f : SfeRt → SfeRt) : (e.onSfe i f).sfe = upd e.sfe i f := rfl
@[simp] theorem Eng.onSfe_live (e : Eng) (i : Fin 4) (f : SfeRt → SfeRt) : (e.onSfe i f).live = e.live := rfl
@[simp] theorem Eng.onSfe_shad (e : Eng) (i : Fin 4) (f : SfeRt → SfeRt) : (e.onSfe i f).shad = e.shad := rfl
@[simp] theorem Eng.onSfe_flt (e : Eng) (i : Fin 4) (f : SfeRt → SfeRt) : (e.onSfe i f).flt = e.flt := rfl
@[simp] theorem Eng.onSfe_resp (e : Eng) (i : Fin 4) (f : SfeRt → SfeRt) : (e.onSfe i f).resp = e.resp := rfl
@[simp] theorem Eng.onSfe_latch (e : Eng) (i : Fin 4) (f : SfeRt → SfeRt) : (e.onSfe i f).latch = e.latch := rfl
@[simp] theorem Eng.onSfe_snap (e : Eng) (i : Fin 4) (f : SfeRt → SfeRt) : (e.onSfe i f).snap = e.snap := rfl
@[simp] theorem Eng.onSfe_tixC (e : Eng) (i : Fin 4) (f : SfeRt → SfeRt) : (e.onSfe i f).tixC = e.tixC := rfl
@[simp] theorem Eng.onSfe_tixA (e : Eng) (i : Fin 4) (f : SfeRt → SfeRt) : (e.onSfe i f).tixA = e.tixA := rfl
@[simp] theorem Eng.onSfe_dev (e : Eng) (i : Fin 4) (f : SfeRt → SfeRt) : (e.onSfe i f).dev = e.dev := rfl
@[simp] theorem Eng.onSfe_fused (e : Eng) (i : Fin 4) (f : SfeRt → SfeRt) : (e.onSfe i f).fused = e.fused := rfl
@[simp] theorem Eng.onSfe_tb (e : Eng) (i : Fin 4) (f : SfeRt → SfeRt) : (e.onSfe i f).tb = e.tb := rfl
@[simp] theorem Eng.onSfe_cyc (e : Eng) (i : Fin 4) (f : SfeRt → SfeRt) : (e.onSfe i f).cyc = e.cyc := rfl
@[simp] theorem Eng.onSfe_cnv (e : Eng) (i : Fin 4) (f : SfeRt → SfeRt) : (e.onSfe i f).cnv = e.cnv := rfl
@[simp] theorem Eng.onSfe_cal (e : Eng) (i : Fin 4) (f : SfeRt → SfeRt) : (e.onSfe i f).cal = e.cal := rfl
@[simp] theorem Eng.onSfe_fch (e : Eng) (i : Fin 4) (f : SfeRt → SfeRt) : (e.onSfe i f).fch = e.fch := rfl
@[simp] theorem Eng.onSfe_trg (e : Eng) (i : Fin 4) (f : SfeRt → SfeRt) : (e.onSfe i f).trg = e.trg := rfl
@[simp] theorem Eng.onSfe_acq (e : Eng) (i : Fin 4) (f : SfeRt → SfeRt) : (e.onSfe i f).acq = e.acq := rfl
@[simp] theorem Eng.onSfe_his (e : Eng) (i : Fin 4) (f : SfeRt → SfeRt) : (e.onSfe i f).his = e.his := rfl
@[simp] theorem Eng.onSfe_tileRs (e : Eng) (i : Fin 4) (f : SfeRt → SfeRt) : (e.onSfe i f).tileRs = e.tileRs := rfl
@[simp] theorem Eng.onSfe_tileNext (e : Eng) (i : Fin 4) (f : SfeRt → SfeRt) : (e.onSfe i f).tileNext = e.tileNext := rfl
@[simp] theorem Eng.onSfe_dmc (e : Eng) (i : Fin 4) (f : SfeRt → SfeRt) : (e.onSfe i f).dmc = e.dmc := rfl
@[simp] theorem Eng.onSfe_bucket (e : Eng) (i : Fin 4) (f : SfeRt → SfeRt) : (e.onSfe i f).bucket = e.bucket := rfl
@[simp] theorem Eng.onSfe_retrainQ (e : Eng) (i : Fin 4) (f : SfeRt → SfeRt) : (e.onSfe i f).retrainQ = e.retrainQ := rfl
@[simp] theorem Eng.onSfe_mapNext (e : Eng) (i : Fin 4) (f : SfeRt → SfeRt) : (e.onSfe i f).mapNext = e.mapNext := rfl
@[simp] theorem Eng.onSfe_mapGood (e : Eng) (i : Fin 4) (f : SfeRt → SfeRt) : (e.onSfe i f).mapGood = e.mapGood := rfl
@[simp] theorem Eng.onSfe_ckT (e : Eng) (i : Fin 4) (f : SfeRt → SfeRt) : (e.onSfe i f).ckT = e.ckT := rfl
@[simp] theorem Eng.onSfe_mapBad (e : Eng) (i : Fin 4) (f : SfeRt → SfeRt) : (e.onSfe i f).mapBad = e.mapBad := rfl
@[simp] theorem Eng.onSfe_epoch (e : Eng) (i : Fin 4) (f : SfeRt → SfeRt) : (e.onSfe i f).epoch = e.epoch := rfl
@[simp] theorem Eng.onSfe_mcv (e : Eng) (i : Fin 4) (f : SfeRt → SfeRt) : (e.onSfe i f).mcv = e.mcv := rfl
@[simp] theorem Eng.onSfe_wcp (e : Eng) (i : Fin 4) (f : SfeRt → SfeRt) : (e.onSfe i f).wcp = e.wcp := rfl
@[simp] theorem Eng.onSfe_evr (e : Eng) (i : Fin 4) (f : SfeRt → SfeRt) : (e.onSfe i f).evr = e.evr := rfl
@[simp] theorem Eng.onSfe_xpt (e : Eng) (i : Fin 4) (f : SfeRt → SfeRt) : (e.onSfe i f).xpt = e.xpt := rfl
@[simp] theorem Eng.onSfe_dmq (e : Eng) (i : Fin 4) (f : SfeRt → SfeRt) : (e.onSfe i f).dmq = e.dmq := rfl
@[simp] theorem Eng.onSfe_dma (e : Eng) (i : Fin 4) (f : SfeRt → SfeRt) : (e.onSfe i f).dma = e.dma := rfl
@[simp] theorem Eng.onSfe_dmaStop (e : Eng) (i : Fin 4) (f : SfeRt → SfeRt) : (e.onSfe i f).dmaStop = e.dmaStop := rfl
@[simp] theorem Eng.onSfe_spiErr (e : Eng) (i : Fin 4) (f : SfeRt → SfeRt) : (e.onSfe i f).spiErr = e.spiErr := rfl
@[simp] theorem Eng.onSfe_mln (e : Eng) (i : Fin 4) (f : SfeRt → SfeRt) : (e.onSfe i f).mln = e.mln := rfl
@[simp] theorem Eng.onSfe_key (e : Eng) (i : Fin 4) (f : SfeRt → SfeRt) : (e.onSfe i f).key = e.key := rfl
@[simp] theorem Eng.onSfe_tim (e : Eng) (i : Fin 4) (f : SfeRt → SfeRt) : (e.onSfe i f).tim = e.tim := rfl
@[simp] theorem Eng.onSfe_use (e : Eng) (i : Fin 4) (f : SfeRt → SfeRt) : (e.onSfe i f).use = e.use := rfl
@[simp] theorem Eng.onSfe_tap (e : Eng) (i : Fin 4) (f : SfeRt → SfeRt) : (e.onSfe i f).tap = e.tap := rfl
@[simp] theorem Eng.onSfe_rst (e : Eng) (i : Fin 4) (f : SfeRt → SfeRt) : (e.onSfe i f).rst = e.rst := rfl
@[simp] theorem Eng.onSfe_bud (e : Eng) (i : Fin 4) (f : SfeRt → SfeRt) : (e.onSfe i f).bud = e.bud := rfl
@[simp] theorem Eng.onSfe_drains (e : Eng) (i : Fin 4) (f : SfeRt → SfeRt) : (e.onSfe i f).drains = e.drains := rfl
@[simp] theorem Eng.onSfe_drainB (e : Eng) (i : Fin 4) (f : SfeRt → SfeRt) : (e.onSfe i f).drainB = e.drainB := rfl
@[simp] theorem Eng.onSfe_grpReady (e : Eng) (i : Fin 4) (f : SfeRt → SfeRt) : (e.onSfe i f).grpReady = e.grpReady := rfl
@[simp] theorem Eng.onSfe_unmasked (e : Eng) (i : Fin 4) (f : SfeRt → SfeRt) : (e.onSfe i f).unmasked = e.unmasked := rfl
@[simp] theorem Eng.onSfe_msiPend (e : Eng) (i : Fin 4) (f : SfeRt → SfeRt) : (e.onSfe i f).msiPend = e.msiPend := rfl
@[simp] theorem Eng.onSfe_sent (e : Eng) (i : Fin 4) (f : SfeRt → SfeRt) : (e.onSfe i f).sent = e.sent := rfl
@[simp] theorem Eng.onSfe_freeCtr (e : Eng) (i : Fin 4) (f : SfeRt → SfeRt) : (e.onSfe i f).freeCtr = e.freeCtr := rfl
@[simp] theorem Eng.onSfe_get (e : Eng) (i : Fin 4) (f : SfeRt → SfeRt) (p : Nat) (x : Fld) : (e.onSfe i f).get p x = e.get p x := rfl
@[simp] theorem Eng.onSfe_sh (e : Eng) (i : Fin 4) (f : SfeRt → SfeRt) (p : Nat) (x : Fld) : (e.onSfe i f).sh p x = e.sh p x := rfl

end Sys2Proof.Machine
end

