-- ==== Sys2Proof/Tests/Slice0.lean ====
section
/-! SUPPORT. Tests: ill-formed commands that WellFormed refuses, examples of the manual, and for each statement with hypotheses a
state and operands that meet them. -/
open Sys2Proof Sys2Proof.Machine

namespace Sys2Proof.Tests
set_option Elab.async false

/-- One engine change on a state. -/
def State.on (s : State) (f : Eng → Eng) : State := { s with eng := f s.eng }

/-- A running engine: fuses loaded, RS locked, READY, budgets open, the map good, nothing enabled. -/
def up : State :=
  State.on State.reset fun e =>
    { ((((((((((e.put Pg.CLK CLK.REF_FREQ.FREQ 100000000).put Pg.CLK CLK.SYN_MOD.NMOD 1).put Pg.CLK CLK.SYN_DIV.NINT 200).put Pg.ENG ENG.STS.READY 1).put Pg.CLK CLK.STS.LOCK 1).put Pg.SPI SPI.STS.PRELOCK 0).put Pg.BUD BUD.BUDGET.CORE 1000).put
      Pg.BUD BUD.BUDGET.ADC 1000).put Pg.ARR ARR.STS.MAP_OK 1).put Pg.XPT HDR.CTL.EN 1) with fused := true }

/-- An emergency with boost held. -/
def hotE : Eng :=
  { (up.eng.put Pg.BUD BUD.STS.EMERG 1).put Pg.BUD (BUD.DTS.TEMP 0) 119 with bud := { up.eng.bud with boost := 4, target := 30 } }

/-- Partition 2 created and READY; DRAM of 64 granules. -/
def partE : Eng := (up.eng.put Pg.PRT (PRT.P_STATE.STATE 2) 1).put Pg.DMX DMX.CAP.GRAN 64

/-- DRAM of 64 granules in service on eight channels, unit 2 enabled and set to capture 256 samples on sequencer 0. -/
def armE : Eng :=
  let e := units8.foldl (fun a d => a.put (Pg.DMC d) DMC.STS.STATE 2) up.eng
  { ((((((e.put Pg.DMX DMX.CAP.GRAN 64).put (Pg.ACQ 2) HDR.CTL.EN 1).put (Pg.ACQ 2) ACQ.MODE.CAP 1).put (Pg.ACQ 2) ACQ.TRIG.TRG_EN 1).put (Pg.ACQ 2) ACQ.MEM_SIZE.U256 64).put
      (Pg.ACQ 2) ACQ.SEG.LEN64 4) with mapGood := [0, 1, 2, 3, 4, 5, 6, 7] }

/-- A confirmed segment with all its samples. -/
def capSeg : Seg := { Seg.blank 0 0 with len := 256, data := List.replicate 256 ⟨7, true⟩, conf := some ⟨0, 1, 0, 0, 0, false, false, false⟩ }

/-- Unit 2 armed with that segment open. -/
def capE : Eng :=
  { (armE.put (Pg.ACQ 2) ACQ.STS.ARMED 1).put (Pg.ACQ 2) ACQ.STATE.STATE 3 with acq := upd armE.acq 2 fun a => { a with seg := some capSeg } }

/-- A stream block, and unit 2 streaming into a ring of four blocks of 4 KiB. -/
def strBlk : Blk := ⟨0, List.replicate 9 ⟨3, true⟩, 0, 200, 0, false, false, false⟩
def strE : Eng :=
  { ((armE.put (Pg.ACQ 2) ACQ.STS.ARMED 1).put (Pg.ACQ 2) ACQ.STR_CFG.BLK 12).put (Pg.ACQ 2) ACQ.STR_SIZE.U256 64 with
    acq := upd armE.acq 2 fun a => { a with blks := [strBlk] } }

/-- Eight DRAM channels populated, channel 4 in service with one read queued. -/
def dmcE : Eng :=
  { (up.eng.put Pg.DMX DMX.POP.N 8).put (Pg.DMC 4) DMC.STS.STATE 2 with
    dmc := upd up.eng.dmc 4 fun r => { r with queue := [⟨2, 0, false, 3, 77, 5, false, .segment 2⟩] } }

/-- Unit 2 of partition 2 streams to ring 4; rings 4 and 5 of the partition hold an entry, the link is up. -/
def ringE : Eng :=
  let e := ((((strE.put Pg.PRT (PRT.P_STATE.STATE 2) 1).put Pg.PRT (PRT.GRANT_ACQ.OWNER 2) 2).put (Pg.ACQ 2) ACQ.MODE.STR 1).put
    (Pg.ACQ 2) ACQ.STR_CFG.DEST 1).put Pg.PRT (PRT.P_REGION.COUNT 2) 1
  ((((e.put (Pg.DMQ 4) HDR.CTL.EN 1).put (Pg.DMQ 4) DMQ.TAIL.IDX 1).put (Pg.DMQ 5) HDR.CTL.EN 1).put (Pg.DMQ 5) DMQ.TAIL.IDX 1).put
    Pg.PCI PCI.STS.LINK_UP 1

/-- Bytes laid into a sender's mailbox. -/
def withMail (e : Eng) (who : Src) (env : List Byte) : Eng :=
  (List.range 18).foldl (fun a w => a.put (vw who.code Pg.KEY) (KEY.ENV.BYTES w) (ofLE ((env.drop (4 * w)).take 4))) e

/-- The host's mailbox holds command `cmd` with counter 1 and the given ARG bytes, signed with slot 0, which holds every class. -/
def mailE (cmd : Nat) (args : List Nat) : Eng :=
  let e := { up.eng with key := { up.eng.key with slots := up.eng.key.slots.set 0 ⟨List.replicate 32 0x5A, 15, 1⟩ } }
  let body := leBytes 2 0x4658 ++ leBytes 1 1 ++ leBytes 1 cmd ++ leBytes 1 0 ++ leBytes 1 0 ++ leBytes 2 0 ++ leBytes 8 1 ++
    args.flatMap (leBytes 1) ++ List.replicate (40 - args.length) (0 : Byte)
  withMail e .host (body ++ (hmac (e.keySlot 0).key (e.keyPrefix ++ body)).take 16)

/-- The manager's mailbox holds the first KEY_ROTATE: slot 1, every class (R338). -/
def provE : Eng :=
  withMail up.eng .manager (leBytes 2 0x4658 ++ leBytes 1 1 ++ leBytes 1 5 ++ leBytes 1 1 ++ leBytes 1 15 ++ leBytes 2 0 ++ leBytes 8 1 ++
    leBytes 2 0x0F01 ++ List.replicate 54 (0 : Byte))

/-- A day past a boundary of the 28th, after the meter was timed on 2026-01-10. -/
def useE : Eng :=
  let e := (((up.eng.put Pg.USE USE.STS.TIMED 1).put Pg.USE USE.BOUND.DAY 28).put Pg.USE USE.LAST_B.SEC (86400 * dayNumber 2026 1 10)).put
    Pg.USE USE.NEXT_B.SEC (86400 * dayNumber 2026 1 28)
  { e with tb := 86400 * dayNumber 2026 1 29 * unitsPerSec }

/-- A framed follower at position 2, aligned, with a waiting ARM and a received trigger. -/
def mlnE : Eng :=
  let e := ((((((up.eng.put Pg.MLN0 HDR.CTL.EN 1).put Pg.MLN1 HDR.CTL.EN 1).put Pg.MLN0 MLN0.STS.FRAMED 1).put Pg.MLN0 MLN0.STS.POSITIONED 1).put
    Pg.MLN0 MLN0.STS.ALIGNED 1).put Pg.MLN0 MLN0.CFG.ROLE 2).put Pg.MLN0 MLN0.POS.POS 2
  { e.put Pg.MLN0 (MLN0.ARMMAP.ACQ 0) 32 with
    mln := { e.mln with timeHi := some 5, rate := some 7, fifo := [⟨1, 0, 9, 5⟩], arms := [(1, 77)] } }

/-- The test port in a state and with an instruction, and one cycle of TCK waiting, TMS and TDI 0. -/
def tckE (st : TapSt) (ir : TapInstr) (rst : Bool) : Eng :=
  { up.eng with tap := { up.eng.tap with st := st, ir := ir, wait := [⟨false, false, false, rst⟩] } }

/-- Unit 2 armed and in outrun. -/
def outE : Eng := (armE.put (Pg.ACQ 2) ACQ.STS.ARMED 1).put (Pg.ACQ 2) ACQ.STATE.STATE 7

/-- The host's group holds converter channel 0 and is pending. -/
def grpE : Eng := (up.eng.put (vw 8 Pg.ENG) (ENG.GRP_PAGE.PAGES 0) (2 ^ 16)).put (vw 8 Pg.ENG) ENG.GRP_STS.PENDING 1

/-- An emergency with no boost held. -/
def coolE : Eng := { hotE with bud := { hotE.bud with boost := 0 } }

/-- A result of a block that waits for cycle 16. -/
def calP : CalPend := ⟨[], false, -220, [], 3, 1, true⟩

/-- A positioned follower that speaks, with a frame to send. -/
def mlnSpeaker : Eng := { mlnE with mln := { mlnE.mln with tx := [(0, 5)] } }

/-! ### Ill-formed commands, one for each check of WellFormed; each is refused -/

/-- Block statistics with four loops for each core and eight guard points, and the faults of them. -/
def stats (err : List (List Int)) (guard : List Nat) : BlockStats := ⟨err, 600, 0, guard, 900, -400⟩

theorem ill_registerWrite_unaligned : Instr.wf (.registerWrite .host 5 0x43 0 none) = false := by decide +kernel
theorem ill_registerWrite_rival : Instr.wf (.registerWrite .host 5 0x40 0 (some ⟨.manager, 5, 0x41, 0⟩)) = false := by decide +kernel
theorem ill_latchWrite_unaligned : Instr.wf (.multiwordLatchWrite .host 5 0x42 0) = false := by decide +kernel
theorem ill_snapshotRead_unaligned : Instr.wf (.multiwordSnapshotRead .manager 5 0x41) = false := by decide +kernel
theorem ill_grantWrite_unaligned : Instr.wf (.grantWrite .host 0x306 0) = false := by decide +kernel
theorem ill_qosWrite_unaligned : Instr.wf (.qosWrite .host 0x301 0) = false := by decide +kernel
theorem ill_retuneDone_eyes : Instr.wf (.retuneDone [0, 8]) = false := by decide +kernel
theorem ill_dtsSample_sensors : Instr.wf (.dtsSample (List.replicate 7 (some 50))) = false := by decide +kernel
theorem ill_datapathWord_sample : Instr.wf (.datapathWord 0 0 [2048] 0) = false := by decide +kernel
theorem ill_datapathWord_clips : Instr.wf (.datapathWord 0 0 [5] 2) = false := by decide +kernel
theorem ill_calBlockEnd_loops : Instr.wf (.calBlockEnd 0 (stats [[0, 0, 0]] (List.replicate 8 2000))) = false := by decide +kernel
theorem ill_calBlockEnd_guard : Instr.wf (.calBlockEnd 0 (stats [[0, 0, 0, 0]] [2000])) = false := by decide +kernel
theorem ill_warmupEnd_loops : Instr.wf (.warmupEnd 0 true [[0, 0, 0, 0], [0]]) = false := by decide +kernel
theorem ill_ckhLoopEval_dividers : Instr.wf (.ckhLoopEval [5]) = false := by decide +kernel
theorem ill_dramRequest_unit : Instr.wf (.dramRequest 0 ⟨.bar2 8, false, 0x1F0, 32⟩) = false := by decide +kernel
theorem ill_dramCommandIssue_bank : Instr.wf (.dramCommandIssue 0 0 [32] 0) = false := by decide +kernel
theorem ill_snowplough_row : Instr.wf (.snowplough 0 0 (2 ^ 17)) = false := by decide +kernel
theorem ill_throttleDouble_row : Instr.wf (.throttleDouble 0 0 (2 ^ 17)) = false := by decide +kernel
theorem ill_bar2Read_empty : Instr.wf (.bar2Read .host 0 0 false) = false := by decide +kernel
theorem ill_bar2Write_empty : Instr.wf (.bar2Write .host 0 []) = false := by decide +kernel
theorem ill_descStream_multiple : Instr.wf (.descStream 4 ⟨⟨100, 2, false, 0⟩, []⟩) = false := by decide +kernel
theorem ill_descRead_short : Instr.wf (.descRead 4 ⟨⟨0, 0, false, 0⟩, []⟩ false) = false := by decide +kernel
theorem ill_descComplete_long : Instr.wf (.descComplete 4 ⟨2 ^ 24 + 64, 0, false, 0⟩) = false := by decide +kernel
theorem ill_descWrite_offset : Instr.wf (.descWrite 4 ⟨⟨64, 1, false, 32⟩, []⟩ (List.replicate 64 0)) = false := by decide +kernel
theorem ill_descWrite_bytes : Instr.wf (.descWrite 4 ⟨⟨64, 1, false, 0⟩, []⟩ (List.replicate 63 0)) = false := by decide +kernel
theorem ill_descRead_heads : Instr.wf (.descRead 4 ⟨⟨64, 1, false, 0⟩, [(5, ⟨10, 1, false, 0⟩)]⟩ false) = false := by decide +kernel
theorem ill_numvfsWrite : Instr.wf (.numvfsWrite 9 true true) = false := by decide +kernel
theorem ill_fuseLoadDone_slot : Instr.wf (.fuseLoadDone 1 [4] true) = false := by decide +kernel
theorem wf_descWrite : Instr.wf (.descWrite 4 ⟨⟨64, 1, false, 128⟩, [(5, ⟨128, 1, false, 64⟩)]⟩ (List.replicate 64 0)) = true := by decide +kernel
theorem wf_calBlockEnd : Instr.wf (.calBlockEnd 0 (stats [[0, 0, 0, 0]] (List.replicate 8 2000))) = true := by decide +kernel

/-! ### Worked examples of the manual, and published vectors of the hash it names -/

/-- Current budget, "Worked case": four EYE units and 372 held VDD_CORE tickets, budget 400, RESERVE 16, dividers 24 to 48. -/
def boostE : Eng :=
  let e := ((((((up.eng.put Pg.BUD BUD.BUDGET.CORE 400).put Pg.BUD BUD.BUDGET.ADC 160).put Pg.BUD BUD.CKH_LOOP.EN 1).put Pg.BUD
    BUD.CKH_LOOP.RESERVE 16).put Pg.CLK CLK.CKH.MIN_DIV 24).put Pg.CLK CLK.CKH.MAX_DIV 48).put Pg.CLK CLK.CKH.DIV 48
  let f := (List.range 4).foldl (fun a h => (a.put (Pg.HIS h) HDR.CTL.EN 1).put (Pg.HIS h) HIS.CFG.TYPE 1) e
  f.setTix 0 372 0

/-- Step 1: the loop takes 12 boost tickets and its target is 37. -/
def slack25 : List Int := List.replicate 25 500

theorem ex_boost_target : (boostE.ckhEval slack25).bud.target = 37 ∧ (boostE.ckhEval slack25).bud.boost = 12 := by decide +kernel

/-- Steps 2 and 3: 19 tickets are granted against boost; three steps of the divider, 37 to 40, bring free to 1, and it stays there. -/
def reclaimE : Eng := ((boostE.ckhEval slack25).put Pg.CLK CLK.CKH.DIV 37).setTix 1 19 0

theorem ex_boost_reclaim :
    reclaimE.freeC = -3 ∧ reclaimE.ckhStep.ckhStep.ckhStep.div = 40 ∧ reclaimE.ckhStep.ckhStep.ckhStep.bud.boost = 8 ∧
      reclaimE.ckhStep.ckhStep.ckhStep.freeC = 1 ∧ reclaimE.ckhStep.ckhStep.ckhStep.ckhStep.div = 40 := by decide +kernel

/-- Step 6: three more tickets against one free are refused for the budget. -/
theorem ex_boost_refusal : (boostE.setTix 1 27 0).tixCause ⟨[(Pg.TRG 4, 3, 0)], 9, Pg.TRG 4, true⟩ = some 0 := by decide +kernel

/-- Ticket costs at ARR = S (the second "For instance" of the current budget). -/
theorem ex_costs_single :
    up.eng.costAt 2 48 false (Pg.CNV 0) = (24, 132) ∧ up.eng.costAt 2 48 false (Pg.CAL 0) = (16, 0) ∧
      (up.eng.put (Pg.ACQ 0) ACQ.MODE.CAP 1).costAt 2 48 false (Pg.ACQ 0) = (10, 0) := by decide +kernel

/-- R106: code 1447 is stored as P10 362 and P8 90; code +2047 saturates. -/
theorem ex_stored : stored 1 23152 = 362 ∧ stored 0 23152 = 90 ∧ stored 1 32752 = 511 ∧ stored 0 32752 = 127 := by decide +kernel

/-- R108: four P10 samples fill 5 bytes, the earliest lowest. -/
theorem ex_packed : packed 1 [64, 0, 0, -64] = [1, 0, 0, 0xC0, 0xFF] := by decide +kernel

/-- R98: the sampling order of a channel's cores. -/
theorem ex_cores : coresIn false 0 1 = [4, 5, 6, 7] ∧ coresIn false 1 2 = [8, 9, 10, 11, 12, 13, 14, 15] ∧ coresIn false 1 1 = [] := by
  decide +kernel

/-- R124: a tone of period 64 at 16 cores shows 4 phases: PERIODIC fires; with no period it does not. -/
theorem ex_periodic :
    ((up.eng.put Pg.ARR ARR.ARR.MODE 2).put (Pg.CAL 0) CAL.ACTIVITY.PHASE_MIN 32).detectors 0 ⟨[], 0, 64, [], 0, 0⟩ % 4 / 2 = 1 ∧
      ((up.eng.put Pg.ARR ARR.ARR.MODE 2).put (Pg.CAL 0) CAL.ACTIVITY.PHASE_MIN 32).detectors 0 ⟨[], 0, 0, [], 0, 0⟩ % 4 / 2 = 0 := by
  decide +kernel

/-- Eight channels of two 32 Gb ranks, and the same with channel 5 taken out (R222, R223, R239). -/
def mapE : Eng :=
  let e := (up.eng.put (Pg.DMC 0) DMC.DEV.DENS 2).put (Pg.DMC 0) DMC.DEV.RANKS2 1
  { e with mapGood := [0, 1, 2, 3, 4, 5, 6, 7] }

theorem ex_place8 : mapE.place (10 * granule + 0x1A40) = (2, 0x14000340) ∧ mapE.bankRow 0x14000340 = (0, 0x2800) ∧ mapE.granFor 8 = 256 := by
  decide +kernel
theorem ex_place7 :
    ({ mapE with mapGood := [0, 1, 2, 3, 4, 6, 7] } : Eng).place (10 * granule + 0x1A40) = (6, 0x16DB7540) ∧ mapE.granFor 7 = 223 := by
  decide +kernel

/-- R326: a budget contest goes to the lower figure, one of CLK.CKH to the host; equal acknowledgements do not contest. -/
theorem ex_contest :
    settle Pg.BUD 0x44 (160 * 2 ^ 16 + 380) (160 * 2 ^ 16 + 360) = .manager true ∧ settle Pg.CLK 0x58 (30 * 2 ^ 8) (28 * 2 ^ 8) = .host false ∧
      up.eng.contests Pg.FLT 0x44 5 5 = false := by decide +kernel

/-- R350: the table of staged dates. -/
def dateE (y m d h : Nat) : Eng :=
  ((((up.eng.put Pg.TIM TIM.SETCTL.SEL 1).put Pg.TIM TIM.CAL_SET1.YEAR y).put Pg.TIM TIM.CAL_SET1.MONTH m).put Pg.TIM
    TIM.CAL_SET1.DAY d).put Pg.TIM TIM.CAL_SET0.HOUR h

theorem ex_dates :
    [(dateE 2000 2 29 12).setErr, (dateE 2024 2 29 0).setErr, (dateE 2023 2 29 0).setErr, (dateE 2100 2 29 0).setErr, (dateE 2031 4 31 8).setErr,
      (dateE 2031 13 1 0).setErr, (dateE 2031 6 0 0).setErr, (dateE 2031 6 15 24).setErr, (dateE 2400 1 1 0).setErr] = [0, 0, 1, 1, 1, 1, 1, 1, 2] := by
  decide +kernel

/-- FIPS 180-4: the digest of the three bytes "abc"; the first test case of RFC 4231. -/
theorem ex_sha256 : (sha256 [0x61, 0x62, 0x63]).take 8 = [0xBA, 0x78, 0x16, 0xBF, 0x8F, 0x01, 0xCF, 0xEA] := by decide +kernel
theorem ex_hmac :
    (hmac (List.replicate 20 0x0B) [0x48, 0x69, 0x20, 0x54, 0x68, 0x65, 0x72, 0x65]).take 8 = [0xB0, 0x34, 0x4C, 0x61, 0xD8, 0xDB, 0x38, 0x53] := by
  decide +kernel

/-- R423: Capture-DR under IDCODE loads 0x1648_07A5, whose lowest bit leaves first; EXTEST with RESET_N high is BYPASS and leaves the
balls to the engine, with RESET_N low it drives them from the cells. -/
theorem test_tap_idcode :
    (tckE .capDr .idcode false).tckCycle.tap.drSh.take 8 = [true, false, true, false, false, true, false, true] ∧
      (tckE .capDr .idcode false).tckCycle.tap.drSh.drop 16 =
        [false, false, false, true, false, false, true, false, false, true, true, false, true, false, false, false] ∧
      (tckE .capDr .idcode false).tckCycle.tap.tdo = some true := by decide +kernel
theorem test_tap_extest :
    (tckE .capDr .extest false).tckCycle.tap.drSh = [false] ∧ (tckE .idle .extest false).tckCycle.tap.drive = .engine ∧
      (tckE .idle .extest true).tckCycle.tap.drive = .cells ∧ (tckE .idle .highz true).tckCycle.tap.drive = .highz := by decide +kernel

/-- R169: an interpolation rounds down with a negative denominator as well. -/
theorem test_completion_floors :
    (completion { up.eng.trg[0].lead with prev := some (3, 3) } ⟨0, 0, true, 256, 1⟩ 1 (some 2) 0).frac = 85 := by decide +kernel

/-! ### For each statement with hypotheses, what meets them -/

theorem meets_stepRunsTheFrontCommand_1 :
    ({ up with pending := [.idxEdge, .resetN] } : State).pending = .idxEdge :: [.resetN] := by decide +kernel
theorem meets_emptyQueueLetsOneCkcCyclePass_1 :
    up.pending = [] ∧ up.eng.lock = true ∧ up.eng.tb + up.eng.ckcPeriod < 2 ^ 48 * unitsPerSec := by decide +kernel
theorem meets_emptyQueueLetsOneCkcCyclePass_2 :
    State.reset.pending = [] ∧ State.reset.eng.lock = false ∧ State.reset.eng.retune = false := by decide +kernel
theorem meets_emptyQueueLetsOneCkcCyclePass_3 :
    up.pending = [] ∧ (tckE .capDr .idcode false).tap.wait = [⟨false, false, false, false⟩] ∧ (tckE .capDr .idcode false).tap.st = .capDr ∧ (tckE .capDr .idcode false).tap.ir = .idcode ∧ (tckE .capDr .extest false).tap.ir ∈ [TapInstr.extest, .clamp, .highz] := by decide +kernel
theorem meets_dramStaysCanonical_1 :
    up.wf ∧ ∃ t, step up = .next t := ⟨rfl, _, rfl⟩
theorem meets_onlyStoringCommandsChangeDram_1 :
    Instr.storesDram .idxEdge = false ∧ ∃ t, exec .idxEdge up = .next t := ⟨rfl, _, rfl⟩
theorem meets_takenWriteStoresItsFields_1 :
    up.eng.plainTakes .host (Pg.FCH 0) 0x84 5 := by unfold Eng.plainTakes; decide +kernel
theorem meets_wideWordIsLatchedAndTakenWhole_1 :
    up.eng.plainTakes .host Pg.XPT 0x4C 7 ∧ ∃ r ∈ rowsAt (kindOf Pg.XPT) 0x4C, r.direct = true ∧ r.f.words = 2 ∧ r.f.off = 0x4C := ⟨by unfold Eng.plainTakes; decide +kernel, ⟨XPT.LOAD.VAL, .rw, 0, 0, 2 ^ 48 - 1, false⟩, by decide +kernel⟩
theorem meets_wideWordIsLatchedAndTakenWhole_2 :
    ({ up.eng with latch := [(wordKey Pg.XPT 0x4C, 9)] } : Eng).plainTakes .host Pg.XPT 0x50 7 ∧ Store.get [(wordKey Pg.XPT 0x4C, 9)] (wordKey Pg.XPT 0x4C) noWord = 9 := ⟨by unfold Eng.plainTakes; decide +kernel, by decide +kernel⟩
theorem meets_readShowsTheWordAndCapturesTheRest_1 :
    up.eng.readDenied .host Pg.TIM 0x40 = none ∧ captured Pg.TIM 0x70 = [0x74] ∧ isUpper Pg.TIM 0x74 = true := by decide +kernel
theorem meets_enableAndLockBits_1 :
    up.eng.ctlDenied .host (Pg.HIS 0) 0x10 = none ∧ kindOf (Pg.HIS 0) ≠ .dma ∧ up.eng.en (Pg.HIS 0) = false ∧ up.eng.enCode .host (Pg.HIS 0) = none ∧ up.eng.tixCause (up.eng.enReq (Pg.HIS 0)) = none := by decide +kernel
theorem meets_enableAndLockBits_2 :
    up.eng.denied .host Pg.XPT 0x10 true = none ∧ up.eng.busyFor .host Pg.XPT = false ∧ kindOf Pg.XPT ≠ .dma ∧ fixedEn Pg.XPT = false ∧ up.eng.en Pg.XPT = true ∧ up.eng.servesOutrun Pg.XPT = false ∧ up.eng.xpt.deferred = [] := by decide +kernel
theorem meets_enableAndLockBits_3 :
    up.eng.ctlDenied .host Pg.XPT 0x10 = none ∧ up.eng.busyFor .host Pg.XPT = false := by decide +kernel
theorem meets_enableAndLockBits_4 :
    (outE.put Pg.XPT HDR.CTL.EN 1).servesOutrun Pg.XPT = true ∧ (outE.put Pg.XPT HDR.CTL.EN 1).denied .host Pg.XPT 0x10 true = none ∧ (outE.put Pg.XPT HDR.CTL.EN 1).busyFor .host Pg.XPT = false ∧ fixedEn Pg.XPT = false ∧ kindOf Pg.DMA = .dma ∧ up.eng.ctlDenied .host Pg.DMA 0x10 = none ∧ up.eng.busyFor .host Pg.DMA = false := by decide +kernel
theorem meets_commitWaitsThenAppliesOrIsWithdrawn_1 :
    up.eng.ctlDenied .host (Pg.CNV 0) 0x10 = none ∧ up.eng.cmtCode [Pg.CNV 0] (Pg.CNV 0) (up.eng.cmtOf .host (Pg.CNV 0)) = none ∧ up.eng.busyFor .host (Pg.CNV 0) = false ∧ up.eng.tixCause (up.eng.cmtReq [Pg.CNV 0] 8) = none := by decide +kernel
theorem meets_commitWaitsThenAppliesOrIsWithdrawn_2 :
    (up.eng.put (Pg.CNV 0) HDR.STS.PENDING 1).bit (Pg.CNV 0) HDR.STS.PENDING = true ∧ (up.eng.put (Pg.CNV 0) HDR.STS.PENDING 1).waitsPower (Pg.CNV 0) = false ∧ (up.eng.put (Pg.CNV 0) HDR.STS.PENDING 1).atPoint (Pg.CNV 0) = true := by decide +kernel
theorem meets_commitWaitsThenAppliesOrIsWithdrawn_3 :
    (up.eng.put (Pg.CNV 0) HDR.STS.PENDING 1).denied .host (Pg.CNV 0) 0x10 true = none ∧ (up.eng.put (Pg.CNV 0) HDR.STS.PENDING 1).busyFor .host (Pg.CNV 0) = false := by decide +kernel
theorem meets_commitWaitsThenAppliesOrIsWithdrawn_4 :
    ((grpE.put (Pg.CNV 0) HDR.STS.PENDING 1).put (Pg.CNV 0) HDR.STS.GROUPED 1).bit (hdrPage 0x10 8) HDR.STS.GROUPED = true ∧ viewOwner 8 = 8 ∧ grpE.grpPending 8 = true ∧ 0x10 ∈ grpE.grpMembers 8 ∧ ((grpE.put (Pg.CNV 0) HDR.STS.PENDING 1).put (Pg.CNV 0) HDR.STS.GROUPED 1).denied .host 0x10 0x10 true = none ∧ ((grpE.put (Pg.CNV 0) HDR.STS.PENDING 1).put (Pg.CNV 0) HDR.STS.GROUPED 1).busyFor .host 0x10 = false := by decide +kernel
theorem meets_groupCommitsTogether_1 :
    (up.eng.put (vw 8 Pg.ENG) (ENG.GRP_PAGE.PAGES 0) (2 ^ 16)).grpMembers 8 = [0x10] ∧ (up.eng.put (vw 8 Pg.ENG) (ENG.GRP_PAGE.PAGES 0) (2 ^ 16)).grpCode .host [0x10] = none ∧ (up.eng.put (vw 8 Pg.ENG) (ENG.GRP_PAGE.PAGES 0) (2 ^ 16)).denied .host Pg.ENG 0xA0 false = none ∧ (up.eng.put (vw 8 Pg.ENG) (ENG.GRP_PAGE.PAGES 0) (2 ^ 16)).busyFor .host Pg.ENG = false ∧ up.eng.grpPending 8 = false ∧ (up.eng.put (vw 8 Pg.ENG) (ENG.GRP_PAGE.PAGES 0) (2 ^ 16)).tixCause ((up.eng.put (vw 8 Pg.ENG) (ENG.GRP_PAGE.PAGES 0) (2 ^ 16)).grpReq [0x10] 8) = none := by decide +kernel
theorem meets_groupCommitsTogether_2 :
    ((up.eng.put (vw 8 Pg.ENG) (ENG.GRP_PAGE.PAGES 0) (2 ^ 16)).put (vw 8 Pg.ENG) ENG.GRP_STS.PENDING 1).grpPending 8 = true ∧ ((up.eng.put (vw 8 Pg.ENG) (ENG.GRP_PAGE.PAGES 0) (2 ^ 16)).put (vw 8 Pg.ENG) ENG.GRP_STS.PENDING 1).atHold 0x10 = true ∧ ((up.eng.put (vw 8 Pg.ENG) (ENG.GRP_PAGE.PAGES 0) (2 ^ 16)).put (vw 8 Pg.ENG) ENG.GRP_STS.PENDING 1).grpAllReady 8 = false := by decide +kernel
theorem meets_groupCommitsTogether_3 :
    ({ ((up.eng.put (vw 8 Pg.ENG) (ENG.GRP_PAGE.PAGES 0) (2 ^ 16)).put (vw 8 Pg.ENG) ENG.GRP_STS.PENDING 1) with grpReady := [(8, 0x10)] } : Eng).grpAllReady 8 = true := by decide +kernel
theorem meets_retuneRunsFromCommitToReady_1 :
    up.eng.denied .host Pg.CLK 0x10 false = none ∧ up.eng.synOk = true ∧ up.eng.quiescent = true ∧ up.eng.busyFor .host Pg.CLK = false ∧ up.eng.bit Pg.CLK HDR.STS.PENDING = false ∧ up.eng.retune = false := by decide +kernel
theorem meets_retuneRunsFromCommitToReady_2 :
    (up.eng.put Pg.CLK CLK.STS.RETUNE 1).retune = true ∧ (up.eng.put Pg.CLK CLK.STS.RETUNE 1).bit Pg.CLK CLK.STS.HOLDOVER = false ∧ (up.eng.put Pg.CLK CLK.STS.RETUNE 1).lock = true ∧ (up.eng.put Pg.CLK CLK.STS.RETUNE 1).bit Pg.CLK HDR.STS.PENDING = false ∧ up.eng.bud.trip = false ∧ up.eng.xpt.deferred = [] := by decide +kernel
theorem meets_retuneRunsFromCommitToReady_3 :
    (up.eng.put Pg.CLK CLK.STS.RETUNE 1).ready = true ∧ ((up.eng.put Pg.DMX DMX.POP.N 8).put Pg.DMX DMX.STS.INIT_DONE 1).readyHeld = false := by decide +kernel
theorem meets_referenceMeasuredAgainstTolerance_1 :
    up.eng.fused = true ∧ 100000000 < 2 ^ 28 := by decide +kernel
theorem meets_lossOfLockStopsEverything_1 :
    up.eng.lock = true ∧ up.eng.xpt.deferred = [] := by decide +kernel
theorem meets_lossOfLockStopsEverything_2 :
    (up.eng.put Pg.CLK CLK.STS.HOLDOVER 1).lock = true ∧ (up.eng.put Pg.CLK CLK.STS.HOLDOVER 1).bit Pg.CLK CLK.STS.HOLDOVER = true := by decide +kernel
theorem meets_accumulationDividerFollowsItsTarget_1 :
    up.eng.denied .host Pg.CLK 0x58 false = none ∧ up.eng.busyFor .host Pg.CLK = false ∧ up.eng.tixCause (up.eng.hisReq 48) = none ∧ 24 = (BitVec.ofNat 32 (24 * 2 ^ 8 + 48 * 2 ^ 16)).toNat / 2 ^ 8 % 64 := by decide +kernel
theorem meets_accumulationDividerFollowsItsTarget_2 :
    up.eng.ckhRuns = true ∧ (∀ h : Fin 8, up.eng.en (Pg.HIS h) = false) ∧ (up.eng.put (Pg.HIS 0) HDR.CTL.EN 1).en (Pg.HIS 0) = true := by decide +kernel
theorem meets_accumulationDividerFollowsItsTarget_3 :
    up.eng.lock = true ∧ 0 ≤ up.eng.freeC ∧ up.eng.maxDiv < 64 ∧ up.eng.div < 64 ∧ up.eng.get Pg.CLK CLK.CKH.MIN_DIV ≤ up.eng.bud.target ∧ up.eng.bud.target ≤ up.eng.maxDiv := by decide +kernel
theorem meets_accumulationDividerFollowsItsTarget_4 :
    (up.eng.put Pg.CLK CLK.CKH.DIV 47).ckhRuns = true ∧ (up.eng.put Pg.CLK CLK.CKH.DIV 47).div < (up.eng.put Pg.CLK CLK.CKH.DIV 47).maxDiv := by decide +kernel
theorem meets_accumulationDividerFollowsItsTarget_5 :
    reclaimE.lock = true ∧ reclaimE.freeC < 0 ∧ 0 < reclaimE.bud.boost ∧ reclaimE.div < reclaimE.maxDiv ∧ reclaimE.maxDiv < 64 ∧ boostE.ckhRuns = true ∧ ((boostE.put Pg.CLK CLK.CKH.DIV 30).div < (boostE.put Pg.CLK CLK.CKH.DIV 30).maxDiv) := by decide +kernel
theorem meets_accumulationDividerFollowsItsTarget_6 :
    (∀ d, (boostE.ckhEval slack25).bud.target = d → (boostE.boostAt d : Int) ≤ max 0 (boostE.freeC + boostE.bud.boost - boostE.get Pg.BUD BUD.CKH_LOOP.RESERVE) ∧ 24 ≤ d) ∧ (boostE.ckhEval slack25).bud.target ≠ boostE.maxDiv ∧ boostE.en (Pg.HIS 0) = true := by
  refine ⟨fun d h => ?_, by decide +kernel, by decide +kernel⟩
  subst h
  decide +kernel
theorem meets_budgetLimitsAreStored_1 :
    up.eng.denied .manager Pg.BUD 0x40 false = none ∧ up.eng.busyFor .manager Pg.BUD = false ∧ 720 = (BitVec.ofNat 32 (720 + 140 * 2 ^ 16)).toNat % 1024 ∧ 140 = (BitVec.ofNat 32 (720 + 140 * 2 ^ 16)).toNat / 2 ^ 16 % 1024 := by decide +kernel
theorem meets_budgetLimitsAreStored_2 :
    up.eng.denied .host Pg.BUD 0x44 false = none ∧ up.eng.busyFor .host Pg.BUD = false ∧ 256 ≤ up.eng.get Pg.BUD BUD.LIMIT.CORE ∧ 140 ≤ up.eng.get Pg.BUD BUD.LIMIT.ADC := by decide +kernel
theorem meets_supplyLoopMovesTheVoltage_1 :
    (up.eng.put Pg.BUD BUD.AVS_CFG.EN 1).avsOn = true ∧ up.eng.get Pg.BUD BUD.VCORE.MV < 1024 ∧ up.eng.get Pg.BUD BUD.AVS_LIM.MIN < 1024 ∧ up.eng.get Pg.BUD BUD.AVS_LIM.MAX < 1024 := by decide +kernel
theorem meets_supplyLoopMovesTheVoltage_2 :
    (up.eng.put Pg.BUD BUD.XCHK.EN 1).bit Pg.BUD BUD.XCHK.EN = true ∧ (up.eng.put Pg.BUD BUD.XCHK.EN 1).urgentHeld 0 0 = false ∧ up.eng.starting = false ∧ up.eng.lock = true := by decide +kernel
theorem meets_temperatureShedsAndTrips_1 :
    up.eng.fused = true ∧ up.eng.rst.held = none ∧ up.eng.xpt.deferred = [] ∧ up.eng.bud.trip = false ∧ up.eng.bud.dtsFail.contains 7 = false := by decide +kernel
theorem meets_temperatureShedsAndTrips_2 :
    hotE.bit Pg.BUD BUD.STS.EMERG = true ∧ hotE.hot hotE.emergT = true ∧ hotE.bud.trip = false ∧ hotE.bud.boost ≠ 0 ∧ ¬(hotE.bud.frozen = true ∧ hotE.bud.target = hotE.maxDiv) ∧ hotE.xpt.deferred = [] := by decide +kernel
theorem meets_temperatureShedsAndTrips_3 :
    ((coolE.put (Pg.ACQ 5) HDR.CTL.EN 1).lastAcq (fun u => (coolE.bit (Pg.ACQ u) ACQ.MODE.CAP == false) && coolE.outrunAcq != some u) = some 5) ∧ coolE.bud.boost = 0 ∧ coolE.hot coolE.emergT = true ∧ coolE.bit Pg.BUD BUD.STS.EMERG = true ∧ (((List.range 8).map Pg.FCH ++ (List.range 8).map Pg.TRG).filter fun q => (coolE.put (Pg.FCH 3) HDR.CTL.EN 1).en q && !(coolE.put (Pg.FCH 3) HDR.CTL.EN 1).usedUnits.contains q) = [Pg.FCH 3] ∧ 2 ∉ coolE.usedChans := by decide +kernel
theorem meets_grantsTapsAndShares_1 :
    partE.denied .host Pg.PRT 0x310 false = none ∧ partE.busyFor .host Pg.PRT = false ∧ partE.xpt.deferred = [] ∧ (∀ x ∈ (grantCells 0x310).zipIdx, partE.nibbleRange x.1 ((0x88888888 - 8 + 2) / 16 ^ x.2 % 16) = false ∧ partE.nibbleBusy x.1 ((0x88888888 - 8 + 2) / 16 ^ x.2 % 16) = false) := by decide +kernel
theorem meets_grantsTapsAndShares_2 :
    partE.denied .host Pg.PRT 0x304 false = none ∧ partE.busyFor .host Pg.PRT = false ∧ partE.taps 0 2 = false ∧ partE.created 2 = true ∧ partE.owner (Pg.CNV 0) ≠ 2 := by decide +kernel
theorem meets_grantsTapsAndShares_3 :
    2 < partE.nParts ∧ partE.denied .host Pg.PRT (0x10C + 0x40 * 2) false = none ∧ (∀ m : Fin 8, overlaps 0 4 (partE.get Pg.PRT (PRT.P_REGION.BASE m)) (partE.get Pg.PRT (PRT.P_REGION.COUNT m)) = false) ∧ 4 ≤ partE.capacity ∧ (∀ u : Fin 8, partE.en (Pg.ACQ u) = false ∧ partE.en (Pg.HIS u) = false) ∧ (∀ i : Fin 16, partE.en (Pg.DMQ i) = false) := by decide +kernel
theorem meets_grantsTapsAndShares_4 :
    partE.denied .host Pg.PRT (0x110 + 0x40 * 2) false = none ∧ partE.denied .host Pg.PRT (0x114 + 0x40 * 2) false = none ∧ partE.denied .host Pg.PRT (0x118 + 0x40 * 2) false = none ∧ (∀ c : Fin 4, 0x401111 / 16 ^ c.val % 16 ≠ 0) ∧ 0x401111 / 2 ^ 16 % 128 = 64 := by decide +kernel
theorem meets_partitionStatesAndLeases_1 :
    2 < partE.nParts ∧ partE.partState 2 = 1 ∧ partE.denied .host Pg.PRT (0x108 + 0x40 * 2) false = none ∧ partE.busyFor .host Pg.PRT = false ∧ partE.xpt.deferred = [] := by decide +kernel
theorem meets_partitionStatesAndLeases_2 :
    (partE.put Pg.PRT (PRT.P_STATE.STATE 2) 3).partState 2 = 3 ∧ partE.drains = [] := by decide +kernel
theorem meets_partitionStatesAndLeases_3 :
    (partE.put Pg.PRT (PRT.P_STATE.STATE 2) 2).partState 2 = 2 ∧ (partE.put Pg.PRT (PRT.P_STATE.STATE 2) 2).denied .host Pg.PRT (0x108 + 0x40 * 2) false = none := by decide +kernel
theorem meets_partitionStatesAndLeases_4 :
    partE.denied (.part 2) Pg.PRT 0x44 false = none ∧ partE.busyFor (.part 2) Pg.PRT = false := by decide +kernel
theorem meets_drainsEndOrAreCutShort_1 :
    ({ partE with drains := [⟨2, .reset⟩] } : Eng).drained 2 = true ∧ ∃ d ∈ ({ partE with drains := [⟨2, .reset⟩] } : Eng).drains, d.part = 2 := by decide +kernel
theorem meets_drainsEndOrAreCutShort_2 :
    up.eng.flt.length = 32 ∧ ∃ i : Fin 28, (up.eng.flt.getD i FltRec.free).isFree = true := by decide +kernel
theorem meets_drainsEndOrAreCutShort_3 :
    ({ armE.put Pg.PRT (PRT.GRANT_ACQ.OWNER 2) 2 with acq := upd armE.acq 2 fun a => { a with done := [capSeg] }, drains := [⟨2, .reset⟩], drainB := [(2, 2 ^ 60)] } : Eng).budgetSpent 2 = true := by decide +kernel
theorem meets_sampleWordsReachChainsAndClipCount_1 :
    up.eng.wordLen 0 ≠ 0 ∧ up.eng.xpt.deferred = [] ∧ ((up.eng.put (Pg.CNV 0) HDR.CTL.EN 1).put (Pg.CNV 0) CNV.STS.UP 1).wordOk 0 = true ∧ up.eng.wordOk 0 = false ∧ (up.eng.put (Pg.FCH 0) HDR.CTL.EN 1).en (Pg.FCH 0) = true ∧ up.eng.get (Pg.FCH 0) FCH.INPUT.CH = (0 : Fin 4).val := by decide +kernel
theorem meets_sampleWordsReachChainsAndClipCount_2 :
    (up.eng.put (Pg.CNV 3) CNV.STS.SETTLING 1).bit (Pg.CNV 3) CNV.STS.SETTLING = true ∧ up.eng.cnv[3].left = 0 := by decide +kernel
theorem meets_channelsPowerUpAndKeepTheirMap_1 :
    ({ up.eng.put (Pg.CNV 1) HDR.CTL.EN 1 with cnv := upd up.eng.cnv 1 fun r => { r with upWait := true } } : Eng).en (Pg.CNV 1) = true ∧ (upd up.eng.cnv 1 fun r => { r with upWait := true })[1].upWait = true ∧ up.eng.bud.powerWait.contains (Pg.CNV 1) = false := by decide +kernel
theorem meets_channelsPowerUpAndKeepTheirMap_2 :
    up.eng.sh Pg.ARR ARR.ARR.MODE = 2 ∧ up.eng.denied .host Pg.ARR 0x10 false = none ∧ up.eng.busyFor .host Pg.ARR = false ∧ up.eng.quiescent = true ∧ up.eng.arrBusy 2 = false ∧ up.eng.cmtPending Pg.ARR 8 = false ∧ up.eng.tixCause (up.eng.arrReq 2) = none := by decide +kernel
theorem meets_channelsPowerUpAndKeepTheirMap_3 :
    up.eng.xpt.deferred = [] := by decide +kernel
theorem meets_calibrationBlocksAndTheirUpdate_1 :
    (up.eng.put (Pg.CAL 2) CAL.STS.RUN 1).bit (Pg.CAL 2) CAL.STS.RUN = true ∧ up.eng.cal[2].dirty = false ∧ (upd up.eng.cal 2 fun r => { r with dirty := true })[2].dirty = true := by decide +kernel
theorem meets_calibrationBlocksAndTheirUpdate_2 :
    (upd up.eng.cal 2 fun r => { r with pend := some calP })[2].pend = some calP ∧ (coresIn up.eng.dev.ly6440 up.eng.arr 2).contains 12 = false := by decide +kernel
theorem meets_calibrationBlocksAndTheirUpdate_3 :
    (((upd up.eng.cal 2 fun r => { r with loops := [⟨0, false, true, 10 ^ 40, false⟩] })[2].loops.getD 0 LoopRt.fresh).starved = true ∧ up.eng.get (Pg.CAL 2) CAL.LIMITS.STARVE_MS * unitsPerMs ≤ 10 ^ 40) := by decide +kernel
theorem meets_calibrationBlocksAndTheirUpdate_4 :
    up.eng.bit (Pg.CAL 2) CAL.STS.CONVERGED = false ∧ up.eng.bit (Pg.CAL 2) CAL.STS.BAD = false ∧ up.eng.get (Pg.CAL 2) CAL.LIMITS.TMO_MS * unitsPerMs ≤ 10 ^ 40 := by decide +kernel
theorem meets_calibrationResetsAndDeclaredLevels_1 :
    up.eng.denied .host (Pg.CAL 1) 0x40 false = none ∧ up.eng.busyFor .host (Pg.CAL 1) = false ∧ up.eng.en (Pg.CNV 1) = false ∧ (up.eng.put (Pg.CAL 1) HDR.CTL.EN 1).en (Pg.CAL 1) = true ∧ up.eng.suspended .host = false ∧ ((up.eng.put (Pg.CAL 1) HDR.CTL.EN 1).put (Pg.CAL 1) CAL.STS.REWARM 1).tixCause (((up.eng.put (Pg.CAL 1) HDR.CTL.EN 1).put (Pg.CAL 1) CAL.STS.REWARM 1).reqFor false (Pg.CAL 1)) = none := by decide +kernel
theorem meets_calibrationResetsAndDeclaredLevels_2 :
    (up.eng.put (Pg.CAL 1) CAL.STS.REWARM 1).bit (Pg.CAL 1) CAL.STS.REWARM = true ∧ (4, 0) ∈ (coresIn false 0 1).zipIdx := by decide +kernel
theorem meets_calibrationResetsAndDeclaredLevels_3 :
    (up.eng.put (Pg.CAL 1) CAL.DECL_STS.STATE 2).get (Pg.CAL 1) CAL.DECL_STS.STATE = 2 ∧ (([0] : List Int).map (up.eng.measured 1)).all (·.isSome) = false := by decide +kernel
theorem meets_converterAndCalibrationFrames_1 :
    ∃ t, exec (.settleEnd 0) up = .next t := ⟨_, rfl⟩
theorem meets_chainsDeliverTheirValues_1 :
    ({ up.eng.put (Pg.FCH 2) HDR.CTL.EN 1 with fch := upd up.eng.fch 2 fun r => { r with hist := List.replicate 8 ⟨5, true⟩ } } : Eng).en (Pg.FCH 2) = true ∧ min ((upd up.eng.fch 2 fun r => { r with hist := List.replicate 8 ⟨5, true⟩ })[2].base + 8 - up.eng.fch[2].sN) (up.eng.wordLen (fin4 (up.eng.get (Pg.FCH 2) FCH.INPUT.CH))) ≠ 0 := by decide +kernel
theorem meets_chainsDeliverTheirValues_2 :
    (upd up.eng.fch 2 fun r => { r with hist := List.replicate 8 ⟨5, true⟩, run := true })[2].run = true ∧ 0 + 0 * up.eng.get (Pg.FCH 2) FCH.DEC.RATIO < 0 + 8 := by decide +kernel
theorem meets_chainsDeliverTheirValues_3 :
    (upd up.eng.fch 2 fun r => { r with flush := 1 })[2].flush = 1 ∧ up.eng.fch[2].run = false := by decide +kernel
theorem meets_chainsDeliverTheirValues_4 :
    ((up.eng.put (Pg.FCH 2) FCH.DET.PK 1).put (Pg.FCH 2) FCH.PK_HOLD.N 7).get (Pg.FCH 2) FCH.PK_HOLD.N = 7 ∧ 7 ≤ (upd up.eng.fch 2 fun r => { r with pkN := 7, pkExt := some (-3, 4) })[2].pkN ∧ (upd up.eng.fch 2 fun r => { r with pkN := 7, pkExt := some (-3, 4) })[2].pkExt = some (-3, 4) := by decide +kernel
theorem meets_coefficientRamDetectorsAndRomCheck_1 :
    up.eng.denied .host (Pg.FCH 4) 0x58 false = none ∧ up.eng.busyFor .host (Pg.FCH 4) = false ∧ up.eng.en (Pg.FCH 4) = false := by decide +kernel
theorem meets_coefficientRamDetectorsAndRomCheck_2 :
    up.eng.readDenied .host (Pg.FCH 4) 0x58 = none := by decide +kernel
theorem meets_coefficientRamDetectorsAndRomCheck_3 :
    up.eng.denied .host (Pg.FCH 4) 0x84 false = none := by decide +kernel
theorem meets_coefficientRamDetectorsAndRomCheck_4 :
    (((up.eng.put (Pg.FCH 4) HDR.CTL.EN 1).put (Pg.FCH 4) FCH.DEC.MODE 2).put (Pg.FCH 4) FCH.RESP.SRC 1).fchRam false (Pg.FCH 4) = true := by decide +kernel
theorem meets_coefficientRamDetectorsAndRomCheck_5 :
    up.eng.flt.length = 32 ∧ ∃ i : Fin 28, (up.eng.flt.getD i FltRec.free).isFree = true := by decide +kernel
theorem meets_chainFrames_1 :
    ∃ t, exec (.fromCheck true) up = .next t := ⟨_, rfl⟩
theorem meets_tentativeTriggersAndTheirResolution_1 :
    (upd up.eng.trg 5 fun r => { r with due := some ⟨256, 0, 0, false, false⟩ })[5].due = some ⟨256, 0, 0, false, false⟩ ∧ (up.eng.put (Pg.TRG 5) HDR.CTL.EN 1).en (Pg.TRG 5) = true ∧ up.eng.trg[5].tent = none ∧ up.eng.leadIdle 5 = false := by decide +kernel
theorem meets_tentativeTriggersAndTheirResolution_2 :
    (upd up.eng.trg 5 fun r => { r with tent := some ⟨256, 0, 0, false, true⟩ })[5].tent = some ⟨256, 0, 0, false, true⟩ ∧ up.eng.trg[5].abort = false := by decide +kernel
theorem meets_tentativeTriggersAndTheirResolution_3 :
    (up.eng.put (Pg.TRG 5) HDR.CTL.EN 1).denied .host (Pg.TRG 5) 0x68 false = none ∧ up.eng.busyFor .host (Pg.TRG 5) = false ∧ (up.eng.put (Pg.TRG 5) HDR.CTL.EN 1).en (Pg.TRG 5) = true := by decide +kernel
theorem meets_gatesHoldoffAndSequencerFaults_1 :
    ((up.eng.put (Pg.TRG 1) HDR.CTL.EN 1).put (Pg.TRG 1) (TRG.GATE_TMAX.SAMPLES 0) 9).get (Pg.TRG 1) (TRG.GATE_TMAX.SAMPLES 0) ≠ 0 ∧ up.eng.trg[1].lead.gate = 0 ∧ up.eng.trg[1].held = false ∧ up.eng.trg[1].fault = false ∧ up.eng.trg[1].comp = none ∧ up.eng.trg[1].hold = false ∧ up.eng.trg[1].due = none ∧ up.eng.trg[1].tent = none ∧ (up.eng.put (Pg.TRG 1) HDR.CTL.EN 1).leadIdle 1 = false ∧ branch 0x1F = .fire ∧ branch 15 = .go 15 ∧ branch 0x1E = .stay := by decide +kernel
theorem meets_gatesHoldoffAndSequencerFaults_2 :
    ((up.eng.put (Pg.TRG 1) HDR.CTL.EN 1).put (Pg.TRG 1) TRG.HOLD_MODE.MODE 1).get (Pg.TRG 1) TRG.HOLD_MODE.MODE = 1 ∧ (upd up.eng.trg 1 fun r => { r with hold := true })[1].hold = true := by decide +kernel
theorem meets_gatesHoldoffAndSequencerFaults_3 :
    up.eng.denied .host (Pg.TRG 1) 0x68 false = none ∧ up.eng.busyFor .host (Pg.TRG 1) = false := by decide +kernel
theorem meets_gatesHoldoffAndSequencerFaults_4 :
    (up.eng.put (Pg.TRG 1) TRG.STS.SYNC_LOCK 1).bit (Pg.TRG 1) TRG.STS.SYNC_LOCK = true := by decide +kernel
theorem meets_sequencerFrames_1 :
    ∃ t, exec (.syncLost 3) up = .next t := ⟨_, rfl⟩
theorem meets_acquisitionsArmCaptureAndEnd_1 :
    armE.denied .host (Pg.ACQ 2) 0x60 false = none ∧ armE.busyFor .host (Pg.ACQ 2) = false ∧ armE.armCode 2 = none := by decide +kernel
theorem meets_acquisitionsArmCaptureAndEnd_2 :
    (capE.segReady 2 = true ∧ capE.xpt.deferred = [] ∧ capE.armed 2 = true ∧ capE.acq[2].ending = 0 ∧ capE.get (Pg.ACQ 2) ACQ.STATE.STATE ≠ 7 ∧ capE.bit (Pg.ACQ 2) ACQ.SEG_COUNT.WRAP = false ∧ capE.get (Pg.ACQ 2) ACQ.SEG_COUNT.COUNT = capE.acq[2].seq + 1) := by decide +kernel
theorem meets_acquisitionsArmCaptureAndEnd_3 :
    capE.armed 2 = true ∧ (upd capE.acq 2 fun a => { a with rearm := true })[2].rearm = true ∧ capE.grpOf (Pg.ACQ 2) = none := by decide +kernel
theorem meets_acquisitionsArmCaptureAndEnd_4 :
    capE.denied .host (Pg.ACQ 2) 0x60 false = none ∧ capE.busyFor .host (Pg.ACQ 2) = false ∧ capE.armed 2 = true ∧ capE.acq[2].ending = 0 ∧ capE.acq[2].postAt ≠ some capE.cyc ∧ (∀ g ∈ capE.acq[2].seg, g.conf.isSome = true) ∧ armE.armed 2 = false ∧ (upd armE.acq 2 fun a => { a with postAt := some armE.cyc })[2].postAt = some armE.cyc ∧ armE.denied .host (Pg.ACQ 2) 0x60 false = none ∧ armE.busyFor .host (Pg.ACQ 2) = false := by decide +kernel
theorem meets_acquisitionsArmCaptureAndEnd_6 :
    (capE.put (Pg.ACQ 2) HDR.STS.PENDING 1).bit (Pg.ACQ 2) HDR.STS.PENDING = true ∧ (((capE.put (vw 8 Pg.ENG) (ENG.GRP_PAGE.PAGES (Pg.ACQ 2 / 32)) (2 ^ (Pg.ACQ 2 % 32))).put (vw 8 Pg.ENG) ENG.GRP_STS.PENDING 1).grpOf (Pg.ACQ 2)).isSome = true := by decide +kernel
theorem meets_acquisitionsArmCaptureAndEnd_5 :
    ({ capE with acq := upd capE.acq 2 fun a => { a with overrun := true, seg := none } } : Eng).overDone 2 = true := by decide +kernel
theorem meets_streamsAndSegmentsAreWritten_1 :
    (upd capE.acq 2 fun a => { a with done := [capSeg] })[2].done = [capSeg] ∧ capE.degradedAt (capE.segAt 2 capSeg).1 = false ∧ capE.drains? (capE.owner (Pg.ACQ 2)) = false ∧ capE.dramShut = false ∧ capE.takesWrite (capE.segAt 2 capSeg).1 = true := by decide +kernel
theorem meets_streamsAndSegmentsAreWritten_2 :
    strE.acq[2].blks = [strBlk] ∧ strE.bit (Pg.ACQ 2) ACQ.STR_CFG.DEST = false ∧ strE.ringRoom 2 = true ∧ strE.dramShut = false ∧ strE.acq[2].ending ≠ 6 := by decide +kernel
theorem meets_streamsAndSegmentsAreWritten_3 :
    strE.denied .host (Pg.ACQ 2) 0x84 false = none ∧ strE.busyFor .host (Pg.ACQ 2) = false ∧ (0 : Nat) < strE.ringBlocks 2 := by decide +kernel
theorem meets_recordsFoldAndUnitsComplete_1 :
    (upd up.eng.his 6 fun r => { r with on := true, cur := some ⟨0, 4, 4, [], 0, false⟩ })[6].cur = some ⟨0, 4, 4, [], 0, false⟩ ∧ up.eng.freeRun 6 = false ∧ (up.eng.put (Pg.HIS 6) HIS.CFG.TYPE 1).freeRun 6 = true := by decide +kernel
theorem meets_recordsFoldAndUnitsComplete_2 :
    (upd up.eng.his 6 fun r => { r with fold := some ⟨0, 4, 4, [], 0, false⟩ })[6].fold = some ⟨0, 4, 4, [], 0, false⟩ ∧ up.eng.bit (Pg.HIS 6) HIS.STS.DONE = false ∧ up.eng.xpt.deferred = [] ∧ (up.eng.put (Pg.HIS 6) HIS.CFG.TYPE 2).get (Pg.HIS 6) HIS.CFG.TYPE = 2 ∧ up.eng.his[6].queue = 0 := by decide +kernel
theorem meets_recordsFoldAndUnitsComplete_3 :
    capE.armed 2 = true ∧ (upd capE.acq 2 fun a => { a with post := some 5, n := 9, seg := none })[2].post = some 5 ∧ 5 ≤ (upd capE.acq 2 fun a => { a with post := some 5, n := 9, seg := none })[2].n ∧ capE.get (Pg.ACQ 2) ACQ.STATE.STATE ≠ 7 ∧ capE.acq[2].ending = 0 := by decide +kernel
theorem meets_recordsFoldAndUnitsComplete_4 :
    (upd capE.his 6 fun r => { r with on := true })[6].on = true ∧ (capE.put (Pg.HIS 6) HIS.CFG.ACQ 2).armed ((capE.put (Pg.HIS 6) HIS.CFG.ACQ 2).acqOf 6) = true := by decide +kernel
theorem meets_snapshotsClearsAndMasks_1 :
    up.eng.denied .host (Pg.HIS 3) 0x70 false = none ∧ up.eng.busyFor .host (Pg.HIS 3) = false ∧ up.eng.his[3].on = false ∧ up.eng.his[3].loading = false ∧ (up.eng.put Pg.DMX DMX.CAP.GRAN 1).masksIn 3 = true := by decide +kernel
theorem meets_snapshotsClearsAndMasks_2 :
    (upd up.eng.his 3 fun r => { r with snapping := true })[3].snapping = true ∧ ((up.eng.put Pg.DMX DMX.CAP.GRAN 64).put (Pg.HIS 3) HIS.MEM_SIZE.U256 17000).dramShut = false ∧ ((up.eng.put Pg.DMX DMX.CAP.GRAN 64).put (Pg.HIS 3) HIS.MEM_SIZE.U256 17000).hisAreaOk 3 = true ∧ up.eng.drains? (up.eng.owner (Pg.HIS 3)) = false := by decide +kernel
theorem meets_snapshotsClearsAndMasks_3 :
    (upd up.eng.his 3 fun r => { r with loading := true })[3].loading = true ∧ up.eng.his[3].badCol = none ∧ (upd up.eng.his 3 fun r => { r with loading := true, badCol := some (2, 40) })[3].badCol = some (2, 40) := by decide +kernel
theorem meets_captureAndAccumulationFrames_1 :
    ∃ t, exec (.snapshotDone 3) up = .next t := ⟨_, rfl⟩
theorem meets_dramQueuesServiceAndRefresh_1 :
    fin8 (({ dmcE with mapGood := [0, 1, 2, 3, 4, 5, 6, 7] } : Eng).place 0x400).1 = 4 ∧ 0x400 / granule < (dmcE.put Pg.DMX DMX.CAP.GRAN 64).gran ∧ dmcE.gran ≤ 0x400 / granule ∧ dmcE.queues 4 = true ∧ dmcE.dmcState 4 ≠ 4 ∧ dmcE.bit Pg.DMX DMX.STS.IECC = false ∧ (dmcE.put Pg.DMX DMX.STS.IECC 1).bit Pg.DMX DMX.STS.IECC = true ∧ (∀ w : Bool, (dmcE.dmc[4].queue.filter fun z => z.wr == w).length ≤ 61) := by decide +kernel
theorem meets_dramQueuesServiceAndRefresh_2 :
    dmcE.queues 4 = true ∧ dmcE.dmcState 4 ≠ 3 ∧ dmcE.xpt.deferred = [] ∧ (((dmcE.gain 9).choose 4 9 ((dmcE.gain 9).dmc[4].queue.filter fun x => (dmcE.gain 9).eligible 4 9 [] x)).map fun x => x.1) = some ⟨2, 0, false, 3, 77, 5, false, .segment 2⟩ := by decide +kernel
theorem meets_dramQueuesServiceAndRefresh_3 :
    (upd dmcE.dmc 4 fun r => { r with rows := [(3, 78)], queue := [] })[4].openRow 3 = some 77 ∧ dmcE.get (Pg.DMC 4) DMC.PAGE.POLICY = 0 ∧ Store.get dmcE.dmc[4].used 3 0 + dmcE.get (Pg.DMC 4) DMC.PAGE.IDLE ≤ 10 ^ 6 := by decide +kernel
theorem meets_snowploughThrottlesAndClears_1 :
    (((upd dmcE.dmc 4 fun r => { r with track := [(3, ⟨77, 2048, 11, 9, false⟩)] })[4].tracker 3).find? fun t => t.row == 77 && decide (dmcE.get Pg.DMX DMX.SNOW.HAMMER_TH ≤ t.cnt) && !t.hit) = some ⟨77, 2048, 11, 9, false⟩ ∧ (dmcE.dmc[4].thr.any fun x => x.bank == 3 && x.who == 11) = false := by decide +kernel
theorem meets_snowploughThrottlesAndClears_2 :
    ((upd dmcE.dmc 4 fun r => { r with thr := [⟨3, 77, 11, 1, 2560, false, 0⟩] })[4].thr.find? fun t => t.bank == 3 && t.row == 77) = some ⟨3, 77, 11, 1, 2560, false, 0⟩ ∧ min (2 * 1) (dmcE.get Pg.DMX DMX.THR.MAX) = 2 := by decide +kernel
theorem meets_channelsRetrainOneAtATime_1 :
    dmcE.dmcState 4 = 2 ∧ dmcE.bit (Pg.DMC 4) DMC.STS.QUEUED = false ∧ dmcE.get Pg.DMX DMX.RETRAIN.OSC_TH < 300 ∧ dmcE.denied .host (Pg.DMC 4) 0x44 false = none ∧ dmcE.busyFor .host (Pg.DMC 4) = false ∧ dmcE.get Pg.DMX DMX.RETRAIN2.LECC_TH < 70000 := by decide +kernel
theorem meets_channelsRetrainOneAtATime_2 :
    ({ dmcE with retrainQ := [4, 0] } : Eng).retrainQ.head? = some 4 ∧ dmcE.bit Pg.DMX DMX.STS.RETRAINING = false := by decide +kernel
theorem meets_channelsRetrainOneAtATime_3 :
    (dmcE.put (Pg.DMC 4) DMC.STS.STATE 3).dmcState 4 = 3 := by decide +kernel
theorem meets_degradationRemapAndInitialisation_1 :
    (dmcE.put (Pg.DMC 4) DMC.STS.STATE 3).dmcState 4 = 3 ∧ capE.armed 2 = true ∧ capE.hasArea 2 = true := by decide +kernel
theorem meets_degradationRemapAndInitialisation_2 :
    (dmcE.put Pg.DMX DMX.STS.SWITCH_PENDING 1).denied .host Pg.DMX 0x4C false = none ∧ dmcE.busyFor .host Pg.DMX = false ∧ dmcE.drains = [] ∧ (∀ u : Fin 8, ¬(dmcE.armed u = true ∧ dmcE.hasArea u = true)) := by decide +kernel
theorem meets_degradationRemapAndInitialisation_3 :
    dmcE.lock = true ∧ dmcE.bit Pg.DMX DMX.STS.INIT_DONE = false ∧ dmcE.get Pg.DMX DMX.POP.N ≠ 0 ∧ dmcE.rst.wait = false := by decide +kernel
theorem meets_dramChannelFrames_1 :
    ∃ t, exec (.retrainPass 3) up = .next t := ⟨_, rfl⟩
theorem meets_monitorConverterServesAndAccumulates_1 :
    up.eng.lock = true ∧ ({ up.eng.mcv with run := some ⟨7, 3, 5, 2⟩ } : McvRt).run = some ⟨7, 3, 5, 2⟩ := by decide +kernel
theorem meets_monitorConverterServesAndAccumulates_2 :
    up.eng.denied .manager Pg.MCV 0xC0 false = none ∧ up.eng.busyFor .manager Pg.MCV = false ∧ (0x80000727#32).toNat % 64 ≤ 39 ∧ (0x80000727#32).getLsbD 31 = true ∧ up.eng.urgentHeld 4 0 = false := by decide +kernel
theorem meets_monitorConverterServesAndAccumulates_3 :
    up.eng.urgentHeld 2 0 = false := by decide +kernel
theorem meets_monitorConverterServesAndAccumulates_4 :
    up.eng.denied .host Pg.MCV 0xD0 false = none ∧ up.eng.busyFor .host Pg.MCV = false ∧ (39 : Fin 64).val ≤ 39 := by decide +kernel
theorem meets_comparatorsFollowFilterAndAreChecked_1 :
    ((up.eng.put Pg.WCP (WCP.CH_CFG.EN 2) 1).put Pg.WCP (WCP.CH_CFG.HYST 2) 4).bit Pg.WCP (WCP.CH_CFG.EN 2) = true := by decide +kernel
theorem meets_comparatorsFollowFilterAndAreChecked_2 :
    (up.eng.put Pg.WCP (WCP.CH_CFG.EN 2) 1).lock = true ∧ wcpN (up.eng.get Pg.WCP (WCP.CH_FLT.NSEL 2)) ≤ 2 + 1 := by decide +kernel
theorem meets_comparatorsFollowFilterAndAreChecked_3 :
    up.eng.denied .host Pg.WCP 0x150 false = none ∧ up.eng.busyFor .host Pg.WCP = false ∧ up.eng.wcpOwner 2 = Src.host.owner ∧ up.eng.urgentHeld 1 2 = false := by decide +kernel
theorem meets_comparatorsFollowFilterAndAreChecked_4 :
    (upd up.eng.wcp 2 fun r => { r with due := true })[2].due = true := by decide +kernel
theorem meets_routerForcesInputsAndParity_1 :
    up.eng.denied .host Pg.EVR 0x4C false = none ∧ up.eng.busyFor .host Pg.EVR = false ∧ up.eng.evrOwner 63 = Src.host.owner ∧ (up.eng.put Pg.PRT (PRT.GRANT_EVR.OWNER 63) 2).evrOwner 63 ≠ Src.host.owner := by decide +kernel
theorem meets_routerForcesInputsAndParity_2 :
    (up.eng.get Pg.EVR EVR.EVIO_DIR.OUT).testBit 15 = false := by decide +kernel
theorem meets_routerForcesInputsAndParity_3 :
    up.eng.evrOwner 63 < 9 := by decide +kernel
theorem meets_transportCountsPositionAndVelocity_1 :
    up.eng.en Pg.XPT = true ∧ (true == up.eng.xpt.a) = !(up.eng.xpt.b == up.eng.xpt.b) := by decide +kernel
theorem meets_transportCountsPositionAndVelocity_2 :
    up.eng.bit Pg.XPT XPT.CFG.CTL_EDGE = !true := by decide +kernel
theorem meets_transportCountsPositionAndVelocity_3 :
    up.eng.denied .host Pg.XPT 0x98 false = none ∧ up.eng.busyFor .host Pg.XPT = false ∧ up.eng.outrunAcq = none ∧ up.eng.ready = true := by decide +kernel
theorem meets_transportCountsPositionAndVelocity_4 :
    ((up.eng.put Pg.XPT XPT.STOP_SRC.EN 1).put Pg.XPT XPT.STOP_SRC.DEST 5).bit Pg.XPT XPT.STOP_SRC.EN = true ∧ ({ up.eng with evr := { up.eng.evr with dst := [5] } } : Eng).dst 5 = true ∧ up.eng.xpt.evrPrev = false ∧ up.eng.lock = true := by decide +kernel
theorem meets_transportCountsPositionAndVelocity_5 :
    (((armE.put (Pg.ACQ 2) ACQ.STS.ARMED 1).put (Pg.ACQ 2) ACQ.STATE.STATE 7)).outrunAcq = some 2 ∧ armE.acq[2].seg = none ∧ armE.xpt.deferred = [] ∧ armE.bit Pg.XPT XPT.STS.READY = false := by decide +kernel
theorem meets_sensorsGiveResultsAndVerdicts_1 :
    (up.eng.put (Pg.SFE 3) HDR.CTL.EN 1).en (Pg.SFE 3) = true ∧ up.eng.lock = true ∧ up.eng.bit (Pg.SFE 3) HDR.STS.PENDING = false ∧ up.eng.sfe[3].skip = true ∧ (upd up.eng.sfe 3 fun r => { r with skip := false, chk := true })[3].skip = false ∧ (upd up.eng.sfe 3 fun r => { r with skip := false, chk := true })[3].chk = true := by decide +kernel
theorem meets_sensorsGiveResultsAndVerdicts_2 :
    (∀ j, j < 32 → up.eng.getI (Pg.SFE 3) (SFE.LIN.X j) < up.eng.getI (Pg.SFE 3) (SFE.LIN.X (j + 1))) ∧ up.eng.getI (Pg.SFE 3) (SFE.LIN.X 31) < up.eng.getI (Pg.SFE 3) (SFE.LIN.X 32) := by decide +kernel
theorem meets_sensorsGiveResultsAndVerdicts_3 :
    ((up.eng.put (Pg.SFE 3) HDR.CTL.EN 1).put (Pg.SFE 3) SFE.IMP.AMP 5).get (Pg.SFE 3) SFE.IMP.AMP ≠ 0 ∧ (up.eng.put (Pg.SFE 3) SFE.CFG.GUARD 1).bit (Pg.SFE 3) SFE.CFG.GUARD = true := by decide +kernel
theorem meets_monitorTransportAndSensorFrames_1 :
    ∃ t, exec (.sfeGuard 3) up = .next t := ⟨_, rfl⟩
theorem meets_hostWindowReadsAndWritesDram_1 :
    (dmcE.put Pg.DMX DMX.STS.INIT_DONE 1).winClosed = false ∧ (partE.winAddr (Src.part 2).owner 0 64) = none ∧ up.eng.winClosed = true := by decide +kernel
theorem meets_hostWindowReadsAndWritesDram_2 :
    ((dmcE.put Pg.DMX DMX.STS.INIT_DONE 1).put Pg.PRT (PRT.P_REGION.COUNT 2) 1).winAddr (Src.part 2).owner 100 64 = some 100 := by decide +kernel
theorem meets_hostWindowReadsAndWritesDram_3 :
    partE.denied (.part 2) Pg.PCI 0x50 false = none ∧ partE.busyFor (.part 2) Pg.PCI = false := by decide +kernel
theorem meets_dmaRingsMoveBlocksAndBytes_1 :
    up.eng.denied .host (Pg.DMQ 3) 0x4C false = none ∧ up.eng.busyFor .host (Pg.DMQ 3) = false ∧ up.eng.get (Pg.DMQ 3) DMQ.SIZE.LOG2 = 4 ∧ (up.eng.get (Pg.DMQ 3) DMQ.TAIL.IDX + 16 - up.eng.get (Pg.DMQ 3) DMQ.HEAD.IDX) % 16 + (15 + 16 - up.eng.get (Pg.DMQ 3) DMQ.TAIL.IDX) % 16 < 16 := by decide +kernel
theorem meets_dmaRingsMoveBlocksAndBytes_2 :
    (ringE.dmaTurn 4 ⟨4096, 0, true, 0⟩ []).isSome = true ∧ ringE.ringUnit 4 = some 2 ∧ ringE.acq[2].blks = [strBlk] ∧ 2 ^ ringE.get (Pg.ACQ 2) ACQ.STR_CFG.BLK ≤ 4096 ∧ ringE.xpt.deferred = [] := by decide +kernel
theorem meets_dmaRingsMoveBlocksAndBytes_3 :
    (ringE.dmaTurn 5 ⟨4096, 0, true, 0⟩ []).isSome = true ∧ (ringE.dmaTurn 5 ⟨4096, 1, true, 0⟩ []).isSome = true ∧ (ringE.dmaTurn 5 ⟨4096, 2, true, 0⟩ []).isSome = true ∧ (ringE.dmaTurn 3 ⟨4096, 1, true, 0⟩ []).isSome = false ∧ ringE.ringUnit 5 = none ∧ ringE.descAddr 5 ⟨4096, 1, true, 0⟩ = some 0 ∧ ringE.descAddr 5 ⟨4096, 1, true, 2 ^ 40⟩ = none := by decide +kernel
theorem meets_dmaRingsMoveBlocksAndBytes_4 :
    (upd up.eng.dmq 3 fun r => { r with cur := some ⟨0, 0, 64, noHdr, true⟩ })[3].cur = some ⟨0, 0, 64, noHdr, true⟩ ∧ up.eng.get (Pg.DMQ 3) DMQ.COAL.N ≤ up.eng.dmq[3].irqN + 1 := by decide +kernel
theorem meets_dmaRingsMoveBlocksAndBytes_5 :
    (upd up.eng.dmq 3 fun r => { r with irqN := 2 })[3].irqN ≠ 0 ∧ (up.eng.put (Pg.DMQ 3) DMQ.COAL.US 10).get (Pg.DMQ 3) DMQ.COAL.US ≠ 0 := by decide +kernel
theorem meets_dmaRingsMoveBlocksAndBytes_6 :
    ringE.fetchable 5 = true ∧ (ringE.dmaTurn 5 ⟨4096, 1, true, 2 ^ 40⟩ [(4, ⟨4096, 0, true, 0⟩)]).isSome = false := by decide +kernel
theorem meets_linkFunctionsAndManagementPort_1 :
    15 < vectors (8 : Fin 9) ∧ (8, 15) ∉ up.eng.unmasked ∧ (0, 63) ∉ up.eng.unmasked := by decide +kernel
theorem meets_linkFunctionsAndManagementPort_2 :
    up.eng.bit Pg.SPI SPI.STS.PRELOCK = false ∧ up.eng.bit Pg.PCI PCI.STS.LINK_UP = false ∧ (5 : Fin 8).val ≤ up.eng.get Pg.PCI PCI.LINK_CAP.MAX_SPEED := by decide +kernel
theorem meets_linkFunctionsAndManagementPort_3 :
    (up.eng.put Pg.PCI PCI.STS.LINK_UP 1).bit Pg.PCI PCI.STS.LINK_UP = true := by decide +kernel
theorem meets_linkFunctionsAndManagementPort_4 :
    up.eng.denied .host Pg.PCI 0x400 false = none ∧ up.eng.busyFor .host Pg.PCI = false ∧ (up.eng.put Pg.PCI HDR.CTL.XU 1).bit Pg.PCI HDR.CTL.XU = true := by decide +kernel
theorem meets_linkFunctionsAndManagementPort_5 :
    (0xFFFFF : Fin 1048576).val = 4096 * (255 : Fin 256).val + (4095 : Fin 4096).val := by decide +kernel
theorem meets_linkFunctionsAndManagementPort_6 :
    up.eng.denied .manager Pg.SPI 0x4C false = none ∧ up.eng.busyFor .manager Pg.SPI = false := by decide +kernel
theorem meets_keyedCommandsActOnceAccepted_1 :
    (mailE 1 [2]).denied .host Pg.KEY 0x90 false = none ∧ (mailE 1 [2]).bit Pg.KEY KEY.STS.BUSY = false ∧ (mailE 1 [2]).lockouts.testBit 0 = false := by decide +kernel
theorem meets_keyedCommandsActOnceAccepted_2 :
    envCmd ((mailE 1 [2]).envelope .host) = 1 ∧ (mailE 1 [2]).envCode .host ((mailE 1 [2]).envelope .host) = none ∧ unusedZero ((mailE 1 [2]).envelope .host) = true ∧ envArg ((mailE 1 [2]).envelope .host) 0 = 2 ∧ (mailE 1 [2]).created 2 = false ∧ (mailE 1 [2]).ready = true ∧ (mailE 1 [2]).xpt.deferred = [] := by decide +kernel
theorem meets_keyedCommandsActOnceAccepted_3 :
    envCmd ((mailE 6 [1, 0, 3]).envelope .host) = 6 ∧ (mailE 6 [1, 0, 3]).envCode .host ((mailE 6 [1, 0, 3]).envelope .host) = none ∧ unusedZero ((mailE 6 [1, 0, 3]).envelope .host) = true ∧ envN ((mailE 6 [1, 0, 3]).envelope .host) 0x10 2 = 1 ∧ envArg ((mailE 6 [1, 0, 3]).envelope .host) 2 = 3 := by decide +kernel
theorem meets_keyedCommandsActOnceAccepted_4 :
    (mailE 99 [2]).envCode .host ((mailE 99 [2]).envelope .host) = none ∧ cmdClass 99 = none ∧ (mailE 8 [1]).envCode .host ((mailE 8 [1]).envelope .host) = none ∧ (mailE 4 [1]).envCode .host ((mailE 4 [1]).envelope .host) = none := by decide +kernel
theorem meets_keyedCommandsActOnceAccepted_5 :
    (mailE 3 [2]).envCode .host ((mailE 3 [2]).envelope .host) = none ∧ (mailE 7 [2]).envCode .host ((mailE 7 [2]).envelope .host) = none ∧ (mailE 2 [2]).envCode .host ((mailE 2 [2]).envelope .host) = none ∧ up.eng.owner Pg.XPT = 8 ∧ ((partE.put Pg.XPT HDR.CTL.EN 0).nibbleRange (.page Pg.XPT) 2 || (partE.put Pg.XPT HDR.CTL.EN 0).nibbleBusy (.page Pg.XPT) 2) = false := by decide +kernel
theorem meets_keyedCommandsActOnceAccepted_6 :
    provE.denied .manager Pg.KEY 0x90 false = none ∧ envCmd (provE.envelope .manager) = 5 ∧ provE.envCode .manager (provE.envelope .manager) = none ∧ unusedZero (provE.envelope .manager) = true ∧ provE.provisions .manager (provE.envelope .manager) = true ∧ envArg (provE.envelope .manager) 1 = 15 := by decide +kernel
theorem meets_keyedCommandsActOnceAccepted_7 :
    ({ up.eng with key := { up.eng.key with run := some ⟨1, 5, 7, 3, 15, 0⟩ } } : Eng).key.run = some ⟨1, 5, 7, 3, 15, 0⟩ ∧ 3 < up.eng.key.slots.length ∧ (∀ p ∈ up.eng.owned 6, kindOf p = .dmq) ∧ (∀ w, w < 8 → up.eng.wcpOwner w ≠ 6) ∧ (∀ d, d < 64 → up.eng.evrOwner d ≠ 6) ∧ up.eng.drains = [] := by decide +kernel
theorem meets_keyedCommandsActOnceAccepted_8 :
    (mailE 1 [2]).bit Pg.KEY HDR.STS.PENDING = false ∧ ((mailE 99 [2]).put Pg.KEY HDR.STS.PENDING 1).bit Pg.KEY HDR.STS.PENDING = true ∧ ((mailE 99 [2]).put Pg.KEY HDR.STS.PENDING 1).envCode .host (((mailE 99 [2]).put Pg.KEY HDR.STS.PENDING 1).envelope .host) = none ∧ (mailE 1 [2, 1]).envCode .host ((mailE 1 [2, 1]).envelope .host) = none ∧ (mailE 0 [2]).xpt.deferred = [] ∧ (∀ p ∈ up.eng.owned 6, up.eng.servesOutrun p = true → (leaseOf p).isSome = true) := by decide +kernel
theorem meets_timeStepsFollowsPpsAndSealsUsage_1 :
    up.eng.denied .host Pg.TIM 0x54 false = none ∧ up.eng.busyFor .host Pg.TIM = false ∧ (5#32).toInt.natAbs ≤ 999999999 ∧ up.eng.timeHeld = false ∧ 999999999 < (0x7FFFFFFF#32).toInt.natAbs := by decide +kernel
theorem meets_timeStepsFollowsPpsAndSealsUsage_2 :
    up.eng.lock = true ∧ up.eng.bit Pg.TIM TIM.PPS_CFG.EDGE = (!true) ∧ up.eng.bit Pg.TIM HDR.STS.PENDING = false ∧ (up.eng.put Pg.TIM TIM.PPS_CFG.MODE 2).get Pg.TIM TIM.PPS_CFG.MODE ≠ 0 := by decide +kernel
theorem meets_timeStepsFollowsPpsAndSealsUsage_3 :
    up.eng.denied .manager Pg.USE 0x40 false = none ∧ up.eng.busyFor .manager Pg.USE = false ∧ (0x17061C01#32).toNat / 2 ^ 8 % 32 = 28 ∧ (0x17061C01#32).toNat / 2 ^ 16 % 8 = 6 ∧ (0x17061C01#32).toNat / 2 ^ 24 % 32 = 23 := by decide +kernel
theorem meets_timeStepsFollowsPpsAndSealsUsage_4 :
    up.eng.denied .host Pg.USE 0x40 false = none := by decide +kernel
theorem meets_timeStepsFollowsPpsAndSealsUsage_5 :
    useE.calValid = true ∧ useE.bit Pg.USE USE.STS.TIMED = true ∧ (useE.get Pg.USE USE.LAST_B.SEC : Int) ≤ useE.utc ∧ (useE.get Pg.USE USE.NEXT_B.SEC : Int) ≤ useE.utc ∧ useE.utc < useE.nextBound (useE.get Pg.USE USE.NEXT_B.SEC) := by decide +kernel
theorem meets_miolanFramesArmTimeAndTrigger_1 :
    mlnE.en Pg.MLN0 = true ∧ mlnE.bit Pg.MLN0 MLN0.STS.FRAMED = true ∧ mlnE.mlnRole = 2 ∧ mlnE.bit Pg.MLN0 MLN0.STS.POSITIONED = true ∧ mlnE.bit Pg.MLN0 MLN0.STS.ALIGNED = true ∧ mlnE.mln.timeHi = some 5 ∧ mlnE.mln.rate = some 7 ∧ mlnE.en Pg.MLN1 = true ∧ ¬((1 : Fin 8).val = mlnE.mlnPos ∧ mlnE.mlnSpeaks = true) := by decide +kernel
theorem meets_miolanFramesArmTimeAndTrigger_2 :
    (mlnE.put Pg.MLN1 MLN1.STS.ARM_WAIT 1).bit Pg.MLN1 MLN1.STS.ARM_WAIT = true ∧ (mlnE.put Pg.MLN0 MLN0.CFG.ROLE 1).mlnRole = 1 ∧ 0 / 256 % 2 ^ 48 = mlnE.mlnId ∧ mlnSpeaker.mlnSpeaks = true ∧ mlnSpeaker.mlnSends (0, 5) = true ∧ mlnSpeaker.mln.tx = [(0, 5)] ∧ mlnSpeaker.bit Pg.MLN0 MLN0.STS.FRAMED = true := by decide +kernel
theorem meets_miolanFramesArmTimeAndTrigger_3 :
    mlnE.readDenied .host Pg.MLN0 0x60 = none ∧ mlnE.mln.fifo = [⟨1, 0, 9, 5⟩] := by decide +kernel
theorem meets_miolanFramesArmTimeAndTrigger_4 :
    mlnE.denied .host Pg.MLN1 0x48 false = none ∧ mlnE.busyFor .host Pg.MLN1 = false ∧ mlnE.tb + (mlnE.get Pg.MLN0 MLN0.RING.T64 + 32 * 64) * mlnE.ckdSpan / 64 ≤ mlnE.execTime (mlnE.get Pg.MLN1 MLN1.ARM0.SEC) 900000 ∧ mlnE.armWaits = false := by decide +kernel
theorem meets_miolanFramesArmTimeAndTrigger_5 :
    mlnE.mln.arms = [(1, 77)] ∧ mlnE.armUnits 1 = [5] ∧ 77 ≤ mlnE.tb + mlnE.ckcPeriod := by decide +kernel
theorem meets_faultRecordsRaiseAckClearAndPurge_1 :
    up.eng.flt.length = 32 ∧ up.eng.fltFind 0 28 FltRec.isFree = some 0 ∧ (∀ r ∈ up.eng.flt, ¬(r.st = 1 ∧ r.page = Pg.PCI ∧ r.index = 1 ∧ r.part = 8 ∧ r.sev = 1)) := by decide +kernel
theorem meets_faultRecordsRaiseAckClearAndPurge_2 :
    (partE.raise Pg.PRT 1 1 2).denied (.part 2) Pg.FLT 0x44 false = none ∧ (partE.raise Pg.PRT 1 1 2).busyFor (.part 2) Pg.FLT = false ∧ ((partE.raise Pg.PRT 1 1 2).flt.getD 0 FltRec.free).part = 2 ∧ ((partE.raise Pg.PRT 1 1 2).flt.getD 0 FltRec.free).st = 1 ∧ ((partE.raise Pg.PRT 1 1 2).flt.getD 0 FltRec.free).seq = (0x100#32).toNat / 2 ^ 16 ∧ (0x100#32).getLsbD 8 = true := by decide +kernel
theorem meets_faultRecordsRaiseAckClearAndPurge_3 :
    up.eng.denied .host Pg.FLT 0x44 false = none ∧ up.eng.busyFor .host Pg.FLT = false ∧ (0x200#32).getLsbD 9 = true := by decide +kernel
theorem meets_faultRecordsRaiseAckClearAndPurge_4 :
    (up.eng.flt.getD 31 FltRec.free).st ≠ 1 := by decide +kernel
theorem meets_resetsAndStartUpLeaveTheirStates_1 :
    up.eng.key.run = none ∧ up.eng.rst.rail = false ∧ State.reset.eng.fused = false ∧ State.reset.eng.rst.rail = false := by decide +kernel
theorem meets_resetsAndStartUpLeaveTheirStates_2 :
    ({ State.reset.eng with fused := true } : Eng).bit Pg.SPI SPI.STS.PRELOCK = true := by decide +kernel
theorem meets_resetsAndStartUpLeaveTheirStates_3 :
    up.eng.starting = false ∧ up.eng.rst.perst = none ∧ up.eng.denied .host Pg.RST 0x40 false = none ∧ up.eng.busyFor .host Pg.RST = false ∧ (0x52530001#32).getLsbD 0 = true ∧ (0x52530001#32).toNat / 2 ^ 16 = 0x5253 ∧ up.eng.rst.soft = none ∧ up.eng.rst.held = none ∧ up.eng.bud.trip = false := by decide +kernel
theorem meets_resetsAndStartUpLeaveTheirStates_4 :
    ({ up.eng.rst with soft := some 5 } : RstRt).soft = some 5 ∧ up.eng.drains = [] ∧ up.eng.outrunAcq = none ∧ up.eng.lock = true ∧ up.eng.retune = false ∧ up.eng.key.run = none := by decide +kernel
theorem meets_resetsAndStartUpLeaveTheirStates_5 :
    partE.denied .host Pg.RST 0x44 false = none ∧ partE.busyFor .host Pg.RST = false ∧ (4#32).getLsbD 2 = true ∧ partE.created 2 = true ∧ 2 < partE.nParts ∧ partE.partState 2 ≠ 0 ∧ partE.xpt.deferred = [] := by decide +kernel
theorem meets_resetsAndStartUpLeaveTheirStates_6 :
    up.eng.denied .host Pg.RST 0x48 false = none ∧ up.eng.blkRight .host Pg.MCV = true ∧ blkPage Pg.MCV = true ∧ up.eng.blkAbsorbed .host = false ∧ up.eng.rst.blk = [] := by decide +kernel
theorem meets_resetsAndStartUpLeaveTheirStates_7 :
    ({ up.eng.rst with blk := [(Pg.FCH 3, 8)] } : RstRt).blk.find? (fun x => x.1 == Pg.FCH 3) = some (Pg.FCH 3, 8) ∧ up.eng.drainsFor (.blk (Pg.FCH 3)) = false := by decide +kernel
theorem meets_portLinkTimeAndFaultFrames_1 :
    ∃ t, exec (.mlnRxIdle 3 77) up = .next t := ⟨_, rfl⟩
theorem meets_invalidWordsDiscardTheirBlock_1 :
    up.eng.xpt.deferred = [] ∧ (up.eng.put (Pg.CAL 0) CAL.STS.RUN 1).bit (Pg.CAL 0) CAL.STS.RUN = true ∧ up.eng.wordOk 0 = false := by decide +kernel
theorem meets_invalidWordsDiscardTheirBlock_2 :
    (up.eng.put (Pg.CAL 3) CAL.STS.RUN 1).bit (Pg.CAL 3) CAL.STS.RUN = true ∧ (upd up.eng.cal 3 fun r => { r with dirty := true })[3].dirty = true := by decide +kernel
theorem meets_unimplementedPagesReadZeroAndDropWrites_1 :
    (∀ r ∈ [(0x00, 0x08), (0x10, 0x14), (0x18, 0x1B), (0x20, 0x28), (0x30, 0x37), (0x40, 0x4F), (0x60, 0x68), (0x70, 0x72), (0x78, 0x7C), (0x80, 0x81), (0x88, 0x97), (0xA0, 0xA0), (0xB0, 0xB1), (0xF0, 0xF0)], ¬(r.1 ≤ (0xEF : Fin 256).val ∧ (0xEF : Fin 256).val ≤ r.2)) ∧ up.eng.bit Pg.SPI SPI.STS.PRELOCK = false := by decide +kernel

end Sys2Proof.Tests
end

section
/-! SUPPORT. O7: the fields of a page stand at places of their own, so that a write of one word stores them one by one; and what
the registers that follow a stored word leave alone. -/
namespace Sys2Proof.Machine

/-! ### Places: a field's word and lowest bit as one number -/

/-- A field's place in its page. -/
def Fld.place (f : Fld) : Nat := f.off * 128 + f.lo

/-- The field starts at an aligned word of a page, at a bit the key of the store has room for. -/
def Fld.placed (f : Fld) : Prop := f.off % 4 = 0 ∧ f.off < 4096 ∧ f.lo < 128

theorem regKey_eq_iff {p q : Nat} {f g : Fld} (hf : f.off < 4096 ∧ f.lo < 128) (hg : g.off < 4096 ∧ g.lo < 128) :
    regKey q g = regKey p f ↔ q = p ∧ g.place = f.place := by
  unfold regKey Fld.place; omega

theorem regKey_ne_of_place {p q : Nat} {f g : Fld} (hf : f.placed) (hg : g.placed) (h : g.place ≠ f.place) : regKey q g ≠ regKey p f :=
  fun k => h ((regKey_eq_iff hf.2 hg.2).mp k).2

/-- The numbers of the list are distinct and none is a bit of `m`: one pass, with those met so far as the bits of a number. -/
def distinctFrom : Nat → List Nat → Bool
  | _, [] => true
  | m, a :: l => !m.testBit a && distinctFrom (m ||| 2 ^ a) l

theorem nodup_of_distinctFrom (l : List Nat) : ∀ m, distinctFrom m l = true → (∀ a ∈ l, m.testBit a = false) ∧ l.Nodup := by
  induction l with
  | nil => intro m _; simp
  | cons a l ih =>
    intro m h
    simp only [distinctFrom, Bool.and_eq_true, Bool.not_eq_true'] at h
    obtain ⟨hfresh, hrest⟩ := h
    obtain ⟨hfree, hnodup⟩ := ih _ hrest
    have hsplit : ∀ b ∈ l, m.testBit b = false ∧ a ≠ b := by
      intro b hb
      simpa [Nat.testBit_or, Nat.testBit_two_pow] using hfree b hb
    exact ⟨List.forall_mem_cons.mpr ⟨hfresh, fun b hb => (hsplit b hb).1⟩,
      List.nodup_cons.mpr ⟨fun ha => (hsplit a ha).2 rfl, hnodup⟩⟩

theorem Kind.allRows_placed (k : Kind) : ∀ r ∈ k.allRows, r.f.placed := by
  unfold Fld.placed; cases k <;> decide +kernel

theorem Kind.allRows_distinctFrom (k : Kind) : distinctFrom 0 (k.allRows.map fun r => r.f.place) = true := by
  cases k <;> decide +kernel

/-- No two fields of a page have one place. -/
theorem Kind.allRows_nodup (k : Kind) : (k.allRows.map fun r => r.f.place).Nodup :=
  (nodup_of_distinctFrom _ 0 k.allRows_distinctFrom).2

theorem rowsAt_placed {k : Kind} {off : Nat} {r : Row} (h : r ∈ rowsAt k off) : r.f.placed :=
  k.allRows_placed r (List.mem_filter.mp h).1

theorem rowsAt_pairwise (k : Kind) (off : Nat) : (rowsAt k off).Pairwise fun a b => a.f.place ≠ b.f.place :=
  (List.pairwise_map.mp k.allRows_nodup).filter _

/-- A field of one word stands in the word its offset names. -/
theorem rowsAt_off {k : Kind} {off : Nat} {r : Row} (h : r ∈ rowsAt k off) (ha : off % 4 = 0) (hw : r.f.words = 1) : r.f.off = off := by
  have hp := rowsAt_placed h
  have hin := (List.mem_filter.mp h).2
  simp only [hw, Bool.and_eq_true, decide_eq_true_eq] at hin
  unfold Fld.placed at hp
  omega

/-! ### A write of one field -/

/-- The shadow reads what was put, within the field's width. -/
theorem Eng.sh_shPut_self (e : Eng) (p : Nat) (f : Fld) (v : Nat) : (e.shPut p f v).sh p f = v % 2 ^ f.w := Store.get_put_self _ _ _ _

theorem Eng.sh_shPut_ne (e : Eng) {p q : Nat} {f g : Fld} (v : Nat) (h : regKey q g ≠ regKey p f) : (e.shPut p f v).sh q g = e.sh q g :=
  Store.get_put_ne _ _ _ _ h

theorem Eng.sh_put_ne (e : Eng) {p q : Nat} {f g : Fld} (v : Nat) (h : regKey q g ≠ regKey p f) : (e.put p f v).sh q g = e.sh q g := by
  unfold Eng.sh; rw [Eng.get_put_ne e v h]; rfl

/-- A field that is written as a whole word takes its bits of the data: nothing is left of what it held. -/
theorem Fld.merge_whole (f : Fld) (d v : Nat) (h : f.words = 1) : f.merge f.off d v = d / 2 ^ f.lo % 2 ^ f.w := by
  have hfit : f.lo + f.w ≤ 32 := by unfold Fld.words at h; omega
  obtain ⟨j, hj⟩ := Nat.exists_eq_add_of_le hfit
  have hup (x : Nat) : x * 2 ^ 32 = 2 ^ f.lo * (2 ^ f.w * (2 ^ j * x)) := by
    rw [hj, Nat.pow_add, Nat.pow_add, Nat.mul_comm x, Nat.mul_assoc, Nat.mul_assoc]
  simp only [Fld.merge, Nat.sub_self, Nat.mul_zero, Nat.pow_zero, Nat.mod_one, Nat.mul_one, Nat.zero_add]
  rw [hup, Nat.add_mul_div_left _ _ (Nat.two_pow_pos _), Nat.add_mul_mod_self_left]

theorem Row.staged_not_direct {r : Row} (h : r.acc = .rws ∨ r.acc = .rwls) : r.direct = false := by
  rcases h with h | h <;> simp [Row.direct, h]

/-- What a write of one field can be: a new live value in the view, a new shadow of a staged field, or nothing that a register
or a shadow holds. -/
theorem Eng.fieldWrite_cases (e : Eng) (vp p off d : Nat) (r : Row) :
    (∃ v, e.fieldWrite vp p off d r = e.put vp r.f v) ∨
    ((r.acc = .rws ∨ r.acc = .rwls) ∧ e.fieldWrite vp p off d r = e.shPut p r.f (r.f.merge off d (e.sh p r.f))) ∨
    (∃ l, e.fieldWrite vp p off d r = { e with latch := l }) := by
  unfold Eng.fieldWrite
  cases hacc : r.acc with
  | rw | rwl => cases e.stored vp off d r with
    | some v => exact .inl ⟨_, rfl⟩
    | none => exact .inr (.inr ⟨_, rfl⟩)
  | rws | rwls => exact .inr (.inl ⟨by simp, rfl⟩)
  | w1c => exact .inl ⟨_, rfl⟩
  | ro | wo => exact .inr (.inr ⟨e.latch, rfl⟩)

theorem Eng.fieldWrite_direct (e : Eng) {vp p off d : Nat} {r : Row} (hd : r.direct = true) (hw : r.f.words = 1) (ho : off ≠ 0x1C) :
    e.fieldWrite vp p off d r = e.put vp r.f (d / 2 ^ r.f.lo % 2 ^ r.f.w) := by
  have hs : e.stored vp off d r = some (d / 2 ^ r.f.lo % 2 ^ r.f.w) := by simp [Eng.stored, hw]
  simp only [Row.direct, Bool.or_eq_true, beq_iff_eq] at hd
  rcases hd with h | h <;> simp [Eng.fieldWrite, h, hs, ho]

theorem Eng.fieldWrite_staged (e : Eng) {vp p off d : Nat} {r : Row} (hs : r.acc = .rws ∨ r.acc = .rwls) :
    e.fieldWrite vp p off d r = e.shPut p r.f (r.f.merge off d (e.sh p r.f)) := by
  rcases hs with h | h <;> simp [Eng.fieldWrite, h]

@[simp] theorem Eng.fieldWrite_resp (e : Eng) (vp p off d : Nat) (r : Row) : (e.fieldWrite vp p off d r).resp = e.resp := by
  rcases e.fieldWrite_cases vp p off d r with ⟨v, h⟩ | ⟨-, h⟩ | ⟨l, h⟩ <;> rw [h] <;> rfl

/-- A write of a field elsewhere leaves the live value and the shadow under a key alone. -/
theorem Eng.fieldWrite_ne (e : Eng) {vp p off d q : Nat} {r : Row} {g : Fld} (hv : regKey q g ≠ regKey vp r.f) (hp : regKey q g ≠ regKey p r.f) :
    (e.fieldWrite vp p off d r).get q g = e.get q g ∧ (e.fieldWrite vp p off d r).sh q g = e.sh q g := by
  rcases e.fieldWrite_cases vp p off d r with ⟨v, h⟩ | ⟨-, h⟩ | ⟨l, h⟩
  · rw [h]; exact ⟨e.get_put_ne v hv, e.sh_put_ne v hv⟩
  · rw [h]; exact ⟨rfl, e.sh_shPut_ne _ hp⟩
  · rw [h]; exact ⟨rfl, rfl⟩

/-! ### A write of the fields of a word, one after the other -/

/-- The fields of `l`, written in turn from one word. -/
def Eng.fieldWrites (e : Eng) (vp p off d : Nat) (l : List Row) : Eng := l.foldl (fun a r => a.fieldWrite vp p off d r) e

theorem Eng.fieldWrites_resp (vp p off d : Nat) (l : List Row) : ∀ e : Eng, (e.fieldWrites vp p off d l).resp = e.resp := by
  induction l with
  | nil => exact fun _ => rfl
  | cons r l ih => intro e; exact (ih _).trans (e.fieldWrite_resp vp p off d r)

theorem Eng.fieldWrites_ne {vp p off d : Nat} {g : Fld} (q : Nat) (hg : g.placed) (l : List Row)
    (h : ∀ x ∈ l, x.f.placed ∧ g.place ≠ x.f.place) : ∀ e : Eng,
    (e.fieldWrites vp p off d l).get q g = e.get q g ∧ (e.fieldWrites vp p off d l).sh q g = e.sh q g := by
  induction l with
  | nil => exact fun _ => ⟨rfl, rfl⟩
  | cons x l ih =>
    intro e
    obtain ⟨hx, hne⟩ := h x (by simp)
    obtain ⟨hget, hsh⟩ := ih (fun y hy => h y (by simp [hy])) (e.fieldWrite vp p off d x)
    obtain ⟨hget1, hsh1⟩ := e.fieldWrite_ne (d := d) (off := off) (regKey_ne_of_place (q := q) (p := vp) hx hg hne) (regKey_ne_of_place (p := p) hx hg hne)
    exact ⟨hget.trans hget1, hsh.trans hsh1⟩

/-- Among fields at places of their own, one field is written in a state that still holds its values, and keeps what it was
given. -/
theorem Eng.fieldWrites_at (e : Eng) (vp p off d : Nat) {l : List Row} {r : Row} (hr : r ∈ l) (hpl : ∀ x ∈ l, x.f.placed)
    (hdis : l.Pairwise fun a b => a.f.place ≠ b.f.place) :
    ∃ a : Eng, (∀ q, a.get q r.f = e.get q r.f) ∧
      ∀ q, (e.fieldWrites vp p off d l).get q r.f = (a.fieldWrite vp p off d r).get q r.f ∧
        (e.fieldWrites vp p off d l).sh q r.f = (a.fieldWrite vp p off d r).sh q r.f := by
  obtain ⟨l1, l2, rfl⟩ := List.append_of_mem hr
  obtain ⟨-, hdis2, hcross⟩ := List.pairwise_append.mp hdis
  have hr' := hpl r hr
  have before : ∀ x ∈ l1, x.f.placed ∧ r.f.place ≠ x.f.place := fun x hx =>
    ⟨hpl x (by simp [hx]), (hcross x hx r (by simp)).symm⟩
  have after : ∀ x ∈ l2, x.f.placed ∧ r.f.place ≠ x.f.place := fun x hx =>
    ⟨hpl x (by simp [hx]), (List.pairwise_cons.mp hdis2).1 x hx⟩
  refine ⟨e.fieldWrites vp p off d l1, fun q => (Eng.fieldWrites_ne q hr' l1 before e).1, fun q => ?_⟩
  have hcut : e.fieldWrites vp p off d (l1 ++ r :: l2) =
      ((e.fieldWrites vp p off d l1).fieldWrite vp p off d r).fieldWrites vp p off d l2 := by
    simp [Eng.fieldWrites]
  rw [hcut]
  exact Eng.fieldWrites_ne q hr' l2 after _

/-! ### Registers that follow the rest of the state -/

/-- Words that what follows a stored word may change: those of the pages of faults, of the management port and of the sequencers,
and by their offsets the status words of a channel's calibration and of a chain (R123, R151-R153). -/
def followWord (p off : Nat) : Bool :=
  kindOf p == .flt || kindOf p == .spi || kindOf p == .trg || [0x14, 0x18, 0x44, 0x48, 0x54, 0x5C, 0x60].contains off

/-- From `e` to `t` only such words change among the registers; no shadow and no answer does. -/
structure Eng.Follows (e t : Eng) : Prop where
  resp : t.resp = e.resp
  shad : t.shad = e.shad
  get : ∀ (q : Nat) (g : Fld), g.off < 4096 → g.lo < 128 → followWord q g.off = false → t.get q g = e.get q g

namespace Eng.Follows

theorem refl (e : Eng) : e.Follows e := ⟨rfl, rfl, fun _ _ _ _ _ => rfl⟩

theorem trans {a b c : Eng} (h : a.Follows b) (k : b.Follows c) : a.Follows c :=
  ⟨k.resp.trans h.resp, k.shad.trans h.shad, fun q g ho hl hf => (k.get q g ho hl hf).trans (h.get q g ho hl hf)⟩

/-- Registers, shadows and the answer are as they were. -/
theorem of_eq {e t : Eng} (hr : t.resp = e.resp) (hs : t.shad = e.shad) (hl : t.live = e.live) : e.Follows t :=
  ⟨hr, hs, fun q g _ _ _ => by rw [Eng.get_def, hl, ← Eng.get_def]⟩

theorem put {a e : Eng} (h : a.Follows e) {p : Nat} {f : Fld} (v : Nat) (ho : f.off < 4096) (hl : f.lo < 128)
    (hf : followWord p f.off = true) : a.Follows (e.put p f v) := by
  refine h.trans ⟨rfl, rfl, fun q g hgo hgl hg => e.get_put_ne v fun hk => ?_⟩
  obtain ⟨rfl, hpl⟩ := (regKey_eq_iff ⟨ho, hl⟩ ⟨hgo, hgl⟩).mp hk
  have : g.off = f.off := by unfold Fld.place at hpl; omega
  simp [this, hf] at hg

theorem branch {a e t : Eng} {c : Prop} [Decidable c] (he : a.Follows e) (ht : a.Follows t) : a.Follows (if c then e else t) := by
  split
  · exact he
  · exact ht

theorem foldl {α : Type} {g : Eng → α → Eng} (hg : ∀ (e : Eng) (x : α), e.Follows (g e x)) (l : List α) : ∀ e : Eng, e.Follows (l.foldl g e) := by
  induction l with
  | nil => exact refl
  | cons x l ih => intro e; exact (hg e x).trans (ih _)

theorem msix (e : Eng) (n v : Nat) : e.Follows (e.msix n v) := by
  unfold Eng.msix
  split
  · exact of_eq rfl rfl rfl
  · exact branch (refl e) (of_eq rfl rfl rfl)

theorem msgClass (e : Eng) (o c : Nat) : e.Follows (e.msgClass o c) := by
  unfold Eng.msgClass
  exact branch (branch (msix _ _ _) (refl e)) (msix _ _ _)

theorem pageMsg (e : Eng) (p : Nat) : e.Follows (e.pageMsg p) := by
  unfold Eng.pageMsg
  split
  · exact refl e
  · refine branch (msix _ _ _) (branch (refl e) (branch ?_ (msgClass _ _ _)))
    exact (msgClass _ _ _).trans (foldl (fun a n => branch (msgClass _ _ _) (refl a)) _ _)

/-- An interrupt bit: IST is such a word wherever it stands. -/
theorem ist {a e : Eng} (h : a.Follows e) (p : Nat) {f : Fld} (ho : f.off = 0x18) (hl : f.lo < 128) : a.Follows (e.ist p f) := by
  have hput : a.Follows (e.put p f (e.get p f ||| 1)) := h.put _ (by omega) hl (by simp [followWord, ho])
  unfold Eng.ist Eng.istOr
  exact branch (hput.trans (pageMsg _ _)) hput

theorem alert (e : Eng) (b : Nat) : e.Follows (e.alert b) := (refl e).put _ (by decide) (by decide) (by decide)

theorem fltOvf (e : Eng) : e.Follows e.fltOvf := ((refl e).put _ (by decide) (by decide) (by decide)).ist _ rfl (by decide)

theorem fltNotify (e : Eng) (sev part : Nat) : e.Follows (e.fltNotify sev part) := by
  unfold Eng.fltNotify
  extract_lets e1 e2
  have h1 : e.Follows e1 := branch ((refl e).ist _ rfl (by decide)) (refl e)
  have h2 : e.Follows e2 := branch (h1.trans (msgClass _ _ _)) h1
  exact branch (h2.trans (alert _ _)) h2

theorem raise (e : Eng) (page index sev part : Nat) : e.Follows (e.raise page index sev part) := by
  unfold Eng.raise Eng.record
  split
  · exact of_eq rfl rfl rfl
  · split
    · exact ((refl e).put _ (by decide) (by decide) (by decide)).trans (fltOvf _)
    · extract_lets seq r e1 e2 e3
      have h2 : e.Follows e2 :=
        ((of_eq rfl rfl rfl : e.Follows e1).put _ (by decide) (by decide) (by decide)).put _ (by decide) (by decide) (by decide)
      have h3 : e.Follows e3 := branch ((h2.put _ (by decide) (by decide) (by decide)).trans (fltOvf _)) h2
      exact h3.trans (fltNotify _ _ _)

/-! The reach of the sequencers that a chain feeds -/

theorem putTrg {a e : Eng} (h : a.Follows e) (t : Fin 8) {f : Fld} (v : Nat) (ho : f.off < 4096) (hl : f.lo < 128) :
    a.Follows (e.put (Pg.TRG t) f v) :=
  h.put v ho hl (by
    have : kindOf (Pg.TRG t) = .trg := by revert t; decide
    simp [followWord, this])

theorem gate0 (e : Eng) (t : Fin 8) (at' : Nat) : e.Follows (e.gate0 t at') := by
  unfold Eng.gate0
  have h1 (f : TrgRt → TrgRt) : e.Follows (e.onTrg t f) := of_eq rfl rfl rfl
  exact ((((h1 _).putTrg t _ (by decide) (by decide)).putTrg t _ (by decide) (by decide)).putTrg t _ (by decide) (by decide)).putTrg t _
    (by decide) (by decide)

theorem trgReach (e : Eng) (t : Fin 8) : e.Follows (e.trgReach t) := by
  unfold Eng.trgReach
  extract_lets p c e1
  have h1 : e.Follows e1 := ((refl e).putTrg t _ (by decide) (by decide)).putTrg t _ (by decide) (by decide)
  have hdue : e.Follows (e1.onTrg t fun r => { r with due := none }) := h1.trans (of_eq rfl rfl rfl)
  refine branch h1 (branch ?_ (branch ?_ h1))
  · exact ((hdue.putTrg t _ (by decide) (by decide)).ist _ rfl (by decide)).trans (raise _ _ _ _ _)
  · exact (h1.putTrg t _ (by decide) (by decide)).trans (gate0 _ _ _)

theorem fchRefresh (e : Eng) (f : Fin 8) : e.Follows (e.fchRefresh f) := by
  unfold Eng.fchRefresh
  extract_lets p e1 e2
  have h1 : e.Follows e1 :=
    (((refl e).put _ (by decide) (by decide) (by simp [followWord, FCH.GD.G256])).put _ (by decide) (by decide)
      (by simp [followWord, FCH.LAT.CARVE])).put _ (by decide) (by decide) (by simp [followWord, FCH.STS.TRG_OK])
  have h2 : e.Follows e2 := h1.put _ (by decide) (by decide) (by simp [followWord, FCH.STS.GDREF])
  exact h2.trans (foldl (fun a t => branch (trgReach a t) (refl a)) _ _)

/-! The status of a converter's calibration -/

theorem loopSts_word (m : Nat) : (loopSts m).off = 0x48 ∧ (loopSts m).lo < 128 := by
  unfold loopSts
  split
  · decide
  · split
    · decide
    · split <;> decide

theorem showLoops (e : Eng) (c : Fin 4) : e.Follows (e.showLoops c) := by
  refine foldl (fun a m => ?_) _ e
  obtain ⟨ho, hl⟩ := loopSts_word m
  exact (refl a).put _ (by omega) hl (by simp [followWord, ho])

theorem tmoRestart (e : Eng) (c : Fin 4) : e.Follows (e.tmoRestart c) := by
  unfold Eng.tmoRestart
  have h1 : e.Follows (e.onCal c fun r => { r with tmoT := 0 }) := of_eq rfl rfl rfl
  exact h1.put _ (by decide) (by decide) (by simp [followWord, CAL.TMO_ELAPSED.MS])

theorem converge {a e : Eng} (h : a.Follows e) (c : Fin 4) (now : Bool) : a.Follows (e.converge c now) := by
  unfold Eng.converge
  extract_lets p was e1 e2
  have h1 : a.Follows e1 := (h.put _ (by decide) (by decide) (by simp [followWord, CAL.STS.CONVERGED])).put _ (by decide) (by decide)
    (by simp [followWord, CAL.QUAL.CAL_Q])
  have hbad : a.Follows ((e1.put p CAL.STS.BAD 0).ist p CAL.IST.CONV) :=
    (h1.put _ (by decide) (by decide) (by simp [followWord, CAL.STS.BAD])).ist _ rfl (by decide)
  have h2 : a.Follows e2 := branch hbad (branch (h1.trans (tmoRestart e1 c)) h1)
  exact h2.put _ (by decide) (by decide) (by simp [followWord, CAL.STS.CALSTARVED])

theorem calStatus (e : Eng) (c : Fin 4) : e.Follows (e.calStatus c) := by
  unfold Eng.calStatus
  extract_lets p l enter e1 e2
  have h1 : e.Follows e1 := (showLoops e c).put _ (by decide) (by decide) (by simp [followWord, CAL.STS.STARVED])
  have h2 : e.Follows e2 := branch (h1.ist _ rfl (by decide)) h1
  exact h2.converge c _

theorem ienShown (e was : Eng) (p vp : Nat) : e.Follows (e.ienShown was p vp) := by
  unfold Eng.ienShown
  exact branch (foldl (fun a n => branch (msix _ _ _) (refl a)) _ e) (branch (pageMsg _ _) (refl e))

/-- What a stored word means at once reaches words that follow the state alone. -/
theorem wordEffect (e was : Eng) (p vp off : Nat) : e.Follows (e.wordEffect was p vp off) := by
  unfold Eng.wordEffect
  exact branch (ienShown _ _ _ _) (branch (calStatus _ _) (branch (fchRefresh _ _) (refl e)))

end Eng.Follows

/-- A word other than IEN with an effect at once is no word that follows the state, and has no view. -/
theorem Eng.wordEffect_cases (e was : Eng) (who : Src) (p vp off : Nat) (h : off ≠ 0x1C) :
    e.wordEffect was p vp off = e ∨ (followWord p off = false ∧ viewPage who p off = p) := by
  unfold Eng.wordEffect
  rw [if_neg h]
  split
  · rename_i hc
    obtain ⟨hk, rfl, -⟩ := hc
    exact .inr (by simp [followWord, viewPage, hk])
  · split
    · rename_i hc
      obtain ⟨hk, rfl | rfl⟩ := hc <;> exact .inr (by simp [followWord, viewPage, hk])
    · exact .inl rfl

/-- The effect leaves the fields of the written word alone, in the view and on the page. -/
theorem Eng.wordEffect_get (e was : Eng) (who : Src) {p off q : Nat} {g : Fld} (h : off ≠ 0x1C) (hg : g.placed) (ho : g.off = off)
    (hq : q = p ∨ q = viewPage who p off) :
    (e.wordEffect was p (viewPage who p off) off).get q g = e.get q g ∧ (e.wordEffect was p (viewPage who p off) off).sh q g = e.sh q g := by
  obtain hid | ⟨hf, hv⟩ := e.wordEffect_cases was who p (viewPage who p off) off h
  · rw [hid]; exact ⟨rfl, rfl⟩
  · have hqp : q = p := by simpa [hv] using hq
    have hfol := Eng.Follows.wordEffect e was p (viewPage who p off) off
    have hget := hfol.get q g hg.2.1 hg.2.2 (by rw [hqp, ho]; exact hf)
    exact ⟨hget, by unfold Eng.sh; rw [hfol.shad, hget]⟩

/-! ### The word -/

theorem Eng.wordPut_resp (e : Eng) (who : Src) (p off d : Nat) : (e.wordPut who p off d).resp = ⟨0, []⟩ := by
  unfold Eng.wordPut
  extract_lets vp d' e1
  exact (Eng.Follows.wordEffect e1 e p vp off).resp.trans (Eng.fieldWrites_resp vp p off d' _ _)

/-- A word that is neither IEN nor EVIO_DIR: the field is written in a state that still holds its values, and keeps what it was
given. -/
theorem Eng.wordPut_at (e : Eng) (who : Src) {p off d : Nat} {r : Row} (hr : r ∈ rowsAt (kindOf p) off) (ha : off % 4 = 0)
    (hw : r.f.words = 1) (h1C : off ≠ 0x1C) (hdir : ¬(p = Pg.EVR ∧ off = 0x40)) :
    ∃ a : Eng, (∀ q, a.get q r.f = e.get q r.f) ∧ ∀ q, q = p ∨ q = viewPage who p off →
      (e.wordPut who p off d).get q r.f = (a.fieldWrite (viewPage who p off) p off d r).get q r.f ∧
      (e.wordPut who p off d).sh q r.f = (a.fieldWrite (viewPage who p off) p off d r).sh q r.f := by
  obtain ⟨a, hbefore, hafter⟩ := Eng.fieldWrites_at { e with resp := ⟨0, []⟩ } (viewPage who p off) p off d hr
    (fun _ hx => rowsAt_placed hx) (rowsAt_pairwise _ _)
  refine ⟨a, hbefore, fun q hq => ?_⟩
  obtain ⟨hget, hsh⟩ := Eng.wordEffect_get (Eng.fieldWrites { e with resp := ⟨0, []⟩ } (viewPage who p off) p off d (rowsAt (kindOf p) off))
    e who h1C (rowsAt_placed hr) (rowsAt_off hr ha hw) hq
  have hput : e.wordPut who p off d = (Eng.fieldWrites { e with resp := ⟨0, []⟩ } (viewPage who p off) p off d
      (rowsAt (kindOf p) off)).wordEffect e p (viewPage who p off) off := by
    unfold Eng.wordPut; rw [if_neg hdir]; rfl
  rw [hput]
  exact ⟨hget.trans (hafter q).1, hsh.trans (hafter q).2⟩

/-- A field that is written directly holds its bits of the data. -/
theorem Eng.wordPut_direct (e : Eng) (who : Src) {p off d : Nat} {r : Row} (hr : r ∈ rowsAt (kindOf p) off) (ha : off % 4 = 0)
    (hw : r.f.words = 1) (h1C : off ≠ 0x1C) (hdir : ¬(p = Pg.EVR ∧ off = 0x40)) (hd : r.direct = true) :
    (e.wordPut who p off d).get (viewPage who p off) r.f = d / 2 ^ r.f.lo % 2 ^ r.f.w := by
  obtain ⟨a, -, hat⟩ := e.wordPut_at who (d := d) hr ha hw h1C hdir
  rw [(hat _ (.inr rfl)).1, a.fieldWrite_direct hd hw h1C, Eng.get_put_self, Nat.mod_mod]

/-- A staged field's shadow holds its bits of the data; its live value stays. -/
theorem Eng.wordPut_staged (e : Eng) (who : Src) {p off d : Nat} {r : Row} (hr : r ∈ rowsAt (kindOf p) off) (ha : off % 4 = 0)
    (hw : r.f.words = 1) (h1C : off ≠ 0x1C) (hdir : ¬(p = Pg.EVR ∧ off = 0x40)) (hs : r.acc = .rws ∨ r.acc = .rwls) :
    (e.wordPut who p off d).sh p r.f = d / 2 ^ r.f.lo % 2 ^ r.f.w ∧ (e.wordPut who p off d).get p r.f = e.get p r.f := by
  obtain ⟨a, hbefore, hat⟩ := e.wordPut_at who (d := d) hr ha hw h1C hdir
  obtain ⟨hget, hsh⟩ := hat p (.inl rfl)
  rw [a.fieldWrite_staged hs] at hget hsh
  have hoff := rowsAt_off hr ha hw
  refine ⟨?_, hget.trans (hbefore p)⟩
  rw [hsh, Eng.sh_shPut_self, ← hoff, Fld.merge_whole _ _ _ hw, Nat.mod_mod]

/-- Where the page takes the word, it is written; or, with no field that a write reaches, the write is ignored. -/
theorem Eng.wordWrite_of_plainTakes {e : Eng} {who : Src} {p off : Nat} {data : Word} (h : e.plainTakes who p off data) :
    e.wordWrite who p off data.toNat = e.wordPut who p off data.toNat ∨
    ((∀ r ∈ rowsAt (kindOf p) off, r.acc = .ro ∨ r.acc = .wo) ∧ e.wordWrite who p off data.toNat = { e with resp := ⟨0, []⟩ }) := by
  obtain ⟨-, hdenied, hdbg, hpart, hvec, howner, hlocked, hrange, hbusy⟩ := h
  unfold Eng.wordWrite
  simp only [hdenied]
  generalize hrows : (rowsAt (kindOf p) off).filter (fun r => r.acc != .ro && r.acc != .wo) = rows
  have hmem : ∀ r, r ∈ rows ↔ r ∈ rowsAt (kindOf p) off ∧ r.acc ≠ .ro ∧ r.acc ≠ .wo := by
    intro r; simp [← hrows, List.mem_filter]
  have hopen : ¬(rows.any Row.locked = true ∧ (!e.bit p HDR.CTL.XU) = true) := by
    rintro ⟨hany, hxu⟩
    obtain ⟨r, hr, hl⟩ := List.any_eq_true.mp hany
    have := hlocked (List.any_eq_true.mpr ⟨r, ((hmem r).mp hr).1, hl⟩)
    simp [this] at hxu
  rw [if_neg (by simpa using hdbg)]
  by_cases hnil : rows = []
  · refine .inr ⟨fun r hr => ?_, if_pos hnil⟩
    refine Decidable.byContradiction fun hacc => ?_
    have hin : r ∈ rows := (hmem r).mpr ⟨hr, not_or.mp hacc⟩
    simp [hnil] at hin
  · left
    rw [if_neg hnil, if_neg (by simpa using hpart), if_neg hvec, if_neg (by simp [howner]), if_neg hopen, if_neg (by simp [hrange]),
      if_neg (by simp [hbusy])]

theorem Eng.wordWrite_resp {e : Eng} {who : Src} {p off : Nat} {data : Word} (h : e.plainTakes who p off data) :
    (e.wordWrite who p off data.toNat).resp = ⟨0, []⟩ := by
  obtain hput | ⟨-, hign⟩ := Eng.wordWrite_of_plainTakes h
  · rw [hput]; exact e.wordPut_resp who p off _
  · rw [hign]

/-- A word with a field that a write reaches is written. -/
theorem Eng.wordWrite_eq_wordPut {e : Eng} {who : Src} {p off : Nat} {data : Word} (h : e.plainTakes who p off data) {r : Row}
    (hr : r ∈ rowsAt (kindOf p) off) (hacc : ¬(r.acc = .ro ∨ r.acc = .wo)) :
    e.wordWrite who p off data.toNat = e.wordPut who p off data.toNat :=
  (Eng.wordWrite_of_plainTakes h).resolve_right fun hign => hacc (hign.1 r hr)

/-- REGISTER_WRITE of a word that no command stands for is the word's write, where no other access comes with it. -/
theorem exec_registerWrite_plain (s : State) (who : Src) (page : Fin 256) (off : Fin 4096) (data : Word) (ha : aligned off = true)
    (hc : (wordCmd who page off data).isNone = true) :
    exec (.registerWrite who page off data none) s = .next { s with eng := s.eng.wordWrite who page off data.toNat } := by
  have hoff : off.val / 4 * 4 = off.val := by
    simp only [aligned, beq_iff_eq] at ha; omega
  change busWrite who page (off.val / 4 * 4) data s = _
  rw [hoff, busWrite, Option.isNone_iff_eq_none.mp hc]
  rfl

/-- Settles O7: the fields of a word stand at places of their own, so each is written as if alone, and what follows the write
reaches other words. -/
theorem takenWriteStoresItsFields : Obligations.TakenWriteStoresItsFields := by
  unfold Obligations.TakenWriteStoresItsFields
  intro s who page off data ha htake
  have ha4 : off.val % 4 = 0 := by simpa [aligned] using ha
  have hplain := htake.1
  refine ⟨_, exec_registerWrite_plain s who page off data ha hplain, Eng.wordWrite_resp htake,
    fun r hr hw h1C hdir => ⟨fun hd => ?_, fun hs => ?_⟩⟩
  · have hacc : ¬(r.acc = .ro ∨ r.acc = .wo) := by
      rintro (h | h) <;> simp [Row.direct, h] at hd
    dsimp only
    rw [Eng.wordWrite_eq_wordPut htake hr hacc]
    exact s.eng.wordPut_direct who hr ha4 hw h1C hdir hd
  · have hacc : ¬(r.acc = .ro ∨ r.acc = .wo) := by
      rcases hs with h | h <;> simp [h]
    dsimp only
    rw [Eng.wordWrite_eq_wordPut htake hr hacc]
    exact s.eng.wordPut_staged who hr ha4 hw h1C hdir hs

end Sys2Proof.Machine
end
